-- ==== Sys2Proof/Word.lean ====
section
/-! DEFINITION. The word types of the Griux (R7: little-endian fields, bit 0 least significant). -/

namespace Sys2Proof

/-- One byte. -/
abbrev Byte := BitVec 8

/-- A 16-bit field. -/
abbrev U16 := BitVec 16

/-- A 32-bit field. -/
abbrev U32 := BitVec 32

/-- A 64-bit field. -/
abbrev U64 := BitVec 64

/-- A string of bytes, the byte at the lowest address first. -/
abbrev Bytes := List Byte

end Sys2Proof
end

