-- ==== Sys2Proof/Syntax.lean ====
section
/-! DEFINITION. The commands of the Griux, one constructor per row of spec/opcode_table.json, and their operands.
What comes from outside the module (bytes of host memory, messages of peers, readings of sensors and timers) is an
operand; everything else is in State. -/

namespace Sys2Proof

/-- A task of a loaded job: the job context and the task's number in the binary (R314). -/
structure TaskRef where
  job : Nat
  task : Nat
  deriving DecidableEq, Repr

/-- A DMA channel by kind and job-relative number (R430): a core channel belongs to a task, a die channel to a die. -/
structure ChanRef where
  job : Nat
  /-- true for a die channel -/
  die : Bool
  /-- the task number of a core channel, the die number of a die channel -/
  owner : Nat
  num : Nat
  deriving DecidableEq, Repr

/-- A ring command that COMMAND_READ has read: its queue, which enabling of the queue it was read under (R288), and its ring
sequence number (R291). -/
structure CmdRef where
  queue : Nat
  enabling : Nat
  sequence : Nat
  deriving DecidableEq, Repr

/-- A reset domain by kind and index (R345). -/
structure Domain where
  kind : Nat
  index : Nat
  deriving DecidableEq, Repr

/-! ## The program binary

The encoding of a binary belongs to the Denzer documentation; these structures hold what the manual says a binary
declares (R42 to R58, R62, R65, R86, R89, R100, R120, R126, R127, R129, R133, R149, R154, R164, R212 to R216, R232, R262, R271,
R277, R314, R334, R362). -/

/-- What an HBM region is for. -/
inductive RegionRole where
  | plain      -- ordinary data
  | scratch    -- marked scratch: not cast (R331)
  | epoch      -- an epoch region: two halves (R149)
  | slot0      -- weight slot 0 of a hinge reserve (R134)
  | slot1      -- weight slot 1
  | kvPool     -- the KV pool (R334)
  | deferral   -- the deferral reserve (R262)
  | reshard    -- the scratch reserve of RESHARD (R232)
  deriving DecidableEq, Repr

/-- An HBM region that a binary declares (R120): whole blocks of 256 MiB on one stack. -/
structure RegionDecl where
  number : Nat
  stack : Nat
  blocks : Nat
  /-- logical length in bytes -/
  bytes : Nat
  role : RegionRole
  /-- initial bytes of the region: offset and byte -/
  image : List (Nat × Byte)
  deriving DecidableEq, Repr

/-- A place in a program before relocation: a region and an offset, or an offset in the task's workspace. -/
inductive Place where
  | region (number off : Nat)
  | workspace (off : Nat)
  deriving DecidableEq, Repr

/-- A relocation record (R120): the 8 bytes at workspace offset `off` take the address of the place. -/
structure Reloc where
  off : Nat
  place : Place
  deriving DecidableEq, Repr

/-- A channel that a task's binary declares (R86, R430). -/
structure ChanDecl where
  die : Bool
  num : Nat
  /-- the program it runs at JOB_START; none leaves it idle (R87) -/
  entry : Option Place
  /-- error mode: true is SKIP -/
  skip : Bool
  /-- marked step; false is steady (R148) -/
  step : Bool
  /-- where SKIP restarts it (R154) -/
  skipEntry : Option Place
  deriving DecidableEq, Repr

/-- One task of a binary (R314). -/
structure TaskDecl where
  workspaceKib : Nat
  image : List (Nat × Byte)
  relocs : List Reloc
  /-- array instruction words in program order (R57) -/
  arrays : List Bytes
  /-- vector instruction words in program order (R65) -/
  vectors : List Bytes
  /-- optimiser descriptors that appear in the binary (R164) -/
  optUpdates : List Bytes
  /-- UPDATE instructions whose descriptors appear in the binary: stack and descriptor (R129) -/
  updates : List (Nat × Bytes)
  /-- the channels CHGO, CHSTAT and CHCLR name: die kind and number (R430) -/
  chanOps : List (Bool × Nat)
  chans : List ChanDecl
  /-- the DMA programs held in the binary, each a list of 32-byte instructions (R89) -/
  programs : List (List Bytes)
  /-- numbers of the regions the task works on (R315) -/
  regions : List Nat
  /-- epoch regions in workspace: offset and length (R149) -/
  epochWorkspace : List (Nat × Nat)
  /-- collective numbers its COLLSTART instructions name (R214) -/
  collectives : List Nat
  /-- the fingerprint slot it feeds (R362) -/
  fpSlot : Option Nat
  /-- the master regions of that slot: region number and global index of its first master (R361, R362) -/
  fpRegions : List (Nat × Nat)
  deriving DecidableEq, Repr

/-- A member table entry (R215). -/
structure MemberEntry where
  device : U32
  firstLeaf : Nat
  leafCount : Nat
  firstContributor : Nat
  deriving DecidableEq, Repr

/-- A shard table entry (R216). -/
structure PieceEntry where
  first : Nat
  count : Nat
  member : Nat
  deriving DecidableEq, Repr

/-- A collective that a binary declares: its number, its I/O die and its context descriptor (R212, R213). -/
structure CollDecl where
  num : Nat
  ioDie : Nat
  op : Nat
  flags : Byte
  sendFormat : Byte
  recvFormat : Byte
  width : Nat
  memberCount : Nat
  reducingCore : Nat
  ringDepth : Nat
  reservedZero : Bool
  param : Nat
  pieceCount : Nat
  memberTable : Place
  shardTable : Place
  landing : Place
  landingBytes : Nat
  members : List MemberEntry
  pieces : List PieceEntry
  deriving DecidableEq, Repr

/-- A streamed layer (R125): number, tier (0 to 11 a stack, 12 the far tier), bytes and array steps of one pass. -/
structure LayerDecl where
  number : Nat
  tier : Nat
  bytes : Nat
  steps : Nat
  deriving DecidableEq, Repr

/-- The serving declarations of a binary (R334). -/
structure ServeDecl where
  contexts : Nat
  batchCapacity : Nat
  tokensPerStep : Nat
  kvRegion : Nat
  kvBytes : Nat
  /-- where the batch list goes (R336) -/
  batchList : Place
  deriving DecidableEq, Repr

/-- A program binary. -/
structure Binary where
  /-- the bytes break the Denzer format: a fault of the binary -/
  malformed : Bool
  classF : Bool
  detStrict : Bool
  virtualWidth : Nat
  layout : U64
  /-- SHA3-384 of the bytes (R331) -/
  digest : Bytes
  tasks : List TaskDecl
  eventLines : Nat
  regions : List RegionDecl
  /-- bytes of one weight slot; none without a hinge reserve -/
  hingeSlotBytes : Option Nat
  hingeChannels : Nat
  farWindowBytes : Nat
  /-- claimed streaming rates in bytes per second: tier and rate (R126) -/
  claims : List (Nat × Nat)
  layers : List LayerDecl
  collectives : List CollDecl
  serve : Option ServeDecl
  /-- class number of each fingerprint slot (R362) -/
  fpClasses : List Nat
  deriving DecidableEq, Repr

/-! ## Operands of events -/

/-- A fault that an arithmetic unit makes in one instruction: element of the tile and the bits flipped (R365). -/
structure Glitch where
  element : Nat
  flips : U64
  deriving DecidableEq, Repr

/-- What physical faults do to an array instruction: errors that the 80/64 code finds in the accumulators (R61), and for a
selected tile the faults of the two runs on the array and on the vector engine (R366). -/
structure TileFaults where
  /-- corrected accumulator words -/
  corrected : Nat
  /-- an uncorrectable accumulator word is met -/
  uncorrectable : Bool
  array1 : Option Glitch
  vector1 : Option Glitch
  array2 : Option Glitch
  vector2 : Option Glitch
  deriving DecidableEq, Repr

/-- A 256-byte flit as received (R186); `codes` is what the 80/64 decoder says of each of its 24 codewords (the code's matrix is
not published): 0 good, 1 corrected, 2 uncorrectable. -/
structure Flit where
  bytes : Bytes
  codes : List Nat
  deriving DecidableEq, Repr

/-- A message header group (R198). -/
structure Header where
  route : U64
  downList : U64
  dest : U32
  source : U32
  opcode : Byte
  flags : Byte
  epochStep : U16
  tag : Nat
  reason : Nat
  address : U64
  length : Nat
  job : Nat
  membership : Nat
  deriving DecidableEq, Repr

/-- A complete message on a port: header, content, and the 8-byte words of the content that the decoder finds uncorrectable. -/
structure Msg where
  hdr : Header
  content : Bytes
  bad : List Nat
  deriving DecidableEq, Repr

/-- What one training of a port finds (R184): good lanes here and at the far end, round trip, far-end identifier. -/
structure TrainResult where
  lanesHere : U16
  lanesFar : U16
  rttNs : Nat
  neighbour : U32
  deriving DecidableEq, Repr

/-- A member of a job tree (R238). -/
structure TreeEntry where
  device : U32
  parent : U32
  deputy : Nat
  deriving DecidableEq, Repr

/-- A late decision (R263, R264). -/
structure Decision where
  contributor : Nat
  code : Nat
  origin : Nat
  deriving DecidableEq, Repr

/-- The exact square accumulator of R174: 640-bit fixed point and its NON_FINITE bit. -/
structure SquareAcc where
  sum : Nat
  nonFinite : Bool
  deriving DecidableEq, Repr

/-- A VERDICT message (R161): what the tree has combined. -/
structure VerdictMsg where
  step : Nat
  /-- code of R160; a module that combines the verdict itself ignores it -/
  code : Nat
  /-- contributors whose all-finite flag arrived false -/
  nonFinite : List Nat
  /-- square accumulator of each contributor (R176), by virtual index -/
  contribSq : List (Nat × SquareAcc)
  globalSq : SquareAcc
  /-- per group, U and W of the update of the step before (R175) -/
  groupSq : List (Nat × SquareAcc × SquareAcc)
  /-- fingerprint slot values of the update of the step before, summed over the modules (R362) -/
  fingerprints : List U64
  /-- after a repeat (R364): the values read back -/
  repeated : Option (List U64)
  deriving DecidableEq, Repr

/-- A member's report for HINGE_SWITCH (R143): batch step, and whether its inactive slot is READY with the generation. -/
structure HingeReport where
  device : U32
  batchStep : Nat
  ready : Bool
  deriving DecidableEq, Repr

/-- A change of a stream distributed over the job tree (R337). -/
inductive StreamChange where
  | admission (tag : U32) (cls policy : Nat)
  | finish (stream : Nat)
  | change (stream policy : Nat) (tag : U32)
  deriving DecidableEq, Repr

/-- A job-wide command on the job tree (R247). -/
inductive JobWide where
  | hingeSwitch (generation : Nat) (followAll : Bool) (target : Nat)
  /-- a request to the coordinator, with the batch steps that the members report -/
  | streamAsk (steps : List Nat) (change : StreamChange)
  | stream (boundary : Nat) (change : StreamChange)
  | membershipRemove (devices : List U32)
  | reshardReady (device : U32)
  | reshardLost
  deriving DecidableEq, Repr

/-- One move of a RESHARD plan's round as this module sees it (R233, R234): local when the peer is the module itself, else data that
comes from the peer or goes to it. -/
structure ReshardMove where
  peer : U32
  incoming : Bool
  /-- where the elements lie here, for a local or an outgoing move -/
  src : Nat
  /-- where they go here, for a local or an incoming move -/
  dst : Nat
  elements : Nat
  srcFormat : Byte
  /-- format in which they travel -/
  travelFormat : Byte
  dstFormat : Byte
  deriving DecidableEq, Repr

/-- A RESHARD plan for this module (R231); its encoding belongs to the Denzer documentation. -/
structure Plan where
  oldLayout : U64
  newLayout : U64
  /-- the new context descriptors' op, flags, formats and width for every collective, and the job's V -/
  collectives : List CollDecl
  virtualWidth : Nat
  /-- logical bytes of the new shard of each region: region number and bytes -/
  shards : List (Nat × Nat)
  rounds : List (List ReshardMove)
  newMembers : List TreeEntry
  /-- devices of the old layout -/
  oldMembers : List U32
  membersChange : Bool
  /-- the program for the new layout, task by task -/
  tasks : List TaskDecl
  deriving DecidableEq, Repr

/-- A CAST image as RECAST reads it, with the bytes of its far-tier and peer regions (R331): the image's own layout is
given by the manual for the header; the settings it carries are the blocks of R304. -/
structure Image where
  header : Bytes
  settings : Bytes
  /-- per task: workspace bytes, event-line counters, saved channel positions as written by CAST -/
  taskBytes : List Bytes
  instances : List Nat
  deferrals : List Decision
  streams : List Bytes
  manifest : List Bytes
  /-- contents of the regions whose source is not in place: region number and bytes -/
  regionBytes : List (Nat × Bytes)
  deriving DecidableEq, Repr

/-- A unit that can idle (R404). -/
inductive IdleUnit where
  | core (c : Nat)
  | die (d : Nat)
  | device
  deriving DecidableEq, Repr

/-- What the adapter answers (R101, R122): the acknowledgement of a write, read data, or a refusal because the window is gone. -/
inductive AdapterAnswer where
  | ack
  | data (b : Bytes)
  | refused
  deriving DecidableEq, Repr

/-- The known-answer outcome of one run of the in-field test (R370): none passes; some is the failure signature (R371). -/
abbrev TestOutcome := Option (Nat × Nat)

/-- The commands. -/
inductive Instr where
  -- arrays, vector engine and core controller
  | mma (t : TaskRef) (w : Bytes) (faults : TileFaults)
  | recomputeVote (core : Nat) (fault : Option Glitch)
  | coreFence (core : Nat)
  | vadd (t : TaskRef) (w : Bytes)
  | vsub (t : TaskRef) (w : Bytes)
  | vmul (t : TaskRef) (w : Bytes)
  | vfma (t : TaskRef) (w : Bytes)
  | vdiv (t : TaskRef) (w : Bytes)
  | vsqrt (t : TaskRef) (w : Bytes)
  | vmax (t : TaskRef) (w : Bytes)
  | vmin (t : TaskRef) (w : Bytes)
  | vcvt (t : TaskRef) (w : Bytes)
  | vexp (t : TaskRef) (w : Bytes)
  | vlog (t : TaskRef) (w : Bytes)
  | vrsqrt (t : TaskRef) (w : Bytes)
  | vtanh (t : TaskRef) (w : Bytes)
  | verf (t : TaskRef) (w : Bytes)
  | vsigm (t : TaskRef) (w : Bytes)
  | vrsum (t : TaskRef) (w : Bytes)
  | vrmax (t : TaskRef) (w : Bytes)
  | vrmin (t : TaskRef) (w : Bytes)
  | vperm (t : TaskRef) (w : Bytes)
  | vwsum (t : TaskRef) (w : Bytes)
  | vptree (t : TaskRef) (w : Bytes)
  | vrand (t : TaskRef) (w : Bytes)
  | vrndu (t : TaskRef) (w : Bytes)
  | vld (t : TaskRef) (w : Bytes)
  | vst (t : TaskRef) (w : Bytes)
  | scalarOperation (t : TaskRef) (op : Byte) (fmt : Byte) (a b c : U64)
  | ppoint (t : TaskRef)
  | sectionOverrun (core : Nat)
  | phase (t : TaskRef) (opens : Bool) (number : Nat) (timer1Ns : Nat)
  | tilekey (t : TaskRef) (key : U64)
  | pace (t : TaskRef) (line : Nat) (period : U32)
  | pacingPulse (t : TaskRef)
  | controllerWait (t : TaskRef) (line count : Nat)
  | chgoStart (t : TaskRef) (die : Bool) (num : Nat) (value : U64)
  | chgoRetry (t : TaskRef) (die : Bool) (num : Nat) (value : U64)
  | chgoNext (t : TaskRef) (die : Bool) (num : Nat) (value : U64)
  | chgoAbort (t : TaskRef) (die : Bool) (num : Nat) (value : U64)
  | chstat (t : TaskRef) (die : Bool) (num : Nat)
  | chclr (t : TaskRef) (die : Bool) (num : Nat) (mask : U64)
  | epoch (t : TaskRef) (skipEntry : U64)
  | nonfin (t : TaskRef) (contributor : Nat)
  | lsexp (t : TaskRef)
  | optupd (t : TaskRef) (off : Nat)
  | update (t : TaskRef) (stack off : Nat)
  | updateDescriptorRun (stack : Nat)
  | collstart (t : TaskRef) (off : Nat)
  | collectiveInstanceDone (job coll : Nat)
  | cready (t : TaskRef) (contributor : Nat)
  | batch (t : TaskRef) (tokens : List (Nat × Nat)) (smallest : Nat)
  | sexit (t : TaskRef) (stream : Nat)
  -- DMA programs
  | dmaEnd (c : ChanRef)
  | move (c : ChanRef)
  | loop (c : ChanRef)
  | wait (c : ChanRef)
  | signal (c : ChanRef)
  -- memory tiers and the hinge
  | hbmScrub (stack : Nat) (word count : Nat) (found : List (Nat × Bool))
  | hingePrepare (r : CmdRef)
  | hingeCopyDone (job : Nat) (image : Bytes)
  | hingeCopyFail (job : Nat) (cause : Nat)
  | hingeSwitch (r : CmdRef) (reports : List HingeReport)
  | hingeAbandon (r : CmdRef)
  -- the training step
  | verdict (job : Nat) (v : VerdictMsg)
  | groupSet (r : CmdRef)
  -- fabric
  | portStop (r : CmdRef)
  | portConfigure (r : CmdRef)
  | portStart (r : CmdRef)
  | portStatus (r : CmdRef)
  | routeSet (r : CmdRef)
  | farEndTraining (port : Nat)
  | trainingDone (port : Nat) (result : TrainResult)
  | trainTime (port : Nat)
  | lossOfLight (port : Nat)
  | laneLossOfLock (port : Nat) (lane : Nat)
  | retrainDone (port : Nat) (result : TrainResult)
  | dataFlit (port : Nat) (f : Flit)
  | idleFlit (port : Nat) (f : Flit)
  | retryTimeout (port : Nat)
  | messageForward (port vc : Nat)
  | write (port : Nat) (m : Msg)
  | read (port : Nat) (m : Msg)
  | readData (port : Nat) (m : Msg)
  | writeAck (port : Nat) (m : Msg)
  | nak (port : Nat) (m : Msg)
  | busyResend (port tag : Nat)
  | transportTimeout (port tag : Nat)
  -- collectives and re-sharding
  | term (port : Nat) (m : Msg)
  | data (port : Nat) (m : Msg)
  | summary (port : Nat) (m : Msg) (contributor : Nat) (finite : Bool) (acc : SquareAcc)
  | collectiveCredit (port : Nat) (m : Msg)
  | collectiveCounts (port : Nat) (m : Msg)
  | reshard (r : CmdRef) (plan : Plan)
  -- membership
  | membershipSet (r : CmdRef)
  | membershipRemove (r : CmdRef)
  | membershipStatus (r : CmdRef)
  | heartbeatPeriod
  | heartbeat (port : Nat) (m : Msg)
  | heartbeatSilence (device : U32)
  | goodbye (port : Nat) (m : Msg)
  | suspect (port : Nat) (m : Msg) (device : U32) (reason : Nat) (ownsPiece : Bool)
  | gatherWindowClose (job : Nat)
  | propose (port : Nat) (m : Msg) (epoch : Nat) (removed : List U32) (added : List TreeEntry) (rank : Nat)
  | lineup (port : Nat) (m : Msg) (epoch count : Nat)
  | lineupAllowance (job : Nat)
  | turn (port : Nat) (m : Msg) (epoch : Nat) (removed : List U32) (added : List TreeEntry)
  | abandon (port : Nat) (m : Msg) (epoch : Nat)
  | proposalTimeout (job : Nat)
  | repropose (job : Nat)
  | evict (port : Nat) (m : Msg)
  | isolate (job : Nat)
  | ready (port : Nat) (m : Msg) (step : Nat) (notReady : List (Nat × Nat))
  | readyDeadline (job : Nat)
  | inclusion (job : Nat) (step n : Nat) (decisions : List Decision) (replayBytes : Bytes)
  | jobWideCommand (port : Nat) (m : Msg) (c : JobWide)
  -- keeper's hourly work
  | patinaDecay
  | flashCopy
  -- host interface
  | doorbell (q : Nat) (tail : U32)
  | ringEnable (q : Nat) (value : U64)
  | ringDisable (q : Nat) (value : U64)
  | registerWrite (offset size : Nat) (value : U64)
  | commandRead (q : Nat) (slots : Bytes) (indirect : Bytes)
  | commandTimeout (r : CmdRef)
  | nop (r : CmdRef)
  | jobConfigure (r : CmdRef)
  | jobWait (r : CmdRef)
  | detEnforce (r : CmdRef)
  | mbGo (ctrl : U32)
  | mbRefusedClear
  | maquette
  -- jobs
  | jobLoad (r : CmdRef) (bin : Binary)
  | jobUnload (r : CmdRef)
  | jobStart (r : CmdRef)
  | jobStop (r : CmdRef)
  | cast (r : CmdRef)
  | recast (r : CmdRef) (image : Image)
  | lend (r : CmdRef)
  | reclaim (r : CmdRef)
  | taskReady (t : TaskRef)
  | preempt (core : Nat) (overUs : Nat)
  | sliceEnd (core : Nat)
  | streamAdmit (r : CmdRef) (steps : List Nat)
  | streamEnd (r : CmdRef) (steps : List Nat)
  | streamSet (r : CmdRef) (steps : List Nat)
  | streamStatus (r : CmdRef)
  -- the deadbolt path
  | logRead
  | dumpRead
  | bulkCopyDone
  | dumpCopyFail (bytesWritten : Nat) (cause : Nat)
  | portGoodbye
  | lasersOff
  | fenceAll
  | deviceReset
  | powerOff
  | resetDrainEnd (d : Domain)
  | resetDone (d : Domain) (durationUs : Nat)
  | escalate (d : Domain) (failedStep : Nat)
  | deviceHeld (failedStep : Nat)
  | thermalTrip (die : Nat) (deciCelsius : Nat)
  | resetNFall
  | resetNRise
  | nerurStall (ageUs : Nat)
  | correctedSummary (d : Domain)
  | kpEventClear (mask : U64)
  | i3cEntdaa (address : Byte)
  | i3cPrivateWrite (bytes : Bytes)
  | i3cPrivateRead (count : Nat)
  -- in-field test
  | testRun (r : CmdRef)
  | testDue (core : Nat)
  | testForced (core : Nat)
  | testDone (core : Nat) (first : TestOutcome) (second : TestOutcome)
  | healthRead (r : CmdRef)
  -- firmware
  | firmwareWrite (r : CmdRef)
  | firmwareActivate (r : CmdRef)
  | attest (r : CmdRef)
  | nerurReady
  | nerurReadyTimeout
  -- power
  | powerWindow (watts deciAmps : Nat)
  | profileSet (r : CmdRef)
  | regulatorStep (die : Nat) (paceMhz : Nat)
  | thermalThrottle (die : Nat) (hottest : Nat)
  | wakeBudget (r : CmdRef)
  | idleEntry (u : IdleUnit)
  | wakeEvent (u : IdleUnit)
  | pacingWake (core : Nat)
  | powerUp
  | powerLoss
  | overvoltage (deciVolts : Nat)
  | evtIn0Fall
  | evtIn1Fall
  | evtIn1Rise
  | adapterAcknowledgement (id : Nat) (a : AdapterAnswer)
  | adapterWindowTableWrite (windows : List (Nat × Nat)) (farRateMBps : Nat)
  | goodbyeRepeat
  | evtIn0Rise
  | logMirrorComplete
  deriving DecidableEq, Repr

end Sys2Proof
end

