-- ==== Sys2Proof/Decode.lean ====
section
/-! DEFINITION. No row of the opcode table of this block gives bits, so no word spells a command. -/

namespace Sys2Proof

/-- The command that a word spells by the table's bits: none, since every row's fields are empty. -/
def decodeTableWord (_nbits _w : Nat) : Option Instr := none

end Sys2Proof
end

