-- ==== Sys2Proof/Config.lean ====
section
/-! DEFINITION. What one implementation fixes and what the manual leaves open: constants without a body are free
values, so that no proof can see what they are. -/

namespace Sys2Proof.Config

/-- The numerics signature of stepping B0 (R1, R274). -/
def signature : U32 := 0x6C1E2B40

/-- The family field of the identity block (R307). -/
def family : U16 := 0x0008

/-- Number of core slots of the part (R9). -/
def coreSlots : Nat := 192

/-- FREE VALUE (log entry 2). Which of the FP32 values inside the bound of R66 a transcendental unit returns: a fixed
function of the function number and the input bits (R67). -/
opaque transChoice : Nat → U32 → Nat

/-- FREE VALUE (log entry 3). The words of the hardware entropy source of VRNDU (R73), by the number of words drawn. -/
opaque entropy : Nat → U32

/-- FREE VALUE (log entry 22). A total of a tile whose faulty unit is not known, so that none of the computed totals can be
trusted (R366): draw and element. -/
opaque untrusted : Nat → Nat → BitVec 64

/-- FREE VALUE (log entry 4). Which of old and new an overlapping MOVE reads for one 8-byte word (R93), by draw. -/
opaque raceReadsNew : Nat → Bool

/-- FREE VALUE (log entry 26). Which addend an UNORDERED reduction takes next (R225), by draw. -/
opaque orderPick : Nat → Nat

/-- FREE VALUE (log entry 27). The global squared norm of a step that includes no contribution, where R176 divides by zero: the
bits of the accumulator's sum and the loss exponent. -/
opaque openSquare : Nat → Int → BitVec 64

/-- FREE VALUE (log entry 5). Whether a signature of ML-DSA-65 verifies: key, digest, signature bytes. The algorithm is
published elsewhere and the manual does not give it (R379, R389). -/
opaque mldsaVerifies : Bytes → Bytes → Bytes → Bool

/-- FREE VALUE (log entry 5). The signature that the key ward returns for a digest (R394): identity of the module, digest. -/
opaque mldsaSign : U32 → Bytes → Bytes

/-- FREE VALUE (log entry 5). Bolnar's public key held in the keeper ROM (R379). -/
opaque bolnarKey : Unit → Bytes

/-- FREE VALUE (log entry 5). Bolnar's certificate of the identity key, at most 8,192 bytes are used (R394). -/
opaque certificate : U32 → Bytes

/-- FREE VALUE (log entry 5). The digest of the boot ROM that measurement entry 0 holds (R395). -/
opaque bootRomDigest : Unit → Bytes

/-- FREE VALUE (log entry 6). The random-value part of the I3C provisional ID (R360). -/
opaque i3cRandomId : Nat → U32

/-- FREE VALUE (log entry 7). Bytes of MB_DATA read while BUSY is set (R309), by draw. -/
opaque busyByte : Nat → Byte

/-- FREE VALUE (log entry 8). The contents of dump sections whose encoding is not published (R354): section kind, dump id. -/
opaque dumpSection : Nat → Nat → Bytes

end Sys2Proof.Config
end

