-- ==== Sys2Proof/Machine/Bytes.lean ====
section
/-! DEFINITION. Bytes, fields and the published functions on them: little-endian fields (R7), CRC-32C (R293), the
64-bit CRC of flits (R188), Philox-4x32-10 (R40), fingerprints (R361) and SHA3-384 (R331, R379). -/

namespace Sys2Proof.Machine

/-- The number that little-endian bytes spell (R7). -/
def leNat : Bytes → Nat
  | [] => 0
  | b :: bs => b.toNat + 256 * leNat bs

/-- `n` little-endian bytes of a number (R7). -/
def toLe : Nat → Nat → Bytes
  | 0, _ => []
  | n + 1, v => BitVec.ofNat 8 v :: toLe n (v / 256)

/-- `n` bytes from offset `off` of a record; missing bytes read as zero (R292). -/
def sliceZ (b : Bytes) (off n : Nat) : Bytes :=
  let s := (b.drop off).take n
  s ++ List.replicate (n - s.length) 0

/-- The little-endian field of `n` bytes at offset `off`. -/
def fieldN (b : Bytes) (off n : Nat) : Nat := leNat (sliceZ b off n)

/-- Bits [lo + n - 1 : lo] of a number. -/
def bitsOf (v lo n : Nat) : Nat := (v / 2 ^ lo) % 2 ^ n

/-- Bit `i` of a number. -/
def bitOf (v i : Nat) : Bool := (v / 2 ^ i) % 2 == 1

/-- Two's complement reading of the low `n` bits of a number (n positive). -/
def signedOf (v n : Nat) : Int :=
  let w := v % 2 ^ n
  if w < 2 ^ (n - 1) then (w : Int) else (w : Int) - (2 ^ n : Nat)

/-- The low `n` bits of an integer in two's complement. -/
def wrapInt (i : Int) (n : Nat) : Nat := (i % (2 ^ n : Nat)).toNat

/-- Number of significant bits. -/
def bitLen (n : Nat) : Nat := if n = 0 then 0 else Nat.log2 n + 1

/-- Whether every byte is zero. -/
def allZero (b : Bytes) : Bool := b.all (· == 0)

/-- A record of `len` bytes with fields laid into it: offset, size, value; other bytes zero. -/
def layRecord (len : Nat) (fields : List (Nat × Nat × Nat)) : Bytes :=
  fields.foldl (fun r f => r.take f.1 ++ toLe f.2.1 f.2.2 ++ r.drop (f.1 + f.2.1)) (List.replicate len 0)

/-- A string of bytes laid into a record at an offset. -/
def layBytes (r : Bytes) (off : Nat) (b : Bytes) : Bytes := r.take off ++ b ++ r.drop (off + b.length)

/-- `b` extended with zeros to a multiple of `n` bytes. -/
def padTo (n : Nat) (b : Bytes) : Bytes := b ++ List.replicate ((n - b.length % n) % n) 0

/-- Rounded up to a multiple. -/
def roundUp (v n : Nat) : Nat := (v + n - 1) / n * n

/-- Ceiling of a quotient. -/
def ceilDiv (a b : Nat) : Nat := (a + b - 1) / b

/-- The list without its entry at `i` replaced by the function's value there. -/
def modifyAt {α : Type} (l : List α) (i : Nat) (f : α → α) : List α := l.modify i f

/-! ## CRC -/

/-- One bit of CRC-32C in reflected form (R293). -/
def crc32cBit (r : BitVec 32) : BitVec 32 :=
  if r.getLsbD 0 then (r >>> 1) ^^^ 0x82F63B78#32 else r >>> 1

/-- One byte of CRC-32C. -/
def crc32cByte (r : BitVec 32) (b : Byte) : BitVec 32 :=
  let x := r ^^^ b.setWidth 32
  crc32cBit (crc32cBit (crc32cBit (crc32cBit (crc32cBit (crc32cBit (crc32cBit (crc32cBit x)))))))

/-- CRC-32C: initial value all ones, final value inverted (R293). -/
def crc32c (b : Bytes) : U32 := ~~~ (b.foldl crc32cByte 0xFFFFFFFF#32)

/-- One bit of the flit CRC, most significant bit first (R188). -/
def crc64Bit (r : BitVec 64) : BitVec 64 :=
  if r.getMsbD 0 then (r <<< 1) ^^^ 0x42F0E1EBA9EA3693#64 else r <<< 1

/-- One byte of the flit CRC. -/
def crc64Byte (r : BitVec 64) (b : Byte) : BitVec 64 :=
  let x := r ^^^ (b.setWidth 64 <<< 56)
  crc64Bit (crc64Bit (crc64Bit (crc64Bit (crc64Bit (crc64Bit (crc64Bit (crc64Bit x)))))))

/-- The 64-bit CRC of a flit: ECMA-182 polynomial, register all ones, final register inverted (R188). -/
def crc64 (b : Bytes) : U64 := ~~~ (b.foldl crc64Byte 0xFFFFFFFFFFFFFFFF#64)

/-! ## Philox-4x32-10 (R40) -/

/-- A Philox counter and key. -/
structure Philox where
  c0 : U32
  c1 : U32
  c2 : U32
  c3 : U32
  k0 : U32
  k1 : U32
  deriving DecidableEq, Repr

/-- One round of R40's pseudocode. -/
def Philox.round (x : Philox) : Philox :=
  let p0 : Nat := 0xD2511F53 * x.c0.toNat
  let p1 : Nat := 0xCD9E8D57 * x.c2.toNat
  { c0 := BitVec.ofNat 32 (p1 / 2 ^ 32) ^^^ x.c1 ^^^ x.k0
    c1 := BitVec.ofNat 32 p1
    c2 := BitVec.ofNat 32 (p0 / 2 ^ 32) ^^^ x.c3 ^^^ x.k1
    c3 := BitVec.ofNat 32 p0
    k0 := x.k0 + 0x9E3779B9#32
    k1 := x.k1 + 0xBB67AE85#32 }

/-- `n` rounds. -/
def Philox.rounds : Nat → Philox → Philox
  | 0, x => x
  | n + 1, x => Philox.rounds n x.round

/-- The final counter of R40 for a seed, index, step and purpose. -/
def philox (seed index step purpose : Nat) : Philox :=
  Philox.rounds 10
    { c0 := BitVec.ofNat 32 index
      c1 := BitVec.ofNat 32 (index / 2 ^ 32)
      c2 := BitVec.ofNat 32 step
      c3 := BitVec.ofNat 32 (purpose % 2 ^ 16 * 2 ^ 16 + bitsOf step 32 16)
      k0 := BitVec.ofNat 32 seed
      k1 := BitVec.ofNat 32 (seed / 2 ^ 32) }

/-- The random word r of R40. -/
def randomWord (seed index step purpose : Nat) : U32 := (philox seed index step purpose).c0

/-- A term of a fingerprint (R361). -/
def fingerprintTerm (index : Nat) (w : U32) : U64 :=
  let c := philox (0x4B564650 * 2 ^ 32 + w.toNat) index 0 0x0020
  BitVec.ofNat 64 (c.c1.toNat * 2 ^ 32 + c.c0.toNat)

/-- Little-endian 32-bit words of a byte image, a short last word padded with zero bytes (R361). -/
def wordsOf : Bytes → List U32
  | [] => []
  | [a] => [BitVec.ofNat 32 (leNat [a])]
  | [a, b] => [BitVec.ofNat 32 (leNat [a, b])]
  | [a, b, c] => [BitVec.ofNat 32 (leNat [a, b, c])]
  | a :: b :: c :: d :: rest => BitVec.ofNat 32 (leNat [a, b, c, d]) :: wordsOf rest

/-- The fingerprint of words that carry consecutive indices from `i` (R361). -/
def fingerprintFrom : Nat → List U32 → U64
  | _, [] => 0
  | i, w :: ws => fingerprintTerm i w + fingerprintFrom (i + 1) ws

/-- The fingerprint of a byte image (R361). -/
def fingerprintBytes (b : Bytes) : U64 := fingerprintFrom 0 (wordsOf b)

/-- Whether a tile is selected for recomputation at sampling interval 2^log2S (R77). -/
def tileSelected (seed key step log2S : Nat) : Bool :=
  log2S != 0 && (randomWord seed key step 0x0010).toNat % 2 ^ log2S == 0

/-! ## SHA3-384 (the published Keccak sponge; PRESUMED from FIPS 202, log entry 9) -/

/-- Round constants of Keccak-f[1600]. -/
def keccakRc : List U64 :=
  [0x0000000000000001, 0x0000000000008082, 0x800000000000808A, 0x8000000080008000, 0x000000000000808B,
   0x0000000080000001, 0x8000000080008081, 0x8000000000008009, 0x000000000000008A, 0x0000000000000088,
   0x0000000080008009, 0x000000008000000A, 0x000000008000808B, 0x800000000000008B, 0x8000000000008089,
   0x8000000000008003, 0x8000000000008002, 0x8000000000000080, 0x000000000000800A, 0x800000008000000A,
   0x8000000080008081, 0x8000000000008080, 0x0000000080000001, 0x8000000080008008]

/-- Rotation offsets of lane x + 5y. -/
def keccakRot : List Nat :=
  [0, 1, 62, 28, 27, 36, 44, 6, 55, 20, 3, 10, 43, 25, 39, 41, 45, 15, 21, 8, 18, 2, 61, 56, 14]

/-- Lane `i` of a state of 25 lanes. -/
def lane (a : List U64) (i : Nat) : U64 := a.getD i 0

/-- One round of Keccak-f[1600]. -/
def keccakRound (a : List U64) (rc : U64) : List U64 :=
  let c := (List.range 5).map fun x => lane a x ^^^ lane a (x + 5) ^^^ lane a (x + 10) ^^^ lane a (x + 15) ^^^ lane a (x + 20)
  let d := (List.range 5).map fun x => lane c ((x + 4) % 5) ^^^ (lane c ((x + 1) % 5)).rotateLeft 1
  let a1 := (List.range 25).map fun i => lane a i ^^^ lane d (i % 5)
  -- rho and pi: lane (x, y) of the result is lane (x', y') with x' = (x + 3y) mod 5, y' = x, rotated
  let b := (List.range 25).map fun i =>
    let x := i % 5
    let y := i / 5
    let j := (x + 3 * y) % 5 + 5 * x
    (lane a1 j).rotateLeft (keccakRot.getD j 0)
  (List.range 25).map fun i =>
    let x := i % 5
    let y := i / 5
    let v := lane b i ^^^ (~~~ (lane b ((x + 1) % 5 + 5 * y)) &&& lane b ((x + 2) % 5 + 5 * y))
    if i = 0 then v ^^^ rc else v

/-- Keccak-f[1600]. -/
def keccakF (a : List U64) : List U64 := keccakRc.foldl keccakRound a

/-- The lanes of a block of bytes. -/
def lanesOf (b : Bytes) : List U64 := (List.range 25).map fun i => BitVec.ofNat 64 (fieldN b (8 * i) 8)

/-- Absorbs `n` blocks of 104 bytes. -/
def keccakAbsorb : Nat → Bytes → List U64 → List U64
  | 0, _, a => a
  | n + 1, b, a =>
    let blk := lanesOf (b.take 104)
    keccakAbsorb n (b.drop 104) (keccakF ((List.range 25).map fun i => lane a i ^^^ lane blk i))

/-- SHA3-384 of a byte string. -/
def sha3 (b : Bytes) : Bytes :=
  let padLen := 104 - b.length % 104
  let pad : Bytes := if padLen = 1 then [0x86] else 0x06 :: (List.replicate (padLen - 2) 0 ++ [0x80])
  let m := b ++ pad
  let a := keccakAbsorb (m.length / 104) m (List.replicate 25 0)
  ((a.take 6).map fun l => toLe 8 l.toNat).flatten

end Sys2Proof.Machine
end

