-- ==== Sys2Proof/Machine/Num.lean ====
section
/-! DEFINITION. The number formats and their rounding (R12 to R18, R31 to R33, R41): exact values, decoding, the one
rounding of R31, stochastic rounding, exact sums, products, quotients and square roots. -/

namespace Sys2Proof.Machine

/-- The sixteen codes of R12. -/
inductive Fmt where
  | raw | fp64 | fp32 | fp16 | bf16 | e4m3 | e5m2
  | int32 | int16 | int8 | uint8 | int4 | uint4 | t4 | m8s | m8u
  deriving DecidableEq, Repr

/-- The format that a code names; none for a reserved code (R12). -/
def Fmt.ofCode (c : Nat) : Option Fmt :=
  match c with
  | 0x00 => some .raw | 0x01 => some .fp64 | 0x02 => some .fp32 | 0x03 => some .fp16
  | 0x04 => some .bf16 | 0x05 => some .e4m3 | 0x06 => some .e5m2 | 0x08 => some .int32
  | 0x09 => some .int16 | 0x0A => some .int8 | 0x0B => some .uint8 | 0x0C => some .int4
  | 0x0D => some .uint4 | 0x0E => some .t4 | 0x10 => some .m8s | 0x11 => some .m8u
  | _ => none

/-- Width of one element in bits (R12); 8 for RAW, whose elements are bytes (R90). -/
def Fmt.width : Fmt → Nat
  | .fp64 => 64 | .fp32 | .int32 => 32 | .fp16 | .bf16 | .int16 => 16
  | .raw | .e4m3 | .e5m2 | .int8 | .uint8 | .m8s | .m8u => 8
  | .int4 | .uint4 | .t4 => 4

/-- Fraction bits of a floating-point format (R13). -/
def Fmt.frac : Fmt → Nat
  | .fp64 => 52 | .fp32 => 23 | .fp16 => 10 | .bf16 => 7 | .e5m2 => 2 | .e4m3 => 3 | _ => 0

/-- Exponent bias of a floating-point format (R13). -/
def Fmt.bias : Fmt → Nat
  | .fp64 => 1023 | .fp32 | .bf16 => 127 | .fp16 | .e5m2 => 15 | .e4m3 => 7 | _ => 0

/-- Exponent bits of a floating-point format (R13). -/
def Fmt.expBits (f : Fmt) : Nat := f.width - 1 - f.frac

/-- The six floating-point formats (R13). -/
def Fmt.isFloat : Fmt → Bool
  | .fp64 | .fp32 | .fp16 | .bf16 | .e5m2 | .e4m3 => true
  | _ => false

/-- The six integer formats (R18). -/
def Fmt.isInt : Fmt → Bool
  | .int32 | .int16 | .int8 | .uint8 | .int4 | .uint4 => true
  | _ => false

/-- M8S and M8U. -/
def Fmt.isM8 : Fmt → Bool
  | .m8s | .m8u => true
  | _ => false

/-- Signed integer formats. -/
def Fmt.isSigned : Fmt → Bool
  | .int32 | .int16 | .int8 | .int4 => true
  | _ => false

/-- Smallest and largest value of an integer format (R18). -/
def Fmt.range (f : Fmt) : Int × Int :=
  if f.isSigned then (-(2 ^ (f.width - 1) : Nat), (2 ^ (f.width - 1) : Nat) - 1) else (0, (2 ^ f.width : Nat) - 1)

/-- An exact number: NaN, an infinity, or (−1)^neg × m × 2^e. -/
inductive Num where
  | nan
  | inf (neg : Bool)
  | fin (neg : Bool) (m : Nat) (e : Int)
  deriving DecidableEq, Repr

/-- Finite. -/
def Num.isFinite : Num → Bool
  | .fin .. => true
  | _ => false

/-- Sign with NaN taken as positive. -/
def Num.neg : Num → Bool
  | .nan => false
  | .inf n => n
  | .fin n _ _ => n

/-- The sign bit put above an exponent field and a fraction field. -/
def packFloat (f : Fmt) (neg : Bool) (expField frac : Nat) : Nat :=
  (if neg then 2 ^ (f.width - 1) else 0) + expField * 2 ^ f.frac + frac

/-- Canonical NaN of a format, sign 0 (R14, R15). -/
def Fmt.nanBits : Fmt → Nat
  | .e4m3 => 0x7F
  | f => packFloat f false (2 ^ f.expBits - 1) (2 ^ (f.frac - 1))

/-- Infinity of a sign; in FP8-E4M3, which has none, the canonical NaN (R14, R33). -/
def Fmt.infBits (f : Fmt) (neg : Bool) : Nat :=
  if f = .e4m3 then f.nanBits else packFloat f neg (2 ^ f.expBits - 1) 0

/-- Largest finite code of a sign (R14). -/
def Fmt.maxBits (f : Fmt) (neg : Bool) : Nat :=
  if f = .e4m3 then packFloat f neg 15 6 else packFloat f neg (2 ^ f.expBits - 2) (2 ^ f.frac - 1)

/-- Exponent of the smallest normal. -/
def Fmt.emin (f : Fmt) : Int := 1 - (f.bias : Int)

/-- Integer significand and exponent of the largest finite value. -/
def Fmt.maxFin (f : Fmt) : Nat × Int :=
  if f = .e4m3 then (14, 5) else (2 ^ (f.frac + 1) - 1, (f.bias : Int) - f.frac)

/-- The value of a floating-point code (R13, R14). -/
def decodeFloat (f : Fmt) (bits : Nat) : Num :=
  let neg := bitOf bits (f.width - 1)
  let ex := bitsOf bits f.frac f.expBits
  let fr := bitsOf bits 0 f.frac
  if f = .e4m3 ∧ ex = 15 ∧ fr = 7 then .nan
  else if f ≠ .e4m3 ∧ ex = 2 ^ f.expBits - 1 then (if fr = 0 then .inf neg else .nan)
  else if ex = 0 then .fin neg fr (f.emin - f.frac)
  else .fin neg (2 ^ f.frac + fr) ((ex : Int) - f.bias - f.frac)

/-- A non-zero r × 2^q with r at most 2^(p+1), r below 2^p only at the subnormal weight (`encode` of R31). -/
def encodeFinite (f : Fmt) (neg : Bool) (r : Nat) (q : Int) : Nat :=
  let (r, q) := if r = 2 ^ (f.frac + 1) then (r / 2, q + 1) else (r, q)
  if r < 2 ^ f.frac then packFloat f neg 0 r
  else packFloat f neg (q + f.frac + f.bias).toNat (r - 2 ^ f.frac)

/-- The overflow table of R32. -/
def overflowBits (f : Fmt) (sat neg : Bool) : Nat := if sat then f.maxBits neg else f.infBits neg

/-- m × 2^a exceeds n × 2^b, compared exactly. -/
def scaledGt (m : Nat) (a : Int) (n : Nat) (b : Int) : Bool :=
  if a ≥ b then m * 2 ^ (a - b).toNat > n else m > n * 2 ^ (b - a).toNat

/-- m × 2^e at weight 2^q, rounded to nearest, ties to even (R31). -/
def roundAt (m : Nat) (e q : Int) : Nat :=
  if q ≤ e then m * 2 ^ (e - q).toNat
  else
    let sh := (q - e).toNat
    let r := m / 2 ^ sh
    let rem := m - r * 2 ^ sh
    let half := 2 ^ (sh - 1)
    if rem > half ∨ (rem = half ∧ r % 2 = 1) then r + 1 else r

/-- The rounding of R31 for a non-zero m × 2^e, with the overflow rule of R32. -/
def roundR31 (f : Fmt) (sat neg : Bool) (m : Nat) (e : Int) : Nat :=
  let x : Int := (bitLen m : Int) - 1 + e
  let q : Int := max x f.emin - f.frac
  let r := roundAt m e q
  if scaledGt r q f.maxFin.1 f.maxFin.2 then overflowBits f sat neg
  else encodeFinite f neg r q

/-- A number rounded once to a floating-point format (R15, R16, R31 to R33). -/
def encodeNum (f : Fmt) (sat : Bool) : Num → Nat
  | .nan => f.nanBits
  | .inf n => f.infBits n
  | .fin n 0 _ => packFloat f n 0 0
  | .fin n m e => roundR31 f sat n m e

/-! ## Exact arithmetic (R43, R49, R63) -/

/-- Signed integer significand at exponent `e0`, which must not exceed the number's own. -/
def signedAt (neg : Bool) (m : Nat) (e e0 : Int) : Int :=
  let v : Int := (m * 2 ^ (e - e0).toNat : Nat)
  if neg then -v else v

/-- Exact sum with the zero rules of R49 and R63: −0 only from two −0. -/
def Num.add : Num → Num → Num
  | .nan, _ => .nan
  | _, .nan => .nan
  | .inf a, .inf b => if a = b then .inf a else .nan
  | .inf a, .fin .. => .inf a
  | .fin .., .inf b => .inf b
  | .fin na ma ea, .fin nb mb eb =>
    if ma = 0 ∧ mb = 0 then .fin (na && nb) 0 0
    else if ma = 0 then .fin nb mb eb
    else if mb = 0 then .fin na ma ea
    else
      let e0 := min ea eb
      let v := signedAt na ma ea e0 + signedAt nb mb eb e0
      .fin (decide (v < 0)) v.natAbs e0

/-- Negation. -/
def Num.negate : Num → Num
  | .nan => .nan
  | .inf n => .inf !n
  | .fin n m e => .fin (!n) m e

/-- Exact difference. -/
def Num.sub (a b : Num) : Num := a.add b.negate

/-- Exact product (R43). -/
def Num.mul : Num → Num → Num
  | .nan, _ => .nan
  | _, .nan => .nan
  | .inf a, .inf b => .inf (a != b)
  | .inf a, .fin nb mb _ => if mb = 0 then .nan else .inf (a != nb)
  | .fin na ma _, .inf b => if ma = 0 then .nan else .inf (na != b)
  | .fin na ma ea, .fin nb mb eb => .fin (na != nb) (ma * mb) (ea + eb)

/-- Quotient to `bits` significant bits and a sticky bit, enough for one rounding by R31. -/
def Num.div (bits : Nat) : Num → Num → Num
  | .nan, _ => .nan
  | _, .nan => .nan
  | .inf _, .inf _ => .nan
  | .inf a, .fin nb _ _ => .inf (a != nb)
  | .fin na _ _, .inf b => .fin (na != b) 0 0
  | .fin na ma ea, .fin nb mb eb =>
    if mb = 0 then (if ma = 0 then .nan else .inf (na != nb))
    else if ma = 0 then .fin (na != nb) 0 0
    else
      let k := bitLen mb + bits
      let n := ma * 2 ^ k
      let sticky := if n % mb = 0 then 0 else 1
      .fin (na != nb) (2 * (n / mb) + sticky) (ea - eb - k - 1)

/-- Integer square root, one bit of the root at a time from bit `b` downwards. -/
def isqrtFrom : Nat → Nat → Nat → Nat
  | 0, _, r => r
  | b + 1, n, r => if (r + 2 ^ b) * (r + 2 ^ b) ≤ n then isqrtFrom b n (r + 2 ^ b) else isqrtFrom b n r

/-- Integer square root. -/
def isqrt (n : Nat) : Nat := isqrtFrom (bitLen n / 2 + 1) n 0

/-- Square root to `bits` bits and a sticky bit; a negative number gives NaN and −0 stays −0. -/
def Num.sqrt (bits : Nat) : Num → Num
  | .nan => .nan
  | .inf n => if n then .nan else .inf false
  | .fin n m e =>
    if m = 0 then .fin n 0 0
    else if n then .nan
    else
      let (m, e) := if e % 2 = 0 then (m, e) else (2 * m, e - 1)
      let v := m * 2 ^ (2 * bits)
      let r := isqrt v
      let sticky := if r * r = v then 0 else 1
      .fin false (2 * r + sticky) (e / 2 - bits - 1)

/-- Exact multiplication by a power of two. -/
def Num.scale (k : Int) : Num → Num
  | .fin n m e => .fin n m (e + k)
  | x => x

/-- Strict order of two numbers that are no NaN, −0 below +0 when `zeros` is set (R68). -/
def Num.lt (zeros : Bool) : Num → Num → Bool
  | .nan, _ => false
  | _, .nan => false
  | .inf a, .inf b => a && !b
  | .inf a, .fin .. => a
  | .fin .., .inf b => !b
  | .fin na ma ea, .fin nb mb eb =>
    if ma = 0 ∧ mb = 0 then zeros && na && !nb
    else
      let e0 := min ea eb
      decide (signedAt na ma ea e0 < signedAt nb mb eb e0)

/-- The bits of precision that `div` and `sqrt` keep: more than any format needs. -/
def workBits : Nat := 80

/-- Addition in a format, rounded once (R63). -/
def fAdd (f : Fmt) (a b : Nat) : Nat := encodeNum f false ((decodeFloat f a).add (decodeFloat f b))

/-- Subtraction in a format, rounded once (R63). -/
def fSub (f : Fmt) (a b : Nat) : Nat := encodeNum f false ((decodeFloat f a).sub (decodeFloat f b))

/-- Multiplication in a format, rounded once (R63). -/
def fMul (f : Fmt) (a b : Nat) : Nat := encodeNum f false ((decodeFloat f a).mul (decodeFloat f b))

/-- Fused multiply-add a × b + c, rounded once after the addition (R63). -/
def fFma (f : Fmt) (a b c : Nat) : Nat :=
  encodeNum f false (((decodeFloat f a).mul (decodeFloat f b)).add (decodeFloat f c))

/-- Division, rounded once (R63). -/
def fDiv (f : Fmt) (a b : Nat) : Nat := encodeNum f false ((decodeFloat f a).div workBits (decodeFloat f b))

/-- Square root, rounded once (R63). -/
def fSqrt (f : Fmt) (a : Nat) : Nat := encodeNum f false ((decodeFloat f a).sqrt workBits)

/-- Maximum: NaN if either is one, +0 above −0 (R68). -/
def fMax (f : Fmt) (a b : Nat) : Nat :=
  let x := decodeFloat f a
  let y := decodeFloat f b
  if x = .nan ∨ y = .nan then f.nanBits else if x.lt true y then encodeNum f false y else encodeNum f false x

/-- Minimum: NaN if either is one, −0 below +0 (R68). -/
def fMin (f : Fmt) (a b : Nat) : Nat :=
  let x := decodeFloat f a
  let y := decodeFloat f b
  if x = .nan ∨ y = .nan then f.nanBits else if y.lt true x then encodeNum f false y else encodeNum f false x

/-- A number of one format rounded to another, SAT clear. -/
def fCast (src dst : Fmt) (a : Nat) : Nat := encodeNum dst false (decodeFloat src a)

/-! ## Stochastic rounding of the master add (R41) -/

/-- The rounding of R41 of an exact sum with the random word r, to FP32. -/
def roundStochastic (y : Num) (r : U32) : U32 :=
  match y with
  | .nan => BitVec.ofNat 32 Fmt.fp32.nanBits
  | .inf n => BitVec.ofNat 32 (Fmt.fp32.infBits n)
  | .fin _ 0 _ => 0
  | .fin n m e =>
    if scaledGt 1 128 m e = false then BitVec.ofNat 32 (Fmt.fp32.infBits n)
    else
      let x : Int := (bitLen m : Int) - 1 + e
      let q : Int := max x Fmt.fp32.emin - 23
      -- t at weight 2^q, f the first 32 bits below it
      let t := if q ≤ e then m * 2 ^ (e - q).toNat else m / 2 ^ (q - e).toNat
      let fpart := if q ≤ e then 0
        else (m - t * 2 ^ (q - e).toNat) * 2 ^ 32 / 2 ^ (q - e).toNat
      let t' := if fpart + r.toNat ≥ 2 ^ 32 then t + 1 else t
      if t' = 0 then BitVec.ofNat 32 (packFloat .fp32 n 0 0)
      else if scaledGt t' q Fmt.fp32.maxFin.1 Fmt.fp32.maxFin.2 then BitVec.ofNat 32 (Fmt.fp32.infBits n)
      else BitVec.ofNat 32 (encodeFinite .fp32 n t' q)

/-! ## Chunk sums (R43, R45) and promotion (R49) -/

/-- The aligned-window sum of one chunk of products, rounded once to FP32 (R45). -/
def chunkSum (ps : List Num) : Nat :=
  let nan := ps.any fun p => p = .nan
  let pinf := ps.any fun p => p = .inf false
  let ninf := ps.any fun p => p = .inf true
  if nan || (pinf && ninf) then Fmt.fp32.nanBits
  else if pinf then Fmt.fp32.infBits false
  else if ninf then Fmt.fp32.infBits true
  else
    let fins := ps.filterMap fun p => match p with
      | .fin n (m + 1) e => some (n, m + 1, e)
      | _ => none
    match fins with
    | [] => 0
    | (_, m0, e0) :: rest =>
      let top := rest.foldl (fun t x => max t ((bitLen x.2.1 : Int) - 1 + x.2.2)) ((bitLen m0 : Int) - 1 + e0)
      let acc : Int := fins.foldl (fun a x =>
        let sh : Int := x.2.2 - (top - 52)
        let t : Nat := if sh ≥ 0 then x.2.1 * 2 ^ sh.toNat else if sh > -64 then x.2.1 / 2 ^ (-sh).toNat else 0
        if x.1 then a - t else a + t) 0
      if acc = 0 then 0 else roundR31 .fp32 false (decide (acc < 0)) acc.natAbs (top - 52)

/-- The total after a chunk: the first chunk by exact conversion, a later one by IEEE addition (R49). -/
def promote (total : Fmt) (first : Bool) (t chunk : Nat) : Nat :=
  if first then fCast .fp32 total chunk
  else encodeNum total false ((decodeFloat total t).add (decodeFloat .fp32 chunk))

/-! ## The canonical pairing tree (R71, R220) -/

/-- tree over a list of present or absent leaves, with fuel at least its length: the left half takes the odd one; an
absent child gives the other child's value, two absent children an absent node (R220). -/
def pairTree (add : Nat → Nat → Nat) : Nat → List (Option Nat) → Option Nat
  | _, [] => none
  | _, [x] => x
  | 0, _ => none
  | fuel + 1, xs =>
    let mid := (xs.length + 1) / 2
    match pairTree add fuel (xs.take mid), pairTree add fuel (xs.drop mid) with
    | some a, some b => some (add a b)
    | some a, none => some a
    | none, some b => some b
    | none, none => none

/-- The root of the tree over present leaves. -/
def treeOf (add : Nat → Nat → Nat) (xs : List Nat) : Option Nat := pairTree add xs.length (xs.map some)

end Sys2Proof.Machine
end

