-- ==== Sys2Proof/Machine/Convert.lean ====
section
/-! DEFINITION. Conversion between formats: the matrix of R29, the element conversions of R31 to R38, packing of
elements (R18, R429), the conversion descriptor (R26, R27) and the moment formats M8S and M8U (R20 to R22). -/

namespace Sys2Proof.Machine

/-- The codes of the conversion matrix (R29). -/
inductive ConvKind where
  | identity | widen | narrow | quantise | expand | integer | table
  deriving DecidableEq, Repr

/-- The paths of R24. -/
inductive ConvPath where
  | load | store | fabric
  deriving DecidableEq, Repr

/-- Whether every value of one floating-point format is a value of the other (the W entries of R29). -/
def widens : Fmt → Fmt → Bool
  | .fp32, .fp64 => true
  | .fp16, .fp64 | .fp16, .fp32 => true
  | .bf16, .fp64 | .bf16, .fp32 => true
  | .e4m3, .fp64 | .e4m3, .fp32 | .e4m3, .fp16 | .e4m3, .bf16 => true
  | .e5m2, .fp64 | .e5m2, .fp32 | .e5m2, .fp16 | .e5m2, .bf16 => true
  | _, _ => false

/-- The conversion matrix of R29; none is its dash. -/
def convKind (src dst : Fmt) : Option ConvKind :=
  if src.isM8 || dst.isM8 then none
  else if src = dst then some .identity
  else if src = .raw || dst = .raw then none
  else if src = .t4 then (if dst.isFloat then some .table else none)
  else if dst = .t4 then none
  else if src.isFloat && dst.isFloat then some (if widens src dst then .widen else .narrow)
  else if src.isFloat then some .quantise
  else if dst.isFloat then some .expand
  else some .integer

/-- Whether the matrix marks the pair for a path (R29). -/
def convMarked (p : ConvPath) (src dst : Fmt) : Bool :=
  match convKind src dst with
  | none => false
  | some .identity => if src = .t4 then p != .fabric else true
  | some .widen => true
  | some .table => p == .load
  | some _ => p != .fabric

/-- What a conversion takes beside the element's bits: SAT, the element's scale and zero point, the T4 table. -/
structure ConvParams where
  sat : Bool
  /-- FP32 bits of the scale -/
  scale : Nat
  zero : Int
  table : List Nat
  deriving DecidableEq, Repr

/-- Scale 1.0, zero point 0, SAT clear (R429, R30). -/
def ConvParams.plain : ConvParams := { sat := false, scale := 0, zero := 0, table := [] }

/-- The scale's value; a zero of either sign means 1.0 (R34). -/
def scaleNum (bits : Nat) : Num :=
  match decodeFloat .fp32 bits with
  | .fin _ 0 _ => .fin false 1 0
  | x => x

/-- The code of an integer in an integer format, saturated to its range (R37, R38). -/
def clampInt (f : Fmt) (i : Int) : Nat := wrapInt (max f.range.1 (min f.range.2 i)) f.width

/-- The integer that a code of an integer format stands for. -/
def intOf (f : Fmt) (bits : Nat) : Int :=
  if f.isSigned then signedOf bits f.width else ((bits % 2 ^ f.width : Nat) : Int)

/-- A fraction n / d rounded to the nearest integer, ties to even. -/
def roundFrac (n d : Nat) : Nat :=
  let q := n / d
  let r := n % d
  if 2 * r > d ∨ (2 * r = d ∧ q % 2 = 1) then q + 1 else q

/-- x ÷ s to the nearest integer, ties to even, for finite x and finite non-zero s (R37). -/
def quotientInt (nx : Bool) (mx : Nat) (ex : Int) (ns : Bool) (ms : Nat) (es : Int) : Int :=
  let e := ex - es
  let v : Int := (roundFrac (mx * 2 ^ e.toNat) (ms * 2 ^ (-e).toNat) : Nat)
  if nx != ns then -v else v

/-- Floating point to integer (R37). -/
def quantise (src dst : Fmt) (p : ConvParams) (bits : Nat) : Nat :=
  match decodeFloat src bits, scaleNum p.scale with
  | .nan, _ => 0
  | .inf neg, _ => wrapInt (if neg then dst.range.1 else dst.range.2) dst.width
  | .fin n m e, .fin ns ms es => clampInt dst (quotientInt n m e ns ms es + p.zero)
  | .fin .., _ => 0

/-- Integer to floating point (R34). -/
def expandInt (src dst : Fmt) (p : ConvParams) (bits : Nat) : Nat :=
  let d := intOf src bits - p.zero
  if d = 0 then 0
  else encodeNum dst p.sat ((Num.fin (decide (d < 0)) d.natAbs 0).mul (scaleNum p.scale))

/-- One element converted from one format to another; for a pair the matrix does not give, the bits unchanged. -/
def convElem (src dst : Fmt) (p : ConvParams) (bits : Nat) : Nat :=
  match convKind src dst with
  | none | some .identity => bits
  | some .widen | some .narrow => encodeNum dst p.sat (decodeFloat src bits)
  | some .quantise => quantise src dst p bits
  | some .expand => expandInt src dst p bits
  | some .integer => clampInt dst (intOf src bits)
  | some .table => encodeNum dst p.sat (decodeFloat .bf16 (p.table.getD bits 0))

/-! ## Packed elements (R18, R90, R429) -/

/-- Bytes that `n` elements of a format occupy (R90); an M8 element count fills blocks of 68 bytes (R22). -/
def Fmt.bytesOf (f : Fmt) (n : Nat) : Nat :=
  if f.isM8 then 68 * ceilDiv n 64 else if f.width = 4 then ceilDiv n 2 else n * (f.width / 8)

/-- Element `i` of packed bytes. -/
def elemAt (f : Fmt) (b : Bytes) (i : Nat) : Nat :=
  if f.width = 4 then
    let v := (b.getD (i / 2) 0).toNat
    if i % 2 = 0 then v % 16 else v / 16
  else leNat (sliceZ b (i * (f.width / 8)) (f.width / 8))

/-- The first `n` elements of packed bytes. -/
def elemsOf (f : Fmt) (b : Bytes) (n : Nat) : List Nat := (List.range n).map (elemAt f b)

/-- Nibbles packed two to a byte, the earlier in bits [3:0]; an odd last one leaves zero above it. -/
def packNibbles : List Nat → Bytes
  | [] => []
  | [a] => [BitVec.ofNat 8 (a % 16)]
  | a :: b :: rest => BitVec.ofNat 8 (a % 16 + 16 * (b % 16)) :: packNibbles rest

/-- Elements packed at the format's width. -/
def packElems (f : Fmt) (xs : List Nat) : Bytes :=
  if f.width = 4 then packNibbles xs else (xs.map (toLe (f.width / 8))).flatten

/-! ## The conversion descriptor (R26, R27) -/

/-- A conversion descriptor (R26). -/
structure ConvDesc where
  src : Nat
  dst : Nat
  flags : Nat
  reserved : Bool
  scale : Nat
  zero : Int
  channelTable : Nat
  channelRun : Nat
  channelCount : Nat
  table : List Nat
  deriving DecidableEq, Repr

/-- The 64 bytes of a descriptor read as R26 lays them out. -/
def ConvDesc.ofBytes (b : Bytes) : ConvDesc :=
  { src := fieldN b 0 1
    dst := fieldN b 1 1
    flags := fieldN b 2 1
    reserved := fieldN b 3 1 != 0 || fieldN b 4 4 != 0
    scale := fieldN b 8 4
    zero := signedOf (fieldN b 0xC 4) 32
    channelTable := fieldN b 0x10 8
    channelRun := fieldN b 0x18 4
    channelCount := fieldN b 0x1C 4
    table := (List.range 16).map fun i => fieldN b (0x20 + 2 * i) 2 }

/-- Bit 0 of flags. -/
def ConvDesc.sat (d : ConvDesc) : Bool := bitOf d.flags 0

/-- Bit 1 of flags. -/
def ConvDesc.perChannel (d : ConvDesc) : Bool := bitOf d.flags 1

/-- An FP32 scale that is an infinity or a NaN (R27). -/
def scaleBad (bits : Nat) : Bool := !(decodeFloat .fp32 bits).isFinite

/-- The format pair of a descriptor that the matrix marks for the path, with no error of R27 in its own fields; none is a
descriptor error. -/
def ConvDesc.pair (path : List ConvPath) (d : ConvDesc) : Option (Fmt × Fmt) :=
  if d.reserved || decide (d.flags ≥ 4) || scaleBad d.scale then none
  else if d.perChannel && (d.channelTable == 0 || d.channelRun == 0 || d.channelCount == 0) then none
  else match Fmt.ofCode d.src, Fmt.ofCode d.dst with
    | some s, some t => if path.any fun p => convMarked p s t then some (s, t) else none
    | _, _ => none

/-- The parameters of an element: the per-tensor fields, or its channel record (R34, R35). -/
def ConvDesc.params (d : ConvDesc) (record : Option Bytes) : ConvParams :=
  match record with
  | none => { sat := d.sat, scale := d.scale, zero := d.zero, table := d.table }
  | some r => { sat := d.sat, scale := fieldN r 0 4, zero := signedOf (fieldN r 4 4) 32, table := d.table }

/-- Device address of the channel record of element `n` (R35). -/
def ConvDesc.recordAddr (d : ConvDesc) (n : Nat) : Nat :=
  d.channelTable + 8 * ((n / d.channelRun) % d.channelCount)

/-! ## Moment blocks (R20 to R22) -/

/-- A moment code's value: s × c ÷ 127 for M8S (R20), s × c² ÷ 65,025 for M8U (R21), rounded once to FP32. A zero value is +0
(log entry 10). -/
def m8Decode (f : Fmt) (scale code : Nat) : Nat :=
  match decodeFloat .fp32 scale with
  | .fin n m e =>
    let c : Int := if f = .m8s then max (-127) (signedOf code 8) else ((code % 256) * (code % 256) : Nat)
    let d : Nat := if f = .m8s then 127 else 65025
    if c = 0 ∨ m = 0 then 0
    else encodeNum .fp32 false (((Num.fin n m e).mul (.fin (decide (c < 0)) c.natAbs 0)).div workBits (.fin false d 0))
  | _ => Fmt.fp32.nanBits

/-- The 64 elements of a moment block as FP32 bits. -/
def m8Block (f : Fmt) (b : Bytes) : List Nat :=
  (List.range 64).map fun j => m8Decode f (fieldN b 0 4) (fieldN b (4 + j) 1)

/-- The integer nearest to 127 × v ÷ s, ties to even, as an INT8 code (R22). -/
def m8sCode (s v : Num) : Nat :=
  match s, v with
  | .fin ns ms es, .fin nv mv ev => wrapInt (quotientInt nv (127 * mv) ev ns ms es) 8
  | _, _ => 0

/-- The integer nearest to 255 × √(v ÷ s), ties to even, found by comparing squares (R22): c is right when
(2c − 1)² × s ≤ 4 × 255² × v ≤ (2c + 1)² × s, the even one at a tie. -/
def m8uSearch (num den : Nat) : Nat → Nat
  | 0 => 0
  | c + 1 =>
    -- the larger of two candidates wins when 4 × 65025 × v exceeds (2c + 1)² × s, or at a tie when it is even
    let lhs := 4 * 65025 * num
    let rhs := (2 * c + 1) * (2 * c + 1) * den
    if lhs > rhs ∨ (lhs = rhs ∧ (c + 1) % 2 = 0) then c + 1 else m8uSearch num den c

/-- The M8U code of a value under a positive scale; a negative value encodes as 0 (R22). -/
def m8uCode (s v : Num) : Nat :=
  match s, v with
  | .fin _ ms es, .fin nv mv ev =>
    if nv then 0
    else
      let e := ev - es
      m8uSearch (mv * 2 ^ e.toNat) (ms * 2 ^ (-e).toNat) 255
  | _, _ => 0

/-- A block of up to 64 FP32 values encoded into 68 bytes (R22). -/
def m8Encode (f : Fmt) (vs : List Nat) : Bytes :=
  let ns := vs.map (decodeFloat .fp32)
  if ns.any fun x => !x.isFinite then toLe 4 Fmt.fp32.nanBits ++ List.replicate 64 0
  else
    let s := vs.foldl (fun a v => max a (v % 2 ^ 31)) 0
    let sn := decodeFloat .fp32 s
    let codes : Bytes := if s = 0 then [] else
      ns.map fun v => BitVec.ofNat 8 (if f = .m8s then m8sCode sn v else m8uCode sn v)
    toLe 4 s ++ codes ++ List.replicate (64 - codes.length) 0

end Sys2Proof.Machine
end

