-- ==== Sys2Proof/Machine/State.lean ====
section
/-! DEFINITION. The state of the Griux as plain data, the reasons a step can stop, and the state after reset. Every
field's docstring ends with [rule; width; where its reset value comes from]: `spec` when the rules give it, `log n` for a
value that log entry n names. -/

namespace Sys2Proof.Machine

/-- One byte of memory at a key: the device address for HBM; for the workspace of a task's home core, a key of the job
(R316); plus 2^62 for the other half of an epoch page (R149). -/
abbrev Cell := Nat × Byte

/-- A sparse byte store in canonical form: keys strictly rising, no byte zero; an unlisted key reads zero (R83, R120, R420). -/
abbrev Cells := List Cell

/-! ## Identity -/

/-- What is fused or provisioned (R307, R394). -/
structure Ident where
  /-- 1 KVG8-192-L, 2 KVG8-160-L [R307; 8; log 11] -/
  grade : Nat := 1
  /-- cores disabled by grade [R2; 192; log 11] -/
  disabled : List Nat := []
  /-- stepping [R307; 8; spec] -/
  stepping : Nat := 0xB0
  /-- numerics signature [R307; 32; spec] -/
  signature : U32 := Config.signature
  /-- DEVICE_ID [R307; 32; log 11] -/
  device : U32 := 1
  /-- SERIAL [R307; 64; log 11] -/
  serial : U64 := 1
  deriving DecidableEq, Repr, Inhabited

/-! ## Memory -/

/-- Memory and the words of it that hold an uncorrectable or a correctable error (R84, R114). -/
structure Memory where
  /-- bytes of HBM and workspace [R113; 8 per byte; spec] -/
  cells : Cells := []
  /-- 8-byte words holding an error: word number and whether it is uncorrectable [R114; 80 per word; spec] -/
  ecc : List (Nat × Bool) := []
  deriving DecidableEq, Repr, Inhabited

/-! ## Tasks and channels -/

/-- A tile in progress on an array (R55, R60). -/
structure Tile where
  /-- array 0 or 1 [R57; 1; spec] -/
  array : Nat
  /-- tracking slot [R57; 5; spec] -/
  slot : Nat
  /-- shape byte [R57; 8; spec] -/
  shape : Nat
  /-- wide total [R57; 1; spec] -/
  wide : Bool
  /-- accumulator offset in 4 KiB units [R57; 7; spec] -/
  accOffset : Nat
  /-- next chunk index [R60; 32; spec] -/
  chunk : Nat
  /-- totals row by row, as bits of the total's format [R49; 32 or 64 each; spec] -/
  totals : List Nat
  /-- the tile-key register's value at its OPEN [R77; 64; spec] -/
  key : U64
  /-- selected for recomputation [R77; 1; spec] -/
  selected : Bool
  deriving DecidableEq, Repr, Inhabited

/-- Why a task is blocked (R320). -/
inductive Block where
  /-- at a wait on an event line -/
  | line (die line : Nat)
  /-- at EPOCH, for a verdict -/
  | verdict
  /-- at COLLSTART, for two earlier instances -/
  | collective
  deriving DecidableEq, Repr

/-- A task of a loaded job (R314 to R317, R74). -/
structure Task where
  /-- its part of the binary [R314; -; spec] -/
  decl : TaskDecl
  /-- home core [R315; 8; spec] -/
  home : Nat
  /-- the core it is placed on at present [R327; 8; spec] -/
  core : Nat
  /-- first block of its task slot in HBM [R317; 52; spec] -/
  slotAddr : Nat
  /-- blocks of its task slot [R317; 16; spec] -/
  slotBlocks : Nat
  /-- its state lies in its task slot [R317; 1; spec] -/
  inSlot : Bool := true
  /-- why it is blocked [R320; -; spec] -/
  block : Option Block := none
  /-- vector registers, byte by byte: key register × 2048 + byte [R74; 2048 bytes each; log 12] -/
  vregs : Cells := []
  /-- tiles in progress [R60; -; spec] -/
  tiles : List Tile := []
  /-- tile-key register [R77; 64; log 12] -/
  tileKey : U64 := 0
  /-- result of the latest scalar operation, CHSTAT or LSEXP [R64; 64; log 12] -/
  scalar : U64 := 0
  /-- second result, CH_PC, of CHSTAT [R103; 64; log 12] -/
  scalar2 : U64 := 0
  /-- open phases: number and pacing timer 1 at their opening [R76; 32; spec] -/
  phases : List (Nat × Nat) := []
  /-- pacing timer 0: line and period in ns, none when stopped [R102; 32; spec] -/
  pace : Option (Nat × Nat) := none
  /-- in provisional mode [R148; 1; spec] -/
  prov : Bool := false
  /-- has executed EPOCH for the open epoch [R146; 1; spec] -/
  atEpoch : Bool := false
  /-- skip entry recorded by its EPOCH [R146; 64; spec] -/
  skipEntry : U64 := 0
  /-- where its controller restarts, when a discard or a stop has set it [R154; 64; spec] -/
  resume : Option U64 := none
  /-- stands at a preemption point: a PPOINT or a forced point just passed [R74, R75; 1; spec] -/
  atPoint : Bool := false
  deriving DecidableEq, Repr

/-- An open LOOP of a channel (R96). -/
structure Loop where
  /-- address of the first body instruction [R96; 52; spec] -/
  start : Nat
  /-- address after the last body instruction [R96; 52; spec] -/
  stop : Nat
  /-- iteration index [R96; 32; spec] -/
  index : Nat
  /-- iterations [R96; 32; spec] -/
  count : Nat
  /-- source step [R96; 64; spec] -/
  src : Int
  /-- destination step [R96; 64; spec] -/
  dst : Int
  deriving DecidableEq, Repr, Inhabited

/-- A DMA channel assigned to a job (R86, R87, R108, R109). -/
structure Chan where
  /-- its declaration [R430; -; spec] -/
  decl : ChanDecl
  /-- owner: the task of a core channel, the die of a die channel [R430; 8; spec] -/
  owner : Nat
  /-- physical channel number [R86; 5; spec] -/
  phys : Nat
  /-- the task whose binary declares it [R430; 8; spec] -/
  task : Nat
  /-- home core of a die channel [R110; 8; spec] -/
  home : Nat
  /-- state code [R87; 3; spec] -/
  state : Nat := 0
  /-- the state a saved channel resumes in [R111; 3; spec] -/
  savedState : Nat := 0
  /-- error mode: true is SKIP [R108; 1; spec] -/
  skip : Bool := false
  /-- SKIPPED [R108; 1; spec] -/
  skipped : Bool := false
  /-- MARK_FAIL [R108; 1; spec] -/
  markFail : Bool := false
  /-- CAUSE [R108; 3; spec] -/
  cause : Nat := 0
  /-- FAIL_DIR [R108; 1; spec] -/
  failDir : Bool := false
  /-- FAIL_ADDR [R108; 52; spec] -/
  failAddr : Nat := 0
  /-- device address of the current instruction [R109; 52; spec] -/
  pc : Nat := 0
  /-- open loops, innermost first [R109; 3; spec] -/
  loops : List Loop := []
  /-- far-tier and peer writes not yet acknowledged [R101; 16; spec] -/
  writes : Nat := 0
  /-- far-tier and peer reads issued and not yet answered [R325; 16; spec] -/
  reads : Nat := 0
  /-- bytes that remote reads of the MOVE in progress have returned: source address and byte [R325; -; spec] -/
  remote : List (Nat × Byte) := []
  /-- the MOVE in progress has issued its remote reads [R325; 1; spec] -/
  issued : Bool := false
  /-- the MOVE in progress has made its writes and waits for their acknowledgement [R101; 1; spec] -/
  wrote : Bool := false
  /-- in provisional mode through its core [R148; 1; spec] -/
  prov : Bool := false
  deriving DecidableEq, Repr

/-! ## A job's memory, step and speculation -/

/-- A granted HBM region (R120); an epoch region has its second half right after the first (R149). -/
structure Grant where
  /-- its declaration [R120; -; spec] -/
  decl : RegionDecl
  /-- device address of its first block [R120; 52; spec] -/
  addr : Nat
  /-- blocks granted [R120; 16; spec] -/
  blocks : Nat
  deriving DecidableEq, Repr

/-- A binding of JOB_LOAD (R314): a peer slot or a far-tier window. -/
structure Binding where
  /-- 1 peer slot, 2 far-tier window [R314; 8; spec] -/
  kind : Nat
  /-- peer device [R314; 32; spec] -/
  device : U32
  /-- slot number or device address [R314; 64; spec] -/
  first : Nat
  /-- bytes [R314; 64; spec] -/
  size : Nat
  deriving DecidableEq, Repr, Inhabited

/-- A peer's write or read held for a verdict or a turn (R151, R152, R249): port and message. -/
abbrev HeldMsg := Nat × Msg

/-- Group sums of one epoch's updates (R175): group, U and W. -/
abbrev GroupSums := List (Nat × SquareAcc × SquareAcc)

/-- The training step of a job on this module (R146 to R180). -/
structure Training where
  /-- step register, the same on every core of the job [R146; 64; log 13] -/
  step : Nat := 0
  /-- epoch register [R146; 64; log 13] -/
  epochReg : Nat := 0
  /-- step of the open epoch [R147; 64; spec] -/
  openEpoch : Option Nat := none
  /-- the epoch resolved last and whether by COMMIT [R152; 65; spec] -/
  resolved : Option (Nat × Bool) := none
  /-- update count t [R157; 64; log 13] -/
  updates : Nat := 0
  /-- step that the next verdict judges [R162; 64; log 13] -/
  judged : Nat := 0
  /-- L of the step before the judged one [R163; 8; log 13] -/
  lossPrev : Int := 0
  /-- L of the judged step [R162; 8; spec] -/
  loss : Int := 0
  /-- L of the step after it [R162; 8; spec] -/
  lossNext : Int := 0
  /-- clean count [R162; 32; log 13] -/
  clean : Nat := 0
  /-- a raise is pending [R162; 1; spec] -/
  raise : Bool := false
  /-- last committed step [R157; 64; spec] -/
  committed : Option Nat := none
  /-- epoch pages whose OWNER names the second half: page number key ÷ 4096 [R149; 1 per page; spec] -/
  owner : List Nat := []
  /-- epoch pages whose DIRTY is set [R149; 1 per page; spec] -/
  dirty : List Nat := []
  /-- workspace lines whose tag P is set: key ÷ 64 [R151; 1 per line; spec] -/
  tagged : List Nat := []
  /-- peer messages held for the verdict [R151; -; spec] -/
  heldMsgs : List HeldMsg := []
  /-- pending GROUP_SET entries: step (none is the next opening), first group, entries [R172; -; spec] -/
  groupSets : List (Option Nat × Nat × Bytes) := []
  /-- groups whose ratio of the last record exceeded their limit [R169; 4096; spec] -/
  ratioHigh : List Nat := []
  /-- a loan of vector engines waits for the next opening [R169; 1; spec] -/
  lendDue : Bool := false
  /-- a return of vector engines waits for the next opening [R169; 1; spec] -/
  reclaimDue : Bool := false
  /-- sums of this epoch's updates here [R175; 641 each; spec] -/
  sums : GroupSums := []
  /-- path of each group in this epoch [R169, R179; 8 each; spec] -/
  paths : List (Nat × Nat) := []
  /-- fingerprint slots of this epoch's updates here [R362; 64 each; spec] -/
  fingerprints : List (Nat × U64) := []
  /-- sums of the last committed update here, for the next verdict [R175; 641 each; spec] -/
  sumsDone : GroupSums := []
  /-- paths of the groups in the last committed update [R179; 8 each; spec] -/
  pathsDone : List (Nat × Nat) := []
  /-- fingerprint slots of the last committed update here [R363; 64 each; spec] -/
  fingerprintsDone : List (Nat × U64) := []
  /-- step of the last verdict when it was COMMIT: the next record describes its update [R178; 64; spec] -/
  ratioStep : Option Nat := none
  /-- phases opened in the step of the step register: number, largest closed duration in ns [R76; 32; spec] -/
  phaseTimes : List (Nat × Option Nat) := []
  /-- phase entries of the step of the open epoch, for its record: number and duration [R76, R179; 32; spec] -/
  phasesDone : List (Nat × Nat) := []
  /-- unchecked tiles and overruns of the step of the open epoch, for its record [R178; 32 each; spec] -/
  countsDone : Nat × Nat := (0, 0)
  /-- tiles selected and not checked in this step [R80; 32; spec] -/
  unchecked : Nat := 0
  /-- section overruns of this step [R75; 32; spec] -/
  overruns : Nat := 0
  /-- no step has run and no image has been restored since JOB_LOAD [R180; 1; spec] -/
  fresh : Bool := true
  /-- tasks waiting at EPOCH under NO_SPEC: step [R173; -; spec] -/
  noSpecAt : Option Nat := none
  deriving DecidableEq, Repr, Inhabited

/-- Inclusion, the ledger and replay (R256 to R267). -/
structure Straggler where
  /-- contributors ready here for the step: step and virtual index [R257; -; spec] -/
  ready : List (Nat × Nat) := []
  /-- contributors that executed NONFIN or were scanned non-finite: step and virtual index [R158; -; spec] -/
  nonFinite : List (Nat × Nat) := []
  /-- exact square sums scanned here: step, virtual index, accumulator [R224; 641 each; spec] -/
  scanned : List (Nat × Nat × SquareAcc) := []
  /-- exact square sum of the reduced elements owned here [R224; 641; spec] -/
  reducedSq : SquareAcc := { sum := 0, nonFinite := false }
  /-- reports of children in the tree: device, step, not-ready ranges [R258; -; spec] -/
  reports : List (U32 × Nat × List (Nat × Nat)) := []
  /-- steps whose READY this member has sent [R258; 64; spec] -/
  sentReady : Option Nat := none
  /-- INCLUDE in force: step, n, decisions [R259; -; spec] -/
  included : Option (Nat × Nat × List Decision) := none
  /-- contributions deferred into the next step [R262; -; spec] -/
  deferred : List Decision := []
  /-- ledger entries of the step being judged [R263; 128 each; spec] -/
  ledger : List Decision := []
  /-- leaf rows in the deferral reserve: collective, ordinal, contributor, offset, bytes, step of origin [R262; -; spec] -/
  kept : List (Nat × Nat × Nat × Nat × Nat × Nat) := []
  /-- contributors removed with their members [R261; -; spec] -/
  removed : List Nat := []
  /-- read position in the replay list [R267; 64; spec] -/
  replayPos : Nat := 0
  deriving DecidableEq, Repr, Inhabited

/-! ## Hinge, streams -/

/-- A weight slot (R134). -/
structure WeightSlot where
  /-- 0 EMPTY, 1 BUILDING, 2 READY, 3 ACTIVE, 4 DRAINING [R134; 3; spec] -/
  state : Nat := 0
  /-- generation it holds [R136; 32; spec] -/
  generation : Nat := 0
  /-- fingerprint [R139; 64; spec] -/
  fingerprint : U64 := 0
  deriving DecidableEq, Repr, Inhabited

/-- A copy of HINGE_PREPARE in progress (R139 to R141). -/
structure HingeCopy where
  /-- the command whose reply follows the copy [R141; -; spec] -/
  cmd : CmdRef
  /-- source device address [R138; 64; spec] -/
  source : Nat
  /-- image bytes [R138; 64; spec] -/
  length : Nat
  /-- 0 far tier, 1 HBM, 2 peer window [R138; 8; spec] -/
  kind : Nat
  /-- owner of the source region [R140; 8; spec] -/
  owner : Nat
  deriving DecidableEq, Repr

/-- The hinge of a serving job (R134 to R145). -/
structure Hinge where
  /-- slot 0 [R134; -; spec] -/
  slot0 : WeightSlot := { state := 3, generation := 1 }
  /-- slot 1 [R134; -; spec] -/
  slot1 : WeightSlot := {}
  /-- bytes of a slot [R134; 64; spec] -/
  slotBytes : Nat := 0
  /-- highest tag named so far [R138; 32; spec] -/
  maxTag : Nat := 1
  /-- slot that the weight view reads in the pass under way [R135; 1; spec] -/
  view : Nat := 0
  /-- generations of the passes still due in this batch step [R145; 32 each; spec] -/
  passes : List Nat := []
  /-- copy under way [R139; -; spec] -/
  copy : Option HingeCopy := none
  /-- switch under way: generation, FOLLOW_ALL, target step, the command here when it came here [R143; -; spec] -/
  switch : Option (Nat × Bool × Nat × Option CmdRef) := none
  deriving DecidableEq, Repr, Inhabited

/-- A stream context (R334). -/
structure Stream where
  /-- 0 FREE, 1 JOINING, 2 ACTIVE, 3 HELD, 4 LEAVING [R334; 8; spec] -/
  state : Nat := 0
  /-- 0 latency-critical, 1 best-effort [R334; 8; spec] -/
  cls : Nat := 0
  /-- 0 pin, 1 follow [R334; 8; spec] -/
  policy : Nat := 0
  /-- end reason [R334; 8; spec] -/
  endReason : Nat := 0
  /-- position [R334; 32; spec] -/
  position : Nat := 0
  /-- generation tag [R334; 32; spec] -/
  generation : Nat := 0
  /-- the host's value [R334; 32; spec] -/
  tag : U32 := 0
  /-- batch step at which it joined [R334; 32; spec] -/
  admittedStep : Nat := 0
  /-- order of admission [R336; -; spec] -/
  order : Nat := 0
  /-- pool pages held, the root page first, then table pages, then data pages by number [R335; 32 each; spec] -/
  root : Option Nat := none
  /-- table pages [R335; 32 each; spec] -/
  tables : List Nat := []
  /-- data pages [R335; 32 each; spec] -/
  data : List Nat := []
  deriving DecidableEq, Repr, Inhabited

/-- The serving part of a job (R334 to R337). -/
structure Serving where
  /-- stream contexts [R334; 256 each; spec] -/
  streams : List Stream := []
  /-- batch step [R336; 32; log 13] -/
  batchStep : Nat := 0
  /-- order number of the next admission [R336; -; spec] -/
  nextOrder : Nat := 0
  /-- stream changes due: boundary, change, the command here when it came here [R337; -; spec] -/
  changes : List (Nat × StreamChange × Option CmdRef) := []
  deriving DecidableEq, Repr, Inhabited

/-! ## Collectives -/

/-- A piece of term or data that has arrived (R226): source member, kind, lo, last, block, content. -/
structure Landed where
  /-- member index of the sender [R226; 14; spec] -/
  member : Nat
  /-- 0 TERM, 1 DATA [R226; 2; spec] -/
  kind : Nat
  /-- first leaf, or piece index [R226; 32; spec] -/
  lo : Nat
  /-- last leaf [R226; 16; spec] -/
  last : Nat
  /-- block within the piece [R226; 24; spec] -/
  block : Nat
  /-- formed after INCLUDE of its step was known [R260; 1; log 31] -/
  after : Bool
  /-- content [R226; 4096 bytes; spec] -/
  content : Bytes
  deriving DecidableEq, Repr, Inhabited

/-- An instance of a collective in progress (R217 to R229). -/
structure CollInstance where
  /-- instance number [R217; 64; spec] -/
  number : Nat
  /-- pulse at completion [R217; 1; spec] -/
  signal : Bool
  /-- event line [R217; 8; spec] -/
  line : Nat
  /-- rows [R217; 32; spec] -/
  rows : Nat
  /-- source address [R217; 52; spec] -/
  src : Nat
  /-- destination address [R217; 52; spec] -/
  dst : Nat
  /-- counts address [R217; 52; spec] -/
  counts : Nat
  /-- step in the step register at its start [R223; 64; spec] -/
  step : Nat
  /-- provisional [R228; 1; spec] -/
  prov : Bool
  /-- messages landed [R227; -; spec] -/
  landed : List Landed := []
  /-- counts received in ALL_TO_ALL: member and rows [R230; 32 each; spec] -/
  gotCounts : List (Nat × Nat) := []
  /-- results written [R219; 1; spec] -/
  written : Bool := false
  /-- which of the instances of its collective in its step it is [R262; 32; spec] -/
  ordinal : Nat := 0
  /-- the pieces owned here have been reduced [R221; 1; spec] -/
  reduced : Bool := false
  /-- messages that wait for credit: member index and message [R227; -; spec] -/
  outbox : List (Nat × Msg) := []
  /-- per receiving member: messages sent, segments credited [R227; 22 each; spec] -/
  sends : List (Nat × Nat × Nat) := []
  /-- per source member: messages landed, segments credited [R227; 22 each; spec] -/
  gets : List (Nat × Nat × Nat) := []
  deriving DecidableEq, Repr, Inhabited

/-- A collective context of a job (R212, R213). -/
structure Coll where
  /-- descriptor [R213; 512; spec] -/
  decl : CollDecl
  /-- context number on its I/O die [R212; 5; spec] -/
  context : Nat
  /-- instances started [R217; 64; spec] -/
  started : Nat := 0
  /-- its value at the opening of the epoch [R228; 64; spec] -/
  startedAtOpen : Nat := 0
  /-- step of the latest instance and instances started in it [R262; 64; spec] -/
  inStep : Nat × Nat := (0, 0)
  /-- instances in progress, oldest first [R219; -; spec] -/
  active : List CollInstance := []
  /-- messages early for an instance not yet started: port and message [R219; -; spec] -/
  early : List HeldMsg := []
  deriving DecidableEq, Repr

/-! ## Membership -/

/-- A proposal of a new epoch (R245). -/
structure Proposal where
  /-- the epoch proposed [R245; 64; spec] -/
  epoch : Nat
  /-- devices removed [R245; 32 each; spec] -/
  removed : List U32
  /-- devices added [R245; -; spec] -/
  added : List TreeEntry
  /-- rank of the proposer, 0 the coordinator [R245; 2; spec] -/
  rank : Nat
  /-- LINEUP counts of children: device and count [R245; 14 each; spec] -/
  counts : List (U32 × Nat) := []
  /-- this member has sent its LINEUP [R245; 1; spec] -/
  answered : Bool := false
  deriving DecidableEq, Repr, Inhabited

/-- What a module knows of a member (R270). -/
structure MemberInfo where
  /-- device [R270; 32; spec] -/
  device : U32
  /-- last patina score reported [R270; 16; spec] -/
  patina : Option Nat := none
  /-- SUSPECTED [R270; 1; spec] -/
  suspected : Bool := false
  /-- WORN [R270; 1; spec] -/
  worn : Bool := false
  /-- RETIRE [R270; 1; spec] -/
  retire : Bool := false
  /-- DRAIN_BLOCKED [R270; 1; spec] -/
  blocked : Bool := false
  deriving DecidableEq, Repr, Inhabited

/-- The membership of a job (R237 to R255, R270). -/
structure Membership where
  /-- current epoch [R237; 64; spec] -/
  epoch : Nat
  /-- the tree at this epoch [R238; 128 each; spec] -/
  members : List TreeEntry
  /-- 1 MEMBER, 2 LINED_UP, 3 ISOLATED, 4 EVICTED [R270; 8; spec] -/
  state : Nat := 1
  /-- proposal lined up for, or open here [R245; -; spec] -/
  proposal : Option Proposal := none
  /-- this module proposed it [R245; 1; spec] -/
  mine : Bool := false
  /-- removals gathered in the window: device [R245; 32 each; spec] -/
  gather : List U32 := []
  /-- the gather window is open [R245; 1; spec] -/
  gathering : Bool := false
  /-- devices this module has suspected in this epoch [R242; 32 each; spec] -/
  suspects : List U32 := []
  /-- MEMBERSHIP_REMOVE commands waiting for a TURN [R254; -; spec] -/
  removals : List (CmdRef × List U32) := []
  /-- proposals abandoned since MEMBERSHIP_SET [R270; 32; spec] -/
  abandoned : Nat := 0
  /-- abandoned in a row [R252; 2; spec] -/
  abandonedRun : Nat := 0
  /-- epochs turned since MEMBERSHIP_SET [R270; 64; spec] -/
  turned : Nat := 0
  /-- what is known of members [R270; -; spec] -/
  infos : List MemberInfo := []
  /-- worn members to be drained at the next step boundary: device and whether it owns a piece [R269; -; spec] -/
  drains : List (U32 × Bool) := []
  /-- data messages of the next epoch held [R249; -; spec] -/
  held : List HeldMsg := []
  deriving DecidableEq, Repr, Inhabited

/-- A RESHARD in progress (R233). -/
structure Reshard where
  /-- the command [R231; -; spec] -/
  cmd : CmdRef
  /-- its plan [R231; -; spec] -/
  plan : Plan
  /-- epoch it names, 0 for the current one [R231; 64; spec] -/
  epoch : Nat
  /-- members that have reported readiness [R233; 32 each; spec] -/
  readyFrom : List U32 := []
  /-- moves of this module still to arrive [R233; -; spec] -/
  toArrive : Nat := 0
  /-- step of R233 [R233; 3; spec] -/
  stage : Nat := 1
  /-- round of moves under way [R233; 32; spec] -/
  round : Nat := 0
  /-- collective descriptors before it [R235; -; spec] -/
  oldColls : List CollDecl := []
  /-- program before it [R235; -; spec] -/
  oldTasks : List TaskDecl := []
  /-- logical bytes of each grant before it [R235; 64 each; spec] -/
  oldBytes : List Nat := []
  deriving DecidableEq, Repr

/-! ## Jobs -/

/-- What a job's stop waits to do when the open epoch is resolved (R156, R330). -/
structure Stopper where
  /-- the command [R156; -; spec] -/
  cmd : CmdRef
  /-- true for CAST [R330; 1; spec] -/
  cast : Bool
  /-- bytes of the image being written [R330; 64; spec] -/
  length : Nat := 0
  deriving DecidableEq, Repr

/-- A loaded job (R312 to R337). -/
structure Job where
  /-- state code [R312; 4; spec] -/
  state : Nat := 0
  /-- scheduling class: true is best-effort [R314; 8; spec] -/
  bestEffort : Bool := false
  /-- its binary [R314; -; spec] -/
  bin : Option Binary := none
  /-- layout identifier [R231; 64; spec] -/
  layout : U64 := 0
  /-- JOB_START or RECAST has set its channels going since JOB_LOAD [R87; 1; spec] -/
  started : Bool := false
  /-- chunk length L, fixed at JOB_START [R53; 8; spec] -/
  chunk : Nat := 64
  /-- seed in force since JOB_START [R277; 64; spec] -/
  seed : Nat := 0
  /-- JOB_CONFIGURE blocks in force: type and body [R304; -; spec] -/
  settings : List (Nat × Bytes) := []
  /-- wake budget in µs [R411; 32; spec] -/
  budget : Nat := 0xFFFFFFFF
  /-- core mask of JOB_LOAD [R314; 192; spec] -/
  mask : Nat := 0
  /-- HBM regions [R120; -; spec] -/
  grants : List Grant := []
  /-- bindings [R314; -; spec] -/
  bindings : List Binding := []
  /-- tasks [R314; -; spec] -/
  tasks : List Task := []
  /-- channels [R86; -; spec] -/
  chans : List Chan := []
  /-- physical event lines of each die, by job-relative number [R100; 8 each; spec] -/
  lines : List (List Nat) := []
  /-- cores lent: core, kind, borrower (64 is the device) [R326; -; spec] -/
  lent : List (Nat × Nat × Nat) := []
  /-- cores borrowed: core and lender [R326; -; spec] -/
  borrowed : List (Nat × Nat) := []
  /-- LEND or RECLAIM under way: command, cores still to pass [R327; -; spec] -/
  lending : Option (CmdRef × List Nat) := none
  /-- a kind-2 loan not yet in force: cores, borrower, command [R328; -; spec] -/
  vecLoan : Option (List Nat × Nat × CmdRef) := none
  /-- training step [R146; -; spec] -/
  train : Training := {}
  /-- inclusion and ledger [R258; -; spec] -/
  strag : Straggler := {}
  /-- hinge [R134; -; spec] -/
  hinge : Option Hinge := none
  /-- streams [R334; -; spec] -/
  serving : Serving := {}
  /-- collective contexts [R212; -; spec] -/
  colls : List Coll := []
  /-- membership [R237; -; spec] -/
  member : Option Membership := none
  /-- RESHARD under way [R233; -; spec] -/
  reshard : Option Reshard := none
  /-- JOB_STOP or CAST waiting [R156; -; spec] -/
  stopper : Option Stopper := none
  /-- status of the last fault stop [R305; 16; spec] -/
  faultStatus : Nat := 0
  /-- JOB_WAIT commands waiting [R305; -; spec] -/
  waits : List CmdRef := []
  deriving DecidableEq, Repr, Inhabited

/-! ## Cores, dies, stacks -/

/-- A disagreement between array and vector engine that waits for another engine's vote (R366). -/
structure Dispute where
  /-- the task [R366; -; spec] -/
  task : TaskRef
  /-- array and slot of the tile [R366; 6; spec] -/
  array : Nat
  /-- slot [R366; 5; spec] -/
  slot : Nat
  /-- the instruction word [R366; 256; spec] -/
  word : Bytes
  /-- totals before the instruction [R365; -; spec] -/
  before : List Nat
  deriving DecidableEq, Repr

/-- One of the 192 core slots (R9, R345, R367 to R370, R404). -/
structure Core where
  /-- task running on it [R320; -; spec] -/
  running : Option TaskRef := none
  /-- ready latency-critical tasks in order [R320; -; spec] -/
  readyLc : List TaskRef := []
  /-- ready best-effort tasks in round robin [R321; -; spec] -/
  readyBe : List TaskRef := []
  /-- the slice of the running task has ended [R321; 1; spec] -/
  sliceOver : Bool := false
  /-- time to subtract from a job's next slice: job and µs [R322; 32; spec] -/
  owed : List (Nat × Nat) := []
  /-- domain state [R310; 8; spec] -/
  domain : Nat := 2
  /-- fenced off for a fault [R368; 1; log 11] -/
  fenced : Bool := false
  /-- to be fenced at the next gap [R368; 1; spec] -/
  fenceDue : Bool := false
  /-- delay margin [R367; 3; spec] -/
  delay : Nat := 0
  /-- voltage offset in 10 mV steps [R367; 3; spec] -/
  volt : Nat := 0
  /-- margins in effect since the last preemption point [R367; 6; spec] -/
  liveMargins : Nat × Nat := (0, 0)
  /-- active time since the last pass in µs [R369; 64; log 11] -/
  activeUs : Nat := 0
  /-- 0 no test, 1 due, 2 forced, 3 under test [R369; 2; spec] -/
  test : Nat := 0
  /-- TEST_RUN commands that wait for this core [R372; -; spec] -/
  testCmds : List CmdRef := []
  /-- it was fenced when a TEST_RUN with RETEST named it [R372; 1; spec] -/
  retest : Bool := false
  /-- idle state 0 to 2 [R404; 3; spec] -/
  idle : Nat := 0
  /-- disagreement under way [R366; -; spec] -/
  dispute : Option Dispute := none
  deriving DecidableEq, Repr, Inhabited

/-- Who waits on an event line (R99). -/
inductive WaitAgent where
  | chan (c : ChanRef)
  | task (t : TaskRef)
  deriving DecidableEq, Repr

/-- A waiter on an event line (R99). -/
structure Waiter where
  /-- agent [R99; -; spec] -/
  agent : WaitAgent
  /-- pulses it takes [R99; 16; spec] -/
  count : Nat
  deriving DecidableEq, Repr

/-- A physical event line (R99). -/
structure EventLine where
  /-- pulse counter [R99; 16; spec] -/
  count : Nat := 0
  /-- waiters, head first [R99; -; spec] -/
  waiters : List Waiter := []
  deriving DecidableEq, Repr, Inhabited

/-- A compute die (R8, R345, R397 to R404). -/
structure Die where
  /-- event lines 0 to 255 [R98; -; spec] -/
  lines : List EventLine := List.replicate 256 {}
  /-- domain state [R310; 8; spec] -/
  domain : Nat := 2
  /-- in idle state I3 [R404; 1; spec] -/
  gated : Bool := false
  /-- core supply in mV [R397; 10; log 14] -/
  milliVolts : Nat := 750
  /-- pace in MHz as last measured [R397; 12; log 14] -/
  paceMhz : Nat := 2000
  /-- hottest reading of its sensors, in 0.1 °C [R402, R433; 16; log 14] -/
  deci : Nat := 250
  /-- thermal throttling acts [R402; 1; spec] -/
  throttled : Bool := false
  deriving DecidableEq, Repr, Inhabited

/-- A queued update descriptor (R129). -/
structure UpdateReq where
  /-- issuing task [R129; -; spec] -/
  task : TaskRef
  /-- descriptor [R129; 512; spec] -/
  desc : Bytes
  /-- issued in provisional mode [R132; 1; spec] -/
  prov : Bool
  deriving DecidableEq, Repr

/-- An HBM stack's controller and update unit (R116, R129). -/
structure Stack where
  /-- queued descriptors, oldest first [R129; -; spec] -/
  queue : List UpdateReq := []
  /-- next word the scrubber reads [R116; 33; log 14] -/
  scrub : Nat := 0
  deriving DecidableEq, Repr, Inhabited

/-! ## Fabric -/

/-- A data flit in a retry buffer: sequence number, channel, content as sent, times resent (R190). -/
structure SentFlit where
  /-- SEQ [R187; 16; spec] -/
  seq : Nat
  /-- VC [R187; 3; spec] -/
  vc : Nat
  /-- SOM [R187; 1; spec] -/
  som : Bool
  /-- EOM [R187; 1; spec] -/
  eom : Bool
  /-- data words of the groups sent [R186; 192 bytes; spec] -/
  data : Bytes
  /-- spent a shared credit [R196; 1; spec] -/
  shared : Bool
  /-- resends so far [R191; 3; spec] -/
  resends : Nat := 0
  deriving DecidableEq, Repr, Inhabited

/-- A message waiting to be sent on a channel, with the bytes already sent (R195). -/
structure TxMsg where
  /-- virtual channel [R194; 3; spec] -/
  vc : Nat
  /-- the message [R198; -; spec] -/
  msg : Msg
  /-- groups already sent [R198; 7; spec] -/
  sent : Nat := 0
  deriving DecidableEq, Repr

/-- A message arriving or arrived on a channel (R196, R198). -/
structure RxMsg where
  /-- virtual channel [R194; 3; spec] -/
  vc : Nat
  /-- data bytes of its groups so far [R186; -; spec] -/
  data : Bytes
  /-- 8-byte words found uncorrectable [R189; -; spec] -/
  bad : List Nat
  /-- EOM has arrived [R187; 1; spec] -/
  whole : Bool
  /-- flits it holds in shared and reserved slots [R196; 13 each; spec] -/
  flits : Nat × Nat
  deriving DecidableEq, Repr, Inhabited

/-- The counters of PORT_STATUS (R211). -/
structure PortCounters where
  /-- crc_errors [R211; 32; spec] -/
  crc : Nat := 0
  /-- retries [R211; 32; spec] -/
  retries : Nat := 0
  /-- retrains [R211; 32; spec] -/
  retrains : Nat := 0
  /-- width_changes [R211; 32; spec] -/
  widths : Nat := 0
  /-- lane_losses [R211; 32; spec] -/
  lanes : Nat := 0
  /-- ward_drops [R211; 32; spec] -/
  ward : Nat := 0
  /-- stale [R211; 32; spec] -/
  stale : Nat := 0
  /-- unreachable [R211; 32; spec] -/
  unreachable : Nat := 0
  /-- header_errors [R211; 32; spec] -/
  header : Nat := 0
  /-- busy [R211; 32; spec] -/
  busy : Nat := 0
  deriving DecidableEq, Repr, Inhabited

/-- The link layer of a port (R190 to R196). -/
structure Link where
  /-- next SEQ to send [R190; 16; spec] -/
  txSeq : Nat := 0
  /-- SEQ expected [R190; 16; spec] -/
  rxSeq : Nat := 0
  /-- a NAK has been sent for the present gap [R190; 1; spec] -/
  nakSent : Bool := false
  /-- a NAK is to be sent with the next flit [R190; 1; spec] -/
  nakDue : Bool := false
  /-- retry buffer, oldest first [R190; 4096 flits; spec] -/
  retry : List SentFlit := []
  /-- shared credits held as sender [R196; 12; spec] -/
  shared : Nat := 0
  /-- reserved credits held as sender, by channel [R196; 7 each; spec] -/
  reserved : List Nat := List.replicate 8 0
  /-- credits to return: channel, shared, count [R196; 7 each; spec] -/
  returns : List (Nat × Bool × Nat) := []
  /-- shared slots in use in the receive buffer [R196; 12; spec] -/
  rxShared : Nat := 0
  /-- reserved slots in use by channel [R196; 7 each; spec] -/
  rxReserved : List Nat := List.replicate 8 0
  /-- messages arriving and arrived, oldest first [R196; -; spec] -/
  rx : List RxMsg := []
  /-- messages to send, oldest first [R195; -; spec] -/
  tx : List TxMsg := []
  /-- position in the round of 16 [R195; 4; log 14] -/
  turn : Nat := 0
  /-- which of the last 256 slots control took [R195; 256; spec] -/
  control : List Bool := []
  deriving DecidableEq, Repr, Inhabited

/-- A fabric port (R181 to R211). -/
structure Port where
  /-- state code [R185; 3; spec] -/
  state : Nat := 0
  /-- width 4, 8 or 16, 0 when not running [R182; 5; spec] -/
  width : Nat := 0
  /-- first lane of the lane set [R182; 4; spec] -/
  lane : Nat := 0
  /-- fail cause [R211; 8; spec] -/
  cause : Nat := 0
  /-- lanes good at the last training [R211; 16; spec] -/
  lanesGood : U16 := 0
  /-- round trip in ns [R184; 32; spec] -/
  rttNs : Nat := 0
  /-- far-end identifier at the last training [R211; 32; spec] -/
  neighbour : U32 := 0
  /-- role of PORT_CONFIGURE [R210; 8; spec] -/
  role : Nat := 0
  /-- ring or chain [R210; 3; spec] -/
  ring : Nat := 0
  /-- DATELINE [R210; 1; spec] -/
  dateline : Bool := false
  /-- CHAIN [R210; 1; spec] -/
  chain : Bool := false
  /-- devices in the ring or chain [R210; 16; spec] -/
  size : Nat := 0
  /-- neighbour that PORT_CONFIGURE named [R210; 32; spec] -/
  expect : U32 := 0
  /-- lasers enabled [R184; 1; spec] -/
  laser : Bool := false
  /-- domain state [R310; 8; spec] -/
  domain : Nat := 2
  /-- keeper times of retrains begun lately, in µs [R192; 64 each; spec] -/
  retrainTimes : List Nat := []
  /-- counters [R211; 320; spec] -/
  count : PortCounters := {}
  /-- link layer [R190; -; spec] -/
  link : Link := {}
  /-- requests being answered: source and tag [R201; 8192; spec] -/
  requests : List (U32 × Nat) := []
  /-- sources refused with BUSY, oldest first [R201; 32 each; spec] -/
  refused : List U32 := []
  deriving DecidableEq, Repr, Inhabited

/-- What an outstanding transaction is for (R200). -/
inductive TxnUse where
  /-- a channel's MOVE: reads land in its buffer -/
  | chan (c : ChanRef)
  /-- work that has been given up -/
  | dropped
  deriving DecidableEq, Repr

/-- An outstanding transaction of this module (R200, R325). -/
structure Txn where
  /-- port it left by [R200; 4; spec] -/
  port : Nat
  /-- tag [R198; 13; spec] -/
  tag : Nat
  /-- true for a write [R199; 1; spec] -/
  isWrite : Bool
  /-- destination device [R198; 32; spec] -/
  dest : U32
  /-- peer address [R198; 52; spec] -/
  addr : Nat
  /-- this module's address of the peer bytes [R119; 52; spec] -/
  window : Nat
  /-- bytes [R198; 13; spec] -/
  length : Nat
  /-- the request, kept for a BUSY resend [R201; -; spec] -/
  request : Msg
  /-- waits to be resent [R201; 1; spec] -/
  busy : Bool := false
  /-- whose it is [R200; -; spec] -/
  use : TxnUse
  deriving DecidableEq, Repr

/-- A route table entry (R204, R210). -/
structure RouteEntry where
  /-- destination [R210; 32; spec] -/
  device : U32
  /-- route word [R204; 64; spec] -/
  route : U64
  /-- down list [R204; 64; spec] -/
  down : U64
  deriving DecidableEq, Repr, Inhabited

/-- The fabric side of the module (R181 to R211, R240). -/
structure Fabric where
  /-- ports FP0 to FP15 [R181; -; spec] -/
  ports : List Port := List.replicate 16 {}
  /-- route table [R210; 160 each; spec] -/
  routes : List RouteEntry := []
  /-- outstanding transactions [R200; -; spec] -/
  txns : List Txn := []
  /-- next transaction tag of each port [R198; 13 each; log 14] -/
  nextTag : List Nat := List.replicate 16 0
  /-- heartbeat sequence [R241; 32; spec] -/
  beat : Nat := 0
  /-- LEAVING is set in heartbeats, new data withheld [R356; 1; spec] -/
  leaving : Bool := false
  /-- GOODBYE repeats still to send: ports and times [R356; 16; spec] -/
  goodbyes : List (Nat × Nat) := []
  deriving DecidableEq, Repr, Inhabited

/-! ## Host interface -/

/-- A command read from a ring (R291). -/
structure Cmd where
  /-- queue and ring sequence [R291; 40; spec] -/
  ref : CmdRef
  /-- header [R291; 256; spec] -/
  header : Bytes
  /-- parameters [R292; -; spec] -/
  params : Bytes
  /-- the bytes after an indirect pointer are not zero [R292; 1; spec] -/
  pointerBad : Bool := false
  /-- execution has begun [R300; 1; spec] -/
  begun : Bool := false
  /-- TIMEOUT has been written [R300; 1; spec] -/
  timedOut : Bool := false
  /-- the fields of its reply once it has ended, while the reply is written [R295; -; spec] -/
  ended : Bool := false
  deriving DecidableEq, Repr

/-- A ring and its registers (R284 to R290). -/
structure Ring where
  /-- BASE as an address [R286; 64; spec] -/
  base : Nat := 0
  /-- STATE [R286; 2; spec] -/
  state : Nat := 0
  /-- QUIET [R286; 1; spec] -/
  quiet : Bool := false
  /-- SIZE [R286; 4; spec] -/
  size : Nat := 0
  /-- CAUSE [R286; 3; spec] -/
  cause : Nat := 0
  /-- ENABLE [R286; 1; spec] -/
  enable : Bool := false
  /-- latest TAIL [R287; 32; log 14] -/
  tail : Nat := 0
  /-- HEAD [R287; 32; spec] -/
  head : Nat := 0
  /-- expected ring sequence number [R288; 32; log 14] -/
  expect : Nat := 0
  /-- commands in progress, oldest first [R290; -; spec] -/
  cmds : List Cmd := []
  /-- enablings so far: tells the commands of an earlier ring from this one's [R288; -; spec] -/
  enabling : Nat := 0
  deriving DecidableEq, Repr, Inhabited

/-- What a write or read waiting for the adapter is (R101, R177, R295, R330, R357). -/
inductive FarUse where
  /-- a channel's write -/
  | chanWrite (c : ChanRef)
  /-- a channel's read of the bytes from an address -/
  | chanRead (c : ChanRef) (addr : Nat)
  /-- bytes 2 to 31 of a reply; then its status -/
  | replyBody (queue : Nat) (status : Bytes)
  /-- the status bytes of a reply -/
  | replyStatus (queue : Nat)
  /-- a step record without its step field; then the field -/
  | recordBody (step : Nat)
  /-- the step field of a record -/
  | recordStep
  /-- a part of a CAST image or of a region copied with it -/
  | image (job : Nat)
  /-- a record that a command writes to a host buffer before its reply -/
  | hostBuffer
  /-- a bulk copy of the dump -/
  | bulk
  /-- work that has been given up -/
  | dropped
  deriving DecidableEq, Repr

/-- A request to the adapter not yet answered (R101, R122): identifier, host address, bytes written, bytes asked for. -/
structure FarReq where
  /-- identifier in order of issue [R101; -; spec] -/
  id : Nat
  /-- host address [R122; 44; spec] -/
  addr : Nat
  /-- bytes written, none for a read [R101; -; spec] -/
  data : Bytes
  /-- bytes asked for [R101; 24; spec] -/
  length : Nat
  /-- purpose [R101; -; spec] -/
  use : FarUse
  deriving DecidableEq, Repr

/-- Rings, windows and the far-tier side (R284 to R301, R122 to R124). -/
structure HostIf where
  /-- queues 0 to 131 [R284; -; spec] -/
  rings : List Ring := List.replicate 132 {}
  /-- window table: host address and bytes [R122; -; spec] -/
  windows : List (Nat × Nat) := []
  /-- far-tier rate reported by the adapter, in MB/s [R124; 18; log 14] -/
  farRate : Nat := 0
  /-- requests to the adapter, oldest first [R101; -; spec] -/
  far : List FarReq := []
  /-- next identifier [R101; -; spec] -/
  farNext : Nat := 0
  /-- the order in which commands that change jobs were read [R301; -; spec] -/
  order : List CmdRef := []
  /-- reads since the last best-effort one [R290; 4; log 14] -/
  beCount : Nat := 0
  /-- last queue served in each class [R290; 8 each; log 14] -/
  lastServed : List Nat := [0, 0, 0]
  deriving DecidableEq, Repr, Inhabited

/-! ## Keeper -/

/-- An error-log entry (R339). -/
structure LogEntry where
  /-- seq [R339; 64; spec] -/
  seq : Nat
  /-- time [R339; 64; spec] -/
  time : Nat
  /-- code [R339; 16; spec] -/
  code : Nat
  /-- class [R339; 8; spec] -/
  cls : Nat
  /-- domain kind and index [R339; 24; spec] -/
  domain : Domain
  /-- job, 0xFFFF when none [R339; 16; spec] -/
  job : Nat
  /-- arg0 [R339; 64; spec] -/
  arg0 : Nat
  /-- arg1 [R339; 64; spec] -/
  arg1 : Nat
  /-- arg2 [R339; 64; spec] -/
  arg2 : Nat
  /-- step register of the job, all ones when none [R339; 64; spec] -/
  step : Nat
  deriving DecidableEq, Repr

/-- A reset in progress (R346). -/
structure Reset where
  /-- domain [R345; 24; spec] -/
  domain : Domain
  /-- source code [R350; 8; spec] -/
  source : Nat
  /-- class of its entries [R346; 8; spec] -/
  cls : Nat
  /-- NO_DUMP [R356; 1; spec] -/
  noDump : Bool
  /-- step of R346 reached: 1 fenced and draining, 5 resetting [R346; 3; spec] -/
  stage : Nat
  /-- the jobs that it stops, as they stood at step 1 [R347, R432; 64; spec] -/
  jobs : List Nat := []
  deriving DecidableEq, Repr

/-- The crash dump (R353 to R358). -/
structure Dump where
  /-- VALID [R358; 1; spec] -/
  valid : Bool := false
  /-- LOCKED [R358; 1; spec] -/
  locked : Bool := false
  /-- DUMP_ID [R358; 32; spec] -/
  id : Nat := 0
  /-- DROPPED [R358; 16; spec] -/
  dropped : Nat := 0
  /-- TRIGGER [R358; 4; spec] -/
  trigger : Nat := 0
  /-- bytes of the held dump, in the dump region [R354; 64; spec] -/
  length : Nat := 0
  /-- dumps captured since power-up [R354; 64; spec] -/
  captured : Nat := 0
  /-- BULK_BUSY with what the copy does: dump offset, bytes, host address, RELEASE [R357; -; spec] -/
  bulk : Option (Nat × Nat × Nat × Bool) := none
  /-- KP_DUMP_DONE [R358; 64; spec] -/
  done : Nat := 0
  deriving DecidableEq, Repr, Inhabited

/-- The deadbolt mailbox (R308). -/
structure Mailbox where
  /-- MB_HEADER [R308; 32 bytes; spec] -/
  header : Bytes := List.replicate 32 0
  /-- MB_PARAM [R308; 64 bytes; spec] -/
  param : Bytes := List.replicate 64 0
  /-- SEQ of MB_STATUS [R308; 8; spec] -/
  seq : Nat := 0
  /-- REFUSED [R308; 1; spec] -/
  refused : Bool := false
  /-- DONE [R308; 1; spec] -/
  done : Bool := false
  /-- BUSY [R308; 1; spec] -/
  busy : Bool := false
  /-- MB_REPLY [R308; 32 bytes; spec] -/
  reply : Bytes := List.replicate 32 0
  /-- MB_DATA, missing bytes zero [R308; 3840 bytes; spec] -/
  data : Bytes := []
  deriving DecidableEq, Repr, Inhabited

/-- Counts of corrected events of a domain since its last summary (R342). -/
structure Corrected where
  /-- domain [R342; 24; spec] -/
  domain : Domain
  /-- corrected words [R342; 64; spec] -/
  words : Nat
  /-- link retries [R342; 64; spec] -/
  retries : Nat
  /-- retrains [R342; 64; spec] -/
  retrains : Nat
  /-- keeper time of the last summary [R342; 64; spec] -/
  last : Option Nat
  deriving DecidableEq, Repr

/-- What the keeper's flash holds of health (R368). -/
structure FlashHealth where
  /-- patina accumulator [R368; 20; log 11] -/
  acc : Nat := 0
  /-- RETIRE [R368; 1; log 11] -/
  retire : Bool := false
  /-- WORN [R376; 1; log 11] -/
  worn : Bool := false
  /-- per core: fenced, delay margin, voltage offset [R368; 7 each; log 11] -/
  cores : List (Bool × Nat × Nat) := []
  deriving DecidableEq, Repr, Inhabited

/-- The keeper (R338 to R360). -/
structure Keeper where
  /-- µs since power-up, KP_TIME [R358; 64; spec] -/
  time : Nat := 0
  /-- device domain state [R358; 8; spec] -/
  device : Nat := 2
  /-- management domain state [R358; 8; spec] -/
  management : Nat := 2
  /-- Switrak domain state [R358; 8; spec] -/
  switrak : Nat := 2
  /-- error log, oldest first, at most 32,768 entries [R338; 64 bytes each; log 11] -/
  log : List LogEntry := []
  /-- latest sequence number [R338; 64; log 11] -/
  logSeq : Nat := 0
  /-- recorded reservation [R338; 64; log 11] -/
  reservation : Nat := 65536
  /-- mirror slots: entries [R340; 2 MiB each; log 11] -/
  mirrors : List (List LogEntry) := List.replicate 8 []
  /-- slot the next mirror takes [R340; 3; log 11] -/
  mirrorNext : Nat := 0
  /-- a mirror under way: its entries [R340; -; spec] -/
  mirroring : Option (List LogEntry) := none
  /-- KP_EVENT [R358; 5; spec] -/
  event : Nat := 0
  /-- LAST_CAUSE [R358; 8; spec] -/
  lastCause : Nat := 1
  /-- LAST_KIND [R358; 8; spec] -/
  lastKind : Nat := 0
  /-- LAST_INDEX [R358; 16; spec] -/
  lastIndex : Nat := 0
  /-- crash dump [R353; -; spec] -/
  dump : Dump := {}
  /-- mailbox [R308; -; spec] -/
  mailbox : Mailbox := {}
  /-- MAQUETTE replies so far [R310; 64; spec] -/
  maquettes : Nat := 0
  /-- resets under way [R346; -; log 15] -/
  resets : List Reset := [{ domain := { kind := 0, index := 0 }, source := 1, cls := 6, noDump := true, stage := 5 }]
  /-- FENCE_ALL in force [R310; 1; spec] -/
  fenceAll : Bool := false
  /-- LASERS_OFF in force: ports, bit 16 Switrak [R310; 17; spec] -/
  lasersOff : Nat := 0
  /-- Switrak laser enabled [R356; 1; log 15] -/
  switrakLaser : Bool := true
  /-- held state of R349 [R349; 1; spec] -/
  held : Bool := false
  /-- gated after a thermal trip [R433; 1; spec] -/
  tripped : Bool := false
  /-- THERM_N is low [R422; 1; spec] -/
  therm : Bool := false
  /-- powered off by POWER_OFF [R356; 1; spec] -/
  off : Bool := false
  /-- DET_ENFORCE in force [R278; 1; log 15] -/
  detEnforced : Bool := false
  /-- corrected events per domain [R342; -; spec] -/
  corrected : List Corrected := []
  /-- µs since Nerur last updated the shadow [R310; 32; spec] -/
  shadowAge : Nat := 0
  /-- job entries of the shadow while Nerur is stopped [R311; 2048 bytes; spec] -/
  frozen : Option Bytes := none
  /-- NERUR_STALL has been written for the present stall [R344; 1; spec] -/
  stallLogged : Bool := false
  /-- I3C dynamic address [R360; 7; spec] -/
  i3cAddr : Option Byte := none
  /-- I3C register offset [R360; 16; log 15] -/
  i3cOffset : Nat := 0
  /-- I3C data returned by the last read [R360; -; spec] -/
  i3cData : Bytes := []
  /-- identification entropy drawn for I3C [R360; 32; spec] -/
  i3cId : U32 := 0
  /-- in-band interrupts raised [R360; -; spec] -/
  i3cIbi : Nat := 0
  deriving DecidableEq, Repr, Inhabited

/-- Patina and health (R373 to R377). -/
structure Health where
  /-- accumulator [R373; 20; log 11] -/
  acc : Nat := 0
  /-- WORN [R375; 1; log 11] -/
  worn : Bool := false
  /-- RETIRE [R375; 1; log 11] -/
  retire : Bool := false
  /-- corrected words since power-up [R377; 64; spec] -/
  corrected : Nat := 0
  /-- link retries since power-up [R377; 64; spec] -/
  retries : Nat := 0
  /-- retrains since power-up [R377; 32; spec] -/
  retrains : Nat := 0
  /-- lane losses since power-up [R377; 32; spec] -/
  lanes : Nat := 0
  /-- margin raises since power-up [R377; 32; spec] -/
  raises : Nat := 0
  /-- transient test failures since power-up [R377; 32; spec] -/
  testTransients : Nat := 0
  /-- RECOMPUTE of HS_COUNTS [R376; 16; spec] -/
  recompute : Nat := 0
  /-- FINGERPRINT of HS_COUNTS [R376; 16; spec] -/
  fingerprint : Nat := 0
  /-- TRANSIENT of HS_COUNTS [R376; 16; spec] -/
  transient : Nat := 0
  /-- FENCES of HS_COUNTS [R376; 16; spec] -/
  fences : Nat := 0
  /-- flash copy [R368; -; log 11] -/
  flash : FlashHealth := {}
  deriving DecidableEq, Repr, Inhabited

/-! ## Firmware -/

/-- A bank of the module flash (R378 to R383). -/
structure Bank where
  /-- its bytes [R379; 112 MiB; log 11] -/
  bytes : Bytes := []
  /-- marked failed [R383; 1; log 11] -/
  failed : Bool := false
  /-- strikes in a row [R383; 2; log 11] -/
  strikes : Nat := 0
  deriving DecidableEq, Repr, Inhabited

/-- An entry of the attestation log (R395). -/
structure Measure where
  /-- kind [R395; 8; spec] -/
  kind : Nat
  /-- bank [R395; 8; spec] -/
  bank : Nat
  /-- version [R395; 32; spec] -/
  version : Nat
  /-- keeper time [R395; 64; spec] -/
  time : Nat
  /-- digest [R395; 384; spec] -/
  digest : Bytes
  deriving DecidableEq, Repr, Inhabited

/-- Firmware, owner, device set and wards (R378 to R396). -/
structure Firmware where
  /-- bank 0 [R378; -; log 11] -/
  bank0 : Bank := {}
  /-- bank 1 [R378; -; log 11] -/
  bank1 : Bank := {}
  /-- bank of the running Nerur [R393; 1; log 11] -/
  booted : Nat := 0
  /-- running keeper version [R307; 32; log 11] -/
  keeperVersion : Nat := 0
  /-- running Nerur version [R307; 32; log 11] -/
  nerurVersion : Nat := 0
  /-- security version of the running Nerur's bundle [R393; 32; log 11] -/
  security : Nat := 0
  /-- floor: blown rollback fuses [R380; 8; log 11] -/
  floor : Nat := 0
  /-- owner key enrolled [R388; 1952 bytes; log 11] -/
  owner : Option Bytes := none
  /-- version of the last enrolment [R389; 32; log 11] -/
  ownerVersion : Nat := 0
  /-- device set: version and identifiers [R389; -; log 11] -/
  deviceSet : Option (Nat × List U32) := none
  /-- pieces of the object being written: kind, total, bytes so far [R385; -; spec] -/
  staging : Option (Nat × Nat × Bytes) := none
  /-- attestation log [R395; 64 bytes each; log 15] -/
  measures : List Measure := []
  /-- Nerur is loaded and not yet ready [R382; 1; log 15] -/
  awaiting : Bool := true
  /-- RAISE_FLOOR of the activation under way [R387; 1; spec] -/
  raiseFloor : Bool := false
  /-- recovery state [R384; 1; spec] -/
  recovery : Bool := false
  /-- ward_trips [R391; 7; spec] -/
  trips : Nat := 0
  /-- keeper time of each ward's last WARD_TRIP entry [R391; 64 each; spec] -/
  tripTimes : List (Nat × Nat) := []
  deriving DecidableEq, Repr, Inhabited

/-! ## Power and pins -/

/-- Profile, caps, budgets and pins (R392 to R424). -/
structure Power where
  /-- row setting [R398; 2; spec] -/
  rows : Nat := 0
  /-- pace target in MHz [R401; 12; spec] -/
  target : Nat := 2000
  /-- cap in W [R393; 16; spec] -/
  cap : Nat := 2250
  /-- WINDOW_W [R393; 16; spec] -/
  window : Nat := 0
  /-- CLAMPS [R393; 16; spec] -/
  clamps : Nat := 0
  /-- windows over a limit in a row [R392; 2; spec] -/
  overRun : Nat := 0
  /-- the ward acted in the last window [R399; 1; spec] -/
  acted : Bool := false
  /-- arrays quiesced [R392; 1; spec] -/
  quiesced : Bool := false
  /-- device wake budget in µs [R411; 32; spec] -/
  budget : Nat := 0
  /-- device is in I4 [R404; 1; spec] -/
  standby : Bool := false
  /-- the module has input power [R419; 1; spec] -/
  input : Bool := true
  /-- RESET_N is low [R422; 1; log 15] -/
  resetLow : Bool := false
  /-- EVT_IN0 is low [R423; 1; log 15] -/
  evt0Low : Bool := false
  /-- EVT_IN1 is low [R423; 1; log 15] -/
  evt1Low : Bool := false
  deriving DecidableEq, Repr, Inhabited

/-! ## The whole machine -/

/-- Who repeats a command that the manual makes wait (R301, R147, R219). -/
inductive Agent where
  | task (t : TaskRef)
  | cmd (c : CmdRef)
  | other
  deriving DecidableEq, Repr

/-- The state of the Griux. -/
structure State where
  /-- identity [R307; -; log 11] -/
  ident : Ident := {}
  /-- memory [R113; -; spec] -/
  mem : Memory := {}
  /-- job contexts 0 to 63 [R312; -; spec] -/
  jobs : List Job := List.replicate 64 {}
  /-- core slots 0 to 191 [R9; -; spec] -/
  cores : List Core := List.replicate 192 {}
  /-- dies D0 to D3 [R8; -; spec] -/
  dies : List Die := List.replicate 4 {}
  /-- stacks H0 to H11 [R8; -; spec] -/
  hbm : List Stack := List.replicate 12 {}
  /-- fabric [R181; -; spec] -/
  fabric : Fabric := {}
  /-- host interface [R284; -; spec] -/
  host : HostIf := {}
  /-- keeper [R338; -; spec] -/
  keeper : Keeper := {}
  /-- health [R373; -; log 11] -/
  health : Health := {}
  /-- firmware and wards [R378; -; log 11] -/
  fw : Firmware := {}
  /-- power and pins [R398; -; spec] -/
  power : Power := {}
  /-- the model's own: number of free values drawn so far [-; -; log 1] -/
  draws : Nat := 0
  /-- the model's own: commands that the manual makes wait, with who waits [-; -; log 16] -/
  waiting : List (Agent × Instr) := []
  /-- the model's own: commands not yet taken, first in first out [-; -; spec] -/
  pending : List Instr := []
  deriving DecidableEq, Repr, Inhabited

/-- Why the machine stops with a fault. Safe: a stop where the manual defines no condition of the part. -/
inductive Fault where
  /-- OVERVOLTAGE: an input beyond the absolute ratings of R428, after which the condition of the module is not defined.
  Safe. -/
  | beyondAbsoluteRating
  deriving DecidableEq, Repr

/-- Why a command has no meaning here. -/
inductive Refusal where
  /-- Raised by `exec` for a command whose meaning is not written. Safe. -/
  | notModelled (mnemonic : String)
  deriving DecidableEq, Repr

/-- The machine right after power-up: the registers of R358 at their reset values, a power-up device reset under way,
memory zero, every queue empty; Nerur has been loaded and has not yet reported ready (R382, R420; log entry 15). -/
def State.reset : State := {}

end Sys2Proof.Machine
end

