-- ==== Sys2Proof/Machine/Mem.lean ====
section
/-! DEFINITION. The sparse byte store in its one canonical form, its keys, and the 80/64 code's findings on 8-byte words
(R81, R84, R85, R113 to R115). -/

namespace Sys2Proof.Machine

/-- The byte at a key; an unlisted key reads zero. -/
def cellGet : Cells → Nat → Byte
  | [], _ => 0
  | (k, v) :: r, a => if a < k then 0 else if a = k then v else cellGet r a

/-- The store with the byte at a key set; a zero byte is not listed. -/
def cellPut : Cells → Nat → Byte → Cells
  | [], a, b => if b = 0 then [] else [(a, b)]
  | (k, v) :: r, a, b =>
    if a < k then (if b = 0 then (k, v) :: r else (a, b) :: (k, v) :: r)
    else if a = k then (if b = 0 then r else (a, b) :: r)
    else (k, v) :: cellPut r a b

/-- Keys strictly rising from `lo` and no byte zero. -/
def cellsWfFrom : Nat → Cells → Bool
  | _, [] => true
  | lo, (k, v) :: r => decide (lo ≤ k) && v != 0 && cellsWfFrom (k + 1) r

/-- The canonical form. -/
def cellsWf (m : Cells) : Bool := cellsWfFrom 0 m

/-- `n` bytes from a key upwards. -/
def cellRead (m : Cells) (a n : Nat) : Bytes := (List.range n).map fun i => cellGet m (a + i)

/-- The entries of bytes that lie from a key upwards; a zero byte has none. -/
def cellsOf : Nat → Bytes → Cells
  | _, [] => []
  | a, b :: bs => if b = 0 then cellsOf (a + 1) bs else (a, b) :: cellsOf (a + 1) bs

/-- The entries below a key. -/
def cellsBelow (m : Cells) (a : Nat) : Cells := m.takeWhile fun c => decide (c.1 < a)

/-- The entries from a key upwards. -/
def cellsFrom (m : Cells) (a : Nat) : Cells := m.dropWhile fun c => decide (c.1 < a)

/-- Bytes laid from a key upwards. -/
def cellWrite (m : Cells) (a : Nat) (bs : Bytes) : Cells := cellsBelow m a ++ (cellsOf a bs ++ cellsFrom m (a + bs.length))

/-- Every key of [lo, lo + n) reads zero. -/
def cellZero (m : Cells) (lo n : Nat) : Cells := m.filter fun c => decide (c.1 < lo) || decide (lo + n ≤ c.1)

/-- `n` bytes copied from one place to another. -/
def cellCopy (m : Cells) (src dst n : Nat) : Cells :=
  let moved : Cells := m.filterMap fun c => if src ≤ c.1 ∧ c.1 < src + n then some (c.1 - src + dst, c.2) else none
  cellsBelow m dst ++ (moved ++ cellsFrom m (dst + n))

/-- Memory's canonical form. -/
def Memory.wf (m : Memory) : Bool := cellsWf m.cells

/-! ## Keys -/

/-- End of the HBM region (R113). -/
def hbmEnd : Nat := 0x00C0_0000_0000

/-- Start of the dump region, the top 1 GiB of H0 (R117). -/
def dumpBase : Nat := 0x000F_C000_0000

/-- Start of the workspace region (R81). -/
def wsBase : Nat := 0x0E00_0000_0000

/-- Bytes of one workspace (R81). -/
def wsBytes : Nat := 0x0080_0000

/-- Device address of byte `o` of workspace slot `c` (R81). -/
def wsAddr (c o : Nat) : Nat := wsBase + c * 0x0100_0000 + o

/-- Key of workspace byte `o` of the tasks of job `j` whose home core is `c` (R316). -/
def wsKey (j c o : Nat) : Nat := 2 ^ 52 * (j + 1) + wsAddr c o

/-- Distance from a key to the same byte in the other half of its epoch page (R149). -/
def halfShift : Nat := 2 ^ 62

/-! ## The 80/64 code -/

/-- What the code finds in the words that [a, a + n) touches: whether one is uncorrectable. -/
def Memory.bad (m : Memory) (a n : Nat) : Bool :=
  m.ecc.any fun e => e.2 && decide (a < 8 * e.1 + 8) && decide (8 * e.1 < a + n)

/-- The words of [a, a + n) that hold a correctable error. -/
def Memory.weak (m : Memory) (a n : Nat) : Nat :=
  (m.ecc.filter fun e => !e.2 && decide (a < 8 * e.1 + 8) && decide (8 * e.1 < a + n)).length

/-- A read has written corrected codewords back (R84, R115). -/
def Memory.corrected (m : Memory) (a n : Nat) : Memory :=
  { m with ecc := m.ecc.filter fun e => e.2 || !(decide (a < 8 * e.1 + 8) && decide (8 * e.1 < a + n)) }

/-- Whether [a, a + n) covers only part of a word that holds an uncorrectable error (R85). -/
def Memory.partlyBad (m : Memory) (a n : Nat) : Bool :=
  m.ecc.any fun e => e.2 && decide (a < 8 * e.1 + 8) && decide (8 * e.1 < a + n) &&
    !(decide (a ≤ 8 * e.1) && decide (8 * e.1 + 8 ≤ a + n))

/-- Bytes of [a, a + n) in the store. -/
def Memory.read (m : Memory) (a n : Nat) : Bytes := cellRead m.cells a n

/-- A write; whole words become valid codewords, corrected words too (R85). -/
def Memory.write (m : Memory) (a : Nat) (b : Bytes) : Memory :=
  { cells := cellWrite m.cells a b
    ecc := m.ecc.filter fun e => !(decide (a < 8 * e.1 + 8) && decide (8 * e.1 < a + b.length)) ||
      (e.2 && !(decide (a ≤ 8 * e.1) && decide (8 * e.1 + 8 ≤ a + b.length))) }

/-- Zeros with valid codewords (R83, R120). -/
def Memory.zero (m : Memory) (a n : Nat) : Memory :=
  { cells := cellZero m.cells a n
    ecc := m.ecc.filter fun e => decide (8 * e.1 + 8 ≤ a) || decide (a + n ≤ 8 * e.1) }

/-- Bytes copied with their codewords' state dropped (a fresh codeword is laid down). -/
def Memory.copy (m : Memory) (src dst n : Nat) : Memory :=
  { cells := cellCopy m.cells src dst n
    ecc := m.ecc.filter fun e => decide (8 * e.1 + 8 ≤ dst) || decide (dst + n ≤ 8 * e.1) }

end Sys2Proof.Machine
end

