-- ==== Sys2Proof/Machine/Ops.lean ====
section
/-! DEFINITION. The shared operations on the state: access to its parts, the error log, flash mirrors, patina, requests
to the adapter, replies, fabric messages, event lines, suspicion, the discard of an epoch and the fault stop of a job. -/

namespace Sys2Proof.Machine

/-- No command changes what is fused (R307, R394), and taking a command changes the queue only by removing it. -/
def State.keep (s t : State) : State := { t with ident := s.ident, pending := s.pending }

/-! ## Parts -/

/-- All ones in 64 bits. -/
def ones64 : Nat := 2 ^ 64 - 1

/-- Job context `j`. -/
def State.job (s : State) (j : Nat) : Job := s.jobs.getD j {}

/-- Job context `j` changed. -/
def State.setJob (s : State) (j : Nat) (f : Job → Job) : State := { s with jobs := s.jobs.modify j f }

/-- The training part of a job changed. -/
def State.setTrain (s : State) (j : Nat) (f : Training → Training) : State :=
  s.setJob j fun b => { b with train := f b.train }

/-- The inclusion part of a job changed. -/
def State.setStrag (s : State) (j : Nat) (f : Straggler → Straggler) : State :=
  s.setJob j fun b => { b with strag := f b.strag }

/-- The membership of a job changed, if it has one. -/
def State.setMember (s : State) (j : Nat) (f : Membership → Membership) : State :=
  s.setJob j fun b => { b with member := b.member.map f }

/-- The serving part of a job changed. -/
def State.setServing (s : State) (j : Nat) (f : Serving → Serving) : State :=
  s.setJob j fun b => { b with serving := f b.serving }

/-- The hinge of a job changed, if it has one. -/
def State.setHinge (s : State) (j : Nat) (f : Hinge → Hinge) : State :=
  s.setJob j fun b => { b with hinge := b.hinge.map f }

/-- A task. -/
def State.task (s : State) (t : TaskRef) : Option Task := (s.job t.job).tasks[t.task]?

/-- A task changed. -/
def State.setTask (s : State) (t : TaskRef) (f : Task → Task) : State :=
  s.setJob t.job fun b => { b with tasks := b.tasks.modify t.task f }

/-- Whether a channel is the one named (R430). -/
def Chan.named (c : Chan) (r : ChanRef) : Bool :=
  c.decl.die == r.die && c.owner == r.owner && c.decl.num == r.num

/-- The name of a channel of job `j`. -/
def Chan.ref (c : Chan) (j : Nat) : ChanRef := { job := j, die := c.decl.die, owner := c.owner, num := c.decl.num }

/-- A channel. -/
def State.chan (s : State) (r : ChanRef) : Option Chan := (s.job r.job).chans.find? fun c => c.named r

/-- A channel changed. -/
def State.setChan (s : State) (r : ChanRef) (f : Chan → Chan) : State :=
  s.setJob r.job fun b => { b with chans := b.chans.map fun (c : Chan) => if c.named r then f c else c }

/-- Core slot `c`. -/
def State.core (s : State) (c : Nat) : Core := s.cores.getD c {}

/-- Core slot `c` changed. -/
def State.setCore (s : State) (c : Nat) (f : Core → Core) : State := { s with cores := s.cores.modify c f }

/-- Die `d`. -/
def State.die (s : State) (d : Nat) : Die := s.dies.getD d {}

/-- Die `d` changed. -/
def State.setDie (s : State) (d : Nat) (f : Die → Die) : State := { s with dies := s.dies.modify d f }

/-- Port `p`. -/
def State.port (s : State) (p : Nat) : Port := s.fabric.ports.getD p {}

/-- The fabric changed. -/
def State.setFabric (s : State) (f : Fabric → Fabric) : State := { s with fabric := f s.fabric }

/-- Port `p` changed. -/
def State.setPort (s : State) (p : Nat) (f : Port → Port) : State :=
  s.setFabric fun x => { x with ports := x.ports.modify p f }

/-- The link layer of port `p` changed. -/
def State.setLink (s : State) (p : Nat) (f : Link → Link) : State := s.setPort p fun x => { x with link := f x.link }

/-- The counters of port `p` changed. -/
def State.setCount (s : State) (p : Nat) (f : PortCounters → PortCounters) : State :=
  s.setPort p fun x => { x with count := f x.count }

/-- The host interface changed. -/
def State.setHost (s : State) (f : HostIf → HostIf) : State := { s with host := f s.host }

/-- Queue `q`. -/
def State.ring (s : State) (q : Nat) : Ring := s.host.rings.getD q {}

/-- Queue `q` changed. -/
def State.setRing (s : State) (q : Nat) (f : Ring → Ring) : State :=
  s.setHost fun h => { h with rings := h.rings.modify q f }

/-- The keeper changed. -/
def State.setKeeper (s : State) (f : Keeper → Keeper) : State := { s with keeper := f s.keeper }

/-- Health changed. -/
def State.setHealth (s : State) (f : Health → Health) : State := { s with health := f s.health }

/-- Firmware changed. -/
def State.setFw (s : State) (f : Firmware → Firmware) : State := { s with fw := f s.fw }

/-- Power changed. -/
def State.setPower (s : State) (f : Power → Power) : State := { s with power := f s.power }

/-- Memory changed. -/
def State.setMem (s : State) (f : Memory → Memory) : State := { s with mem := f s.mem }

/-- Die of a core (R9). -/
def dieOf (core : Nat) : Nat := core / 48

/-- Saturating increment of a u32 counter (R211). -/
def sat32 (n : Nat) : Nat := min n 0xFFFFFFFF

/-- Saturating increment of a u16 counter (R376). -/
def sat16 (n : Nat) : Nat := min n 0xFFFF

/-- A core slot whose core exists and is enabled (R2). -/
def State.enabled (s : State) (c : Nat) : Bool := decide (c < Config.coreSlots) && !s.ident.disabled.contains c

/-- Nothing of the compute dies acts: a device reset is past its drain, or the dies are without power after a thermal trip, in
the held state or after POWER_OFF, or the module has none (R346, R349, R350, R356, R419). -/
def State.asleep (s : State) : Bool :=
  !s.power.input || s.keeper.tripped || s.keeper.held || s.keeper.off || s.keeper.resets.any fun x => x.domain.kind == 0 && x.stage != 1

/-- Switrak runs: its domain is in state 0 and its laser is on (R347, R356). -/
def State.switrakUp (s : State) : Bool := s.keeper.switrak == 0 && s.keeper.switrakLaser

/-- A core in service: enabled, its domain and its die's running or waking, not fenced off, not under test (R366, R369). -/
def State.inService (s : State) (c : Nat) : Bool :=
  s.enabled c && (s.core c).domain == 0 && ((s.die (dieOf c)).domain == 0 || (s.die (dieOf c)).domain == 4) && !(s.core c).fenced &&
    (s.core c).test != 3 && !s.asleep

/-- A number in `w` bits with bits set where the list says. -/
def maskOf (xs : List Nat) : Nat := xs.foldl (fun m i => m ||| 2 ^ i) 0

/-- The core indices set in a mask. -/
def coresOf (mask : Nat) : List Nat := (List.range Config.coreSlots).filter fun c => bitOf mask c

/-! ## Settings of a job (R180, R256, R277, R304, R323) -/

/-- A JOB_CONFIGURE block in force; empty when none has been given (R304). -/
def Job.block (b : Job) (type : Nat) : Bytes := ((b.settings.find? fun x => x.1 == type).map (·.2)).getD []

/-- The virtual width V (R160). -/
def Job.width (b : Job) : Nat := (b.bin.map (·.virtualWidth)).getD 0

/-- Class F (R271). -/
def Job.classF (b : Job) : Bool := (b.bin.map (·.classF)).getD false

/-- The quorum count (R160). -/
def Job.quorum (b : Job) : Nat :=
  let q := fieldN (b.block 1) 0 2
  if q = 0 then b.width else ceilDiv (b.width * q) 65536

/-- Shift on a non-finite skip (R180). -/
def Job.down (b : Job) : Nat := max 1 (fieldN (b.block 1) 2 1)

/-- Shift on a raise (R180). -/
def Job.up (b : Job) : Nat := max 1 (fieldN (b.block 1) 3 1)

/-- Clean limit (R180). -/
def Job.cleanLimit (b : Job) : Nat := let v := fieldN (b.block 1) 4 4; if v = 0 then 2000 else v

/-- NO_SPEC (R173). -/
def Job.noSpec (b : Job) : Bool := bitOf (fieldN (b.block 1) 9 1) 0

/-- Entries of the group table (R180). -/
def Job.groupCount (b : Job) : Nat := fieldN (b.block 1) 0xA 2

/-- Address of the group table (R180). -/
def Job.groupTable (b : Job) : Nat := fieldN (b.block 1) 0x10 8

/-- Straggler policy (R256). -/
def Job.policy (b : Job) : Nat := fieldN (b.block 2) 0 1

/-- LEDGER_OFF (R256). -/
def Job.ledgerOff (b : Job) : Bool := bitOf (fieldN (b.block 2) 1 1) 0

/-- REPLAY (R256). -/
def Job.replay (b : Job) : Bool := bitOf (fieldN (b.block 2) 1 1) 1

/-- DET_STRICT as the binary or the reproducibility block sets it (R277). -/
def Job.strict (b : Job) : Bool := (b.bin.map (·.detStrict)).getD false || bitOf (fieldN (b.block 3) 8 1) 0

/-- DET_STRICT with device-wide enforcement (R278). -/
def State.strict (s : State) (j : Nat) : Bool := (s.job j).strict || s.keeper.detEnforced

/-- log₂ of the sampling interval, 0 for off (R304). -/
def Job.sampling (b : Job) : Nat := fieldN (b.block 4) 0 1

/-- Slice in µs (R321, R323). -/
def Job.slice (b : Job) : Nat :=
  let us := fieldN (b.block 5) 0 4
  let w := fieldN (b.block 5) 4 1
  max 5000 (min 50000 ((if us = 0 then 20000 else us) * (if w = 0 then 16 else w) / 16))

/-- A job is loaded (R312). -/
def Job.loaded (b : Job) : Bool := b.state != 0 && b.state != 1

/-- The job's tasks are scheduled: it is RUNNING, or STOPPING while it waits for its verdict (R156, R312). -/
def Job.live (b : Job) : Bool := b.state == 3 || (b.state == 4 && b.train.openEpoch.isSome)

/-- A task's current core runs it. -/
def State.isRunning (s : State) (t : TaskRef) : Bool :=
  match s.task t with
  | some k => (s.core k.core).running == some t
  | none => false

/-- A task that can issue an instruction now: its job runs, it holds its core, it is not blocked, the core is awake and the dies act. -/
def State.canIssue (s : State) (t : TaskRef) : Bool :=
  match s.task t with
  | some k => (s.job t.job).live && s.isRunning t && k.block.isNone && (s.core k.core).idle != 2 && !s.asleep
  | none => false

/-! ## Error log and mirrors (R338 to R342) -/

/-- Starts a flash mirror of the ring (R340). -/
def Keeper.mirror (k : Keeper) : Keeper := { k with mirroring := some k.log }

/-- KP_EVENT with a bit set; the I3C port raises an in-band interrupt when ALERT_N falls (R358 to R360). -/
def Keeper.raise (k : Keeper) (bit : Nat) : Keeper :=
  { k with event := k.event ||| 2 ^ bit, i3cIbi := if k.event = 0 ∧ k.i3cAddr.isSome then k.i3cIbi + 1 else k.i3cIbi }

/-- The ring with an entry appended, the oldest overwritten when it is full (R338). -/
def Keeper.append (k : Keeper) (e : LogEntry) : Keeper :=
  let log := k.log ++ [e]
  let k := { k with log := if log.length > 32768 then log.drop 1 else log, logSeq := e.seq }
  let k := if e.cls ≥ 4 then k.raise 0 else k
  if e.cls ≥ 5 ∨ e.seq + 32768 ≥ k.reservation then k.mirror else k

/-- An error-log entry written (R338, R339). -/
def State.log (s : State) (code cls : Nat) (d : Domain) (job a0 a1 a2 : Nat) : State :=
  let step := if job < 64 ∧ (s.job job).loaded then (s.job job).train.step else ones64
  s.setKeeper fun k => k.append
    { seq := k.logSeq + 1, time := k.time, code := code, cls := cls, domain := d, job := job
      arg0 := a0, arg1 := a1, arg2 := a2, step := step }

/-- The device as a source domain. -/
def devDomain : Domain := { kind := 0, index := 0 }

/-- A core as a source domain. -/
def coreDomain (c : Nat) : Domain := { kind := 1, index := c }

/-- A die as a source domain. -/
def dieDomain (d : Nat) : Domain := { kind := 2, index := d }

/-- A fabric port as a source domain. -/
def portDomain (p : Nat) : Domain := { kind := 3, index := p }

/-- Corrected events counted for a domain (R342). -/
def Keeper.countCorrected (k : Keeper) (d : Domain) (w r t : Nat) : Keeper :=
  if k.corrected.any fun c => c.domain == d then
    { k with corrected := k.corrected.map fun (c : Corrected) => if c.domain == d then
        { c with words := c.words + w, retries := c.retries + r, retrains := c.retrains + t } else c }
  else { k with corrected := k.corrected ++ [{ domain := d, words := w, retries := r, retrains := t, last := none }] }

/-! ## Requests to the adapter (R101, R122) -/

/-- Whether [a, a + n) of host memory lies inside one adapter-granted window. -/
def HostIf.granted (h : HostIf) (a n : Nat) : Bool := h.windows.any fun w => decide (w.1 ≤ a) && decide (a + n ≤ w.1 + w.2)

/-- Start of the far-tier region (R118). -/
def farBase : Nat := 0x1000_0000_0000

/-- End of the far-tier region. -/
def farEnd : Nat := 0x2000_0000_0000

/-- Whether [a, a + n) is a far-tier device extent inside one granted window (R431). -/
def State.farOk (s : State) (a n : Nat) : Bool := decide (farBase ≤ a) && decide (a < farEnd) && s.host.granted (a - farBase) n

/-- A request put to the adapter. -/
def State.farPut (s : State) (addr : Nat) (data : Bytes) (length : Nat) (use : FarUse) : State :=
  s.setHost fun h => { h with
    far := h.far ++ [{ id := h.farNext, addr := addr, data := data, length := length, use := use }]
    farNext := h.farNext + 1 }

/-! ## Replies (R295 to R301) -/

/-- A command in progress. -/
def State.cmd (s : State) (r : CmdRef) : Option Cmd := (s.ring r.queue).cmds.find? fun c => c.ref == r && !c.ended

/-- Opcode of a command (R291). -/
def Cmd.opcode (c : Cmd) : Nat := fieldN c.header 0 2

/-- Class of a command. -/
def Cmd.cls (c : Cmd) : Nat := fieldN c.header 2 1

/-- Flags of a command. -/
def Cmd.flags (c : Cmd) : Nat := fieldN c.header 3 1

/-- Job field of a command. -/
def Cmd.job (c : Cmd) : Nat := fieldN c.header 6 2

/-- Reply address of a command. -/
def Cmd.replyAddr (c : Cmd) : Nat := fieldN c.header 0x10 8

/-- Parameter field of a command; missing bytes read zero (R292). -/
def Cmd.p (c : Cmd) (off n : Nat) : Nat := fieldN c.params off n

/-- The 32-byte reply of a command (R295). -/
def replyBytes (header : Bytes) (queue seq status detail value : Nat) : Bytes :=
  let b := layRecord 28 [(0, 2, status), (2, 2, fieldN header 0 2), (4, 2, fieldN header 4 2), (6, 2, fieldN header 6 2),
    (8, 4, seq), (0xC, 4, detail), (0x10, 8, value), (0x18, 2, queue)]
  b ++ toLe 4 (crc32c b).toNat

/-- A command leaves its queue and the reading order (R290, R301). -/
def State.dropCmd (s : State) (r : CmdRef) : State :=
  (s.setRing r.queue fun q => { q with cmds := q.cmds.filter fun c => !(c.ref == r) }).setHost
    fun h => { h with order := h.order.filter fun x => !(x == r) }

/-- A ward has refused an effect: its trip bit and at most one WARD_TRIP entry per ward and second (R391). -/
def State.wardTrip (s : State) (n : Nat) : State :=
  let last := (s.fw.tripTimes.find? fun x => x.1 == n).map (·.2)
  let recent := match last with
    | some t => decide (s.keeper.time < t + 1000000)
    | none => false
  let s := s.setFw fun f => { f with trips := f.trips ||| 2 ^ n }
  if recent then s
  else (s.setFw fun f => { f with tripTimes := (f.tripTimes.filter fun x => x.1 != n) ++ [(n, s.keeper.time)] }).log 0x0503 2 devDomain
    0xFFFF n 0 0

/-- REPLY_FAIL (R295), with the job of the command. -/
def State.replyFail (s : State) (job addr queue status : Nat) : State :=
  s.log 0x0103 2 { kind := 5, index := 0 } job addr queue status

/-- A reply that cannot be written: outside a granted window the host-window ward has refused it (R295, R390, R391). -/
def State.replyLost (s : State) (c : Cmd) (status : Nat) : State :=
  (if s.switrakUp then s.wardTrip 3 else s).replyFail c.job c.replyAddr c.ref.queue status

/-- A command ends with a status: its reply is begun when it has an address and its queue is not quiet; after a TIMEOUT
its end is logged instead (R288, R295, R300). -/
def State.reply (s : State) (r : CmdRef) (status detail value : Nat) : State :=
  match s.cmd r with
  | none => s
  | some c =>
    if c.timedOut then (s.log 0x0101 2 { kind := 5, index := 0 } c.job r.queue (fieldN c.header 4 2) status).dropCmd r
    else if c.replyAddr = 0 ∨ (s.ring r.queue).quiet then s.dropCmd r
    else
      let rep := replyBytes c.header r.queue r.sequence status detail value
      if !s.switrakUp || !s.host.granted c.replyAddr 32 then
        (s.replyLost c status).dropCmd r
      else
        ((s.setRing r.queue fun q => { q with cmds := q.cmds.map fun (x : Cmd) => if x.ref == r then { x with ended := true } else x }).setHost
          fun h => { h with order := h.order.filter fun x => !(x == r) }).farPut (c.replyAddr + 2) (rep.drop 2) 0
          (.replyBody r.queue (rep.take 2))

/-- Status codes (R297). -/
def stOk : Nat := 0x0000
def stBadOpcode : Nat := 0x0101
def stBadParam : Nat := 0x0102
def stZero : Nat := 0x0103
def stBadState : Nat := 0x0104
def stNoFit : Nat := 0x0105
def stNoResource : Nat := 0x0106
def stTimeout : Nat := 0x0201
def stFenced : Nat := 0x0202
def stAborted : Nat := 0x0203
def stUncorrectable : Nat := 0x0301
def stDiverged : Nat := 0x0302
def stAuthFail : Nat := 0x0401
def stWard : Nat := 0x0402
def stUnreachable : Nat := 0x0501
def stStale : Nat := 0x0502

/-! ## Messages (R194, R198, R204, R205) -/

/-- KIND of a route word (R204). -/
def routeKind (r : U64) : Nat := bitsOf r.toNat 62 2

/-- HOPS of a route word. -/
def routeHops (r : U64) : Nat := bitsOf r.toNat 45 12

/-- UP of a route word. -/
def routeUp (r : U64) : Nat := bitsOf r.toNat 41 4

/-- DOWN of a route word. -/
def routeDown (r : U64) : Nat := bitsOf r.toNat 37 4

/-- DIDX of a route word. -/
def routeIdx (r : U64) : Nat := bitsOf r.toNat 33 4

/-- DL of a route word. -/
def routeDl (r : U64) : Bool := bitOf r.toNat 57

/-- The route word with DL set. -/
def routeSetDl (r : U64) : U64 := r ||| BitVec.ofNat 64 (2 ^ 57)

/-- The ports of a ring or chain side: role 1 is port A, role 2 port B. -/
def Fabric.ringPort (f : Fabric) (kind ring role : Nat) : Option Nat :=
  (List.range 16).find? fun p =>
    let x := f.ports.getD p {}
    x.role == role && x.ring == ring && x.chain == (kind == 2)

/-- The parent port of a tree. -/
def Fabric.parentPort (f : Fabric) : Option Nat := (List.range 16).find? fun p => (f.ports.getD p {}).role == 3

/-- The port by which a tree message leaves, and the route word after the hop (R204). -/
def Fabric.treeOut (f : Fabric) (route down : U64) : Option (Nat × U64) :=
  if routeUp route > 0 then f.parentPort.map fun p => (p, route - BitVec.ofNat 64 (2 ^ 41))
  else if routeIdx route < routeDown route then
    let p := bitsOf down.toNat (4 * routeIdx route) 4
    if (f.ports.getD p {}).role = 4 then some (p, route + BitVec.ofNat 64 (2 ^ 33)) else none
  else none

/-- The port by which a message of this module leaves, and the route word after that (R204). -/
def Fabric.firstOut (f : Fabric) (route down : U64) : Option (Nat × U64) :=
  match routeKind route with
  | 1 | 2 =>
    let role := if bitOf route.toNat 58 then 2 else 1
    (f.ringPort (routeKind route) (bitsOf route.toNat 59 3) role).map fun p => (p, route)
  | 3 => f.treeOut route down
  | _ => none

/-- A message put in the queue of a port, in half 1 once it crosses or has crossed the dateline (R205). -/
def State.txPut (s : State) (p cls : Nat) (route : U64) (m : Msg) : State :=
  let dl := routeDl route || ((s.port p).dateline && decide (routeKind route = 1))
  let route := if dl then routeSetDl route else route
  s.setLink p fun l => { l with
    tx := l.tx ++ [{ vc := 2 * cls + (if dl then 1 else 0), msg := { m with hdr := { m.hdr with route := route } } }] }

/-- A message of this module sent by its route table's entry; none when no UP port leads there (R204). -/
def State.send (s : State) (cls : Nat) (m : Msg) : Option (Nat × State) :=
  match s.fabric.routes.find? fun r => r.device == m.hdr.dest with
  | none => none
  | some r =>
    match s.fabric.firstOut r.route r.down with
    | none => none
    | some (p, route) =>
      if (s.port p).state = 2 ∨ (s.port p).state = 3 then
        some (p, s.txPut p cls route { m with hdr := { m.hdr with downList := r.down, source := s.ident.device } })
      else none

/-- The membership epoch of a job, 0 when none is set (R310). -/
def Job.memberEpoch (b : Job) : Nat := (b.member.map (·.epoch)).getD 0

/-- A header without route. -/
def headerOf (s : State) (dest : U32) (opcode : Nat) (job tag address length : Nat) : Header :=
  { route := 0, downList := 0, dest := dest, source := s.ident.device, opcode := BitVec.ofNat 8 opcode, flags := 0
    epochStep := 0, tag := tag, reason := 0, address := BitVec.ofNat 64 address, length := length, job := job
    membership := (s.job job).memberEpoch }

/-- A CONTROL message sent (R247): kind, and the words of its body (their layout is the model's, log entry 17). An isolated member
sends nothing for its job but heartbeats (R252). -/
def State.control (s : State) (j : Nat) (dest : U32) (kind : Nat) (body : List Nat) : State :=
  if dest = s.ident.device ∨ (kind != 1 && (s.job j).member.any fun m => m.state == 3) then s
  else
    let content := (body.map (toLe 8)).flatten
    let h := headerOf s dest 0x20 j 0 (kind * 2 ^ 56) content.length
    match s.send 0 { hdr := h, content := content, bad := [] } with
    | some (_, s) => s
    | none => s

/-! ## The job tree (R238, R239) -/

/-- The coordinator. -/
def Membership.root (m : Membership) : Option U32 := (m.members.find? fun e => e.parent == e.device).map (·.device)

/-- The deputies. -/
def Membership.deputies (m : Membership) : List U32 := (m.members.filter fun e => e.deputy != 0).map (·.device)

/-- Children of a device. -/
def Membership.children (m : Membership) (d : U32) : List U32 :=
  (m.members.filter fun e => e.parent == d && e.device != d).map (·.device)

/-- Parent of a device, none for the root. -/
def Membership.parent (m : Membership) (d : U32) : Option U32 :=
  (m.members.find? fun e => e.device == d && e.parent != d).map (·.parent)

/-- What is known of a member changed. -/
def Membership.setInfo (m : Membership) (d : U32) (f : MemberInfo → MemberInfo) : Membership :=
  if m.infos.any fun i => i.device == d then { m with infos := m.infos.map fun (i : MemberInfo) => if i.device == d then f i else i }
  else { m with infos := m.infos ++ [f { device := d }] }

/-- Whether data messages of the job to a device are withheld: it leaves the membership, or this module is LEAVING (R245, R356). -/
def State.withheld (s : State) (j : Nat) (dest : U32) : Bool :=
  s.fabric.leaving || (s.job j).member.any fun m => m.proposal.any fun q => q.removed.contains dest

/-- Whether this module is the job's coordinator. -/
def State.isRoot (s : State) (j : Nat) : Bool :=
  match (s.job j).member with
  | some m => m.root == some s.ident.device
  | none => false

/-- A CONTROL message to every child in the tree (R248). -/
def State.toChildren (s : State) (j kind : Nat) (body : List Nat) : State :=
  match (s.job j).member with
  | some m => (m.children s.ident.device).foldl (fun s d => s.control j d kind body) s
  | none => s

/-- A suspicion reaches the coordinator or a deputy here (R243, R245, R269). -/
def State.noteSuspect (s : State) (j : Nat) (dev : U32) (reason : Nat) (owns : Bool) : State :=
  let root := s.isRoot j
  s.setMember j fun m =>
    if !(m.members.any fun e => e.device == dev) then m
    else if reason = 5 ∨ reason = 6 then
      let m := m.setInfo dev fun i => if reason = 5 then { i with worn := true } else { i with retire := true }
      if root then { m with drains := m.drains.filter (fun d => d.1 != dev) ++ [(dev, owns)] } else m
    else
      let m := m.setInfo dev fun i => { i with suspected := true }
      let m := { m with gather := if m.gather.contains dev then m.gather else m.gather ++ [dev] }
      if root ∨ (some dev = m.root ∧ m.suspects.contains dev) then { m with gathering := true } else m

/-- SUSPECT sent to the coordinator and to every deputy, at most once per device and epoch for the reasons that name
another device (R242, R243; log entry 18). -/
def State.suspect (s : State) (j : Nat) (dev : U32) (reason : Nat) (owns : Bool) : State :=
  match (s.job j).member with
  | none => s
  | some m =>
    let other := reason = 1 ∨ reason = 2 ∨ reason = 3 ∨ reason = 7
    if !(m.members.any fun e => e.device == dev) ∨ m.state = 3 ∨ m.state = 4 ∨ (other ∧ m.suspects.contains dev) then s
    else
      let s := s.setMember j fun m => { m with suspects := if other then m.suspects ++ [dev] else m.suspects }
      let targets := (m.root.toList ++ m.deputies).dedup
      let s := targets.foldl (fun s d => s.control j d 3 [dev.toNat, reason, if owns then 1 else 0]) s
      if targets.contains s.ident.device then s.noteSuspect j dev reason owns else s

/-- Every job suspects a device, for a link or transport reason (R242). -/
def State.suspectAll (s : State) (dev : U32) (reason : Nat) : State :=
  (List.range 64).foldl (fun s j => s.suspect j dev reason false) s

/-! ## Patina (R373 to R375, R268) -/

/-- Whether this module owns a piece in some collective context of the job (R269). -/
def Job.ownsPiece (b : Job) (dev : U32) : Bool :=
  b.colls.any fun c => c.decl.pieces.any fun p => p.count != 0 && (c.decl.members[p.member]?.map (·.device)) == some dev

/-- The flash copy of health written (R368). -/
def State.flashCopy (s : State) : State :=
  s.setHealth fun h => { h with flash :=
    { acc := h.acc, retire := h.retire, worn := h.worn, cores := s.cores.map fun (c : Core) => (c.fenced, c.delay, c.volt) } }

/-- Notices of a worn or retiring module to the coordinator of each job (R268). -/
def State.wornNotice (s : State) (reason : Nat) : State :=
  (List.range 64).foldl (fun s j => s.suspect j s.ident.device reason ((s.job j).ownsPiece s.ident.device)) s

/-- Weight added to the accumulator, in units of 1/1,024 point, with the flags of R375. -/
def State.patina (s : State) (units : Nat) : State :=
  let acc := min (s.health.acc + units) 1048575
  let worn := !s.health.worn && decide (acc / 1024 ≥ 600)
  let retire := !s.health.retire && decide (acc / 1024 ≥ 900)
  let s := s.setHealth fun h => { h with acc := acc, worn := h.worn || worn, retire := h.retire || retire }
  let s := if worn then s.wornNotice 5 else s
  if retire then s.flashCopy.wornNotice 6 else s

/-- Corrected words of a domain: 1/64 point each (R84, R115, R373). -/
def State.correctedWords (s : State) (d : Domain) (n : Nat) : State :=
  if n = 0 then s
  else ((s.setHealth fun h => { h with corrected := h.corrected + n }).setKeeper fun k => k.countCorrected d n 0 0).patina (16 * n)

/-- Domain of a key of memory: HBM belongs to the die beside its stack, workspace to its core (R342). -/
def keyDomain (key : Nat) : Domain :=
  let k := key % 2 ^ 52
  if k < hbmEnd then dieDomain (k / 0x10_0000_0000 / 3) else coreDomain ((k - wsBase) / 0x100_0000 % 192)

/-- Bytes read at a key, corrected words delivered, written back and counted; none at an uncorrectable word (R84, R115). -/
def State.readKey (s : State) (key n : Nat) : Option (Bytes × State) :=
  if s.mem.bad key n then none
  else
    let w := s.mem.weak key n
    let b := s.mem.read key n
    if w = 0 then some (b, s) else some (b, (s.setMem fun m => m.corrected key n).correctedWords (keyDomain key) w)

/-- Bytes written at a key; none when a part of an uncorrectable word would be written (R85). -/
def State.writeKey (s : State) (key : Nat) (b : Bytes) : Option State :=
  if b.isEmpty then some s
  else if s.mem.partlyBad key b.length then none else some (s.setMem fun m => m.write key b)

/-! ## Event lines (R99 to R101) -/

/-- The physical line of a job-relative one (R100). -/
def Job.line (b : Job) (die rel : Nat) : Option Nat := (b.lines[die]?).bind fun l => l[rel]?

/-- The end of a loop body reached: the next iteration, or the enclosing loop's turn (R96). -/
def loopBack : List Loop → Nat → List Loop × Nat
  | [], pc => ([], pc)
  | l :: ls, pc =>
    if pc = l.stop then
      if l.index + 1 < l.count then ({ l with index := l.index + 1 } :: ls, l.start) else loopBack ls pc
    else (l :: ls, pc)

/-- A channel goes on after its instruction, at an address (R96). -/
def Chan.goTo (c : Chan) (pc : Nat) : Chan :=
  let r := loopBack c.loops pc
  { c with loops := r.1, pc := r.2, issued := false, remote := [], wrote := false }

/-- A channel goes on after its 32-byte instruction. -/
def Chan.advance (c : Chan) : Chan := c.goTo (c.pc + 32)

/-- The wait at the head of a line has been served (R99). -/
def State.served (s : State) : WaitAgent → State
  | .chan c => s.setChan c fun x =>
    if x.state = 2 then { x.advance with state := 1 }
    else if x.state = 4 ∧ x.savedState = 2 then { x.advance with savedState := 1 } else x
  | .task t => s.setTask t fun x => { x with block := none }

/-- Serves waiters from the head while the counter suffices; no waiter overtakes another (R99). -/
def State.serve : Nat → State → Nat → Nat → State
  | 0, s, _, _ => s
  | n + 1, s, d, l =>
    let e := (s.die d).lines.getD l {}
    match e.waiters with
    | [] => s
    | w :: ws =>
      if w.count ≤ e.count then
        let s := s.setDie d fun x => { x with lines := x.lines.set l { count := e.count - w.count, waiters := ws } }
        State.serve n (s.served w.agent) d l
      else s

/-- Adds pulses one at a time, the head of the line served after each (R99); answers how many were lost. -/
def State.pulses : Nat → State → Nat → Nat → State × Nat
  | 0, s, _, _ => (s, 0)
  | n + 1, s, d, l =>
    let e := (s.die d).lines.getD l {}
    if e.count ≥ 65535 then
      let r := State.pulses n s d l
      (r.1, r.2 + 1)
    else
      let s := s.setDie d fun x => { x with lines := x.lines.set l { e with count := e.count + 1 } }
      State.pulses n (State.serve e.waiters.length s d l) d l

/-- Pulses on a job-relative line of a die; an overflow is logged once (R99, R100; log entry 19). -/
def State.pulse (s : State) (j d rel n : Nat) : State :=
  match (s.job j).line d rel with
  | none => s
  | some l =>
    let r := State.pulses n s d l
    if r.2 = 0 then r.1 else r.1.log 0x0203 3 (dieDomain d) j rel 0 0

/-- A waiter joins a line behind the others, and the head is served (R99). -/
def State.joinLine (s : State) (d l count : Nat) (a : WaitAgent) : State :=
  let e := (s.die d).lines.getD l {}
  let s := s.setDie d fun x => { x with lines := x.lines.set l { e with waiters := e.waiters ++ [{ agent := a, count := count }] } }
  State.serve (e.waiters.length + 1) s d l

/-- Waiters of a job whose saved state is discarded leave their lines, and those behind them are served (R99). -/
def State.leaveLines (s : State) (gone : WaitAgent → Bool) : State :=
  (List.range 4).foldl (fun s d =>
    (List.range 256).foldl (fun s l =>
      let e := (s.die d).lines.getD l {}
      if e.waiters.any fun w => gone w.agent then
        let ws := e.waiters.filter fun w => !gone w.agent
        State.serve ws.length (s.setDie d fun x => { x with lines := x.lines.set l { e with waiters := ws } }) d l
      else s) s) s

/-! ## The shadow (R311) -/

/-- Nerur updates the shadow: its age returns to zero (R311; log entry 20). -/
def State.touchShadow (s : State) : State :=
  if s.keeper.management = 0 then s.setKeeper fun k => { k with shadowAge := 0, stallLogged := false } else s

/-- A job enters a state (R312), the shadow with it. -/
def State.enter (s : State) (j st : Nat) : State := (s.setJob j fun b => { b with state := st }).touchShadow

/-! ## Tasks, channels and the epoch -/

/-- A channel stopped exactly (R111). -/
def Chan.save (c : Chan) : Chan :=
  if c.state = 1 ∨ c.state = 2 then { c with state := 4, savedState := c.state } else c

/-- A saved channel resumed (R111). -/
def Chan.resume (c : Chan) : Chan := if c.state = 4 then { c with state := c.savedState } else c

/-- Whether an agent is of the job. -/
def WaitAgent.ofJob (j : Nat) : WaitAgent → Bool
  | .chan c => c.job == j
  | .task t => t.job == j

/-- The tasks of a job leave their cores, saved in their task slots (R317). -/
def State.offCores (s : State) (j : Nat) : State :=
  let mine := fun (t : TaskRef) => t.job == j
  let s := { s with cores := s.cores.map fun (c : Core) => { c with
    running := c.running.filter fun t => !mine t
    readyLc := c.readyLc.filter fun t => !mine t
    readyBe := c.readyBe.filter fun t => !mine t } }
  s.setJob j fun b => { b with tasks := b.tasks.map fun (t : Task) => { t with inSlot := true } }

/-- The channel's home core's or core's task number. -/
def Chan.homeTask (c : Chan) (b : Job) : Option Task :=
  if c.decl.die then b.tasks.find? fun t => t.home == c.home else b.tasks[c.owner]?

end Sys2Proof.Machine
end

