-- ==== Sys2Proof/Machine/Operands.lean ====
section
/-! DEFINITION. Operand forms: instruction words and descriptors (R57, R65, R90, R96, R98, R129, R164, R217), the device
address map (R81, R82, R113 to R122, R135, R316) and accesses by committed and by provisional work (R148 to R151). -/

namespace Sys2Proof.Machine

/-! ## Words -/

/-- An array instruction word (R57). -/
structure ArrayWord where
  op : Nat
  unit : Nat
  aFmt : Nat
  bFmt : Nat
  total : Nat
  shape : Nat
  flags : Nat
  slot : Nat
  kCount : Nat
  acc : Nat
  line : Nat
  aAddr : Nat
  bAddr : Nat
  outAddr : Nat
  aPitch : Nat
  bPitch : Nat
  deriving DecidableEq, Repr

/-- The fields of R57. -/
def ArrayWord.ofBytes (b : Bytes) : ArrayWord :=
  { op := fieldN b 0 1, unit := fieldN b 1 1, aFmt := fieldN b 2 1, bFmt := fieldN b 3 1, total := fieldN b 4 1
    shape := fieldN b 5 1, flags := fieldN b 6 1, slot := fieldN b 7 1, kCount := fieldN b 8 4, acc := fieldN b 0xC 1
    line := fieldN b 0xD 1, aAddr := fieldN b 0x10 4, bAddr := fieldN b 0x14 4, outAddr := fieldN b 0x18 4
    aPitch := fieldN b 0x1C 2, bPitch := fieldN b 0x1E 2 }

/-- Rows m of a shape byte (R57). -/
def shapeM (shape : Nat) : Nat := 16 * 2 ^ (shape % 4)

/-- Columns n of a shape byte (R57). -/
def shapeN (shape : Nat) : Nat := 64 * 2 ^ (shape / 4 % 4)

/-- OPEN, CLOSE and SIGNAL. -/
def ArrayWord.opens (w : ArrayWord) : Bool := bitOf w.flags 0
def ArrayWord.closes (w : ArrayWord) : Bool := bitOf w.flags 1
def ArrayWord.signals (w : ArrayWord) : Bool := bitOf w.flags 2

/-- The wide total. -/
def ArrayWord.wide (w : ArrayWord) : Bool := w.total == 1

/-- The format of a total (R49). -/
def totalFmt (wide : Bool) : Fmt := if wide then .fp64 else .fp32

/-- An operand pair of R42. -/
def pairOk : Fmt → Fmt → Bool
  | .bf16, .bf16 | .fp16, .fp16 | .e4m3, .e4m3 | .e4m3, .e5m2 | .e5m2, .e4m3 | .e5m2, .e5m2 => true
  | _, _ => false

/-- The operand formats of a word, when they form a pair of R42. -/
def ArrayWord.pair (w : ArrayWord) : Option (Fmt × Fmt) :=
  match Fmt.ofCode w.aFmt, Fmt.ofCode w.bFmt with
  | some a, some b => if pairOk a b then some (a, b) else none
  | _, _ => none

/-- Bytes of one operand element. -/
def Fmt.size (f : Fmt) : Nat := f.width / 8

/-- Distance between rows of A in bytes (R57). -/
def ArrayWord.rowA (w : ArrayWord) (f : Fmt) : Nat := if w.aPitch = 0 then roundUp (w.kCount * f.size) 16 else 16 * w.aPitch

/-- Distance between rows of B in bytes (R57). -/
def ArrayWord.rowB (w : ArrayWord) (f : Fmt) : Nat := if w.bPitch = 0 then shapeN w.shape * f.size else 16 * w.bPitch

/-- A vector instruction word (R65). -/
structure VecWord where
  op : Nat
  fmt : Nat
  dst : Nat
  a : Nat
  b : Nat
  c : Nat
  flags : Nat
  line : Nat
  count : Nat
  imm : Nat
  addr : Nat
  stride : Nat
  aux : Nat
  deriving DecidableEq, Repr

/-- The fields of R65. -/
def VecWord.ofBytes (b : Bytes) : VecWord :=
  { op := fieldN b 0 1, fmt := fieldN b 1 1, dst := fieldN b 2 1, a := fieldN b 3 1, b := fieldN b 4 1
    c := fieldN b 5 1, flags := fieldN b 6 1, line := fieldN b 7 1, count := fieldN b 8 4, imm := fieldN b 0xC 4
    addr := fieldN b 0x10 4, stride := fieldN b 0x14 4, aux := fieldN b 0x18 8 }

/-- Elements of a format in one register (R65). -/
def perReg (f : Fmt) : Nat := if f = .fp64 then 256 else 512 * (32 / f.width)

/-- A MOVE (R90). -/
structure MoveWord where
  stride3 : Int
  stride2 : Int
  stride1 : Int
  count3 : Nat
  count2 : Nat
  count1 : Nat
  conv : Nat
  dst : Nat
  src : Nat
  length : Nat
  strideDst : Bool
  deriving DecidableEq, Repr

/-- The fields of R90 in a 256-bit number. -/
def MoveWord.ofNat (v : Nat) : MoveWord :=
  { stride3 := signedOf (bitsOf v 234 20) 20, stride2 := signedOf (bitsOf v 214 20) 20
    stride1 := signedOf (bitsOf v 194 20) 20, count3 := bitsOf v 183 11, count2 := bitsOf v 172 11
    count1 := bitsOf v 161 11, conv := bitsOf v 144 17, dst := bitsOf v 92 52, src := bitsOf v 40 52
    length := bitsOf v 16 24, strideDst := bitOf v 8 }

/-- An empty MOVE (R92). -/
def MoveWord.empty (w : MoveWord) : Bool := w.length == 0 || w.count1 == 0 || w.count2 == 0 || w.count3 == 0

/-- Whether a 32-byte instruction breaks R89: a reserved opcode or a non-zero reserved field. -/
def dmaBad (b : Bytes) : Bool :=
  match fieldN b 0 1 with
  | 0 => !allZero b
  | 1 => bitsOf (leNat b) 9 7 != 0
  | 2 => fieldN b 1 1 != 0 || fieldN b 0x18 8 != 0
  | 3 => fieldN b 1 1 != 0 || fieldN b 3 1 != 0 || !allZero (b.drop 6)
  | 4 => fieldN b 1 1 != 0 || !(fieldN b 3 1 == 0 || decide (4 ≤ fieldN b 3 1) && decide (fieldN b 3 1 ≤ 7)) || !allZero (b.drop 6)
  | _ => true

/-- An update descriptor (R129) or an optimiser descriptor (R164) in one form. -/
structure OptDesc where
  master : Nat
  m1 : Nat
  m2 : Nat
  grad : Nat
  work : Nat
  base : Nat
  count : Nat
  group : Nat
  workFmt : Nat
  /-- bit 0 reads moments as FP32, bit 1 writes them as FP32 -/
  forms : Nat
  signal : Bool
  line : Nat
  /-- a reserved bit or field is non-zero -/
  reserved : Bool
  deriving DecidableEq, Repr

/-- The fields of R129. -/
def OptDesc.ofUpdate (b : Bytes) : OptDesc :=
  { master := fieldN b 0 8, m1 := fieldN b 8 8, m2 := fieldN b 0x10 8, grad := fieldN b 0x18 8, work := fieldN b 0x20 8
    base := fieldN b 0x28 8, count := fieldN b 0x30 4, group := fieldN b 0x34 2, workFmt := fieldN b 0x36 1, forms := 3
    signal := bitOf (fieldN b 0x37 1) 0, line := fieldN b 0x38 1
    reserved := decide (fieldN b 0x37 1 > 1) || fieldN b 0x39 7 != 0 }

/-- The fields of R164. -/
def OptDesc.ofOpt (b : Bytes) : OptDesc :=
  { master := fieldN b 0 4, m1 := fieldN b 4 4, m2 := fieldN b 8 4, grad := fieldN b 0xC 4, work := fieldN b 0x10 4
    base := fieldN b 0x18 8, count := fieldN b 0x14 4, group := fieldN b 0x20 2, workFmt := fieldN b 0x22 1
    forms := fieldN b 0x23 1, signal := bitOf (fieldN b 0x24 1) 0, line := fieldN b 0x25 1
    reserved := decide (fieldN b 0x23 1 > 3) || decide (fieldN b 0x24 1 > 1) || !allZero (sliceZ b 0x26 26) }

/-- A working format that a descriptor may name; none is refused (R129, R164). -/
def OptDesc.workOk (d : OptDesc) : Bool :=
  decide (d.workFmt = 0) || [0x02, 0x04, 0x03, 0x05, 0x06].contains d.workFmt

/-- A collective call (R217). -/
structure CollCall where
  collective : Nat
  flags : Nat
  line : Nat
  rows : Nat
  src : Nat
  dst : Nat
  counts : Nat
  deriving DecidableEq, Repr

/-- The fields of R217. -/
def CollCall.ofBytes (b : Bytes) : CollCall :=
  { collective := fieldN b 0 2, flags := fieldN b 2 1, line := fieldN b 3 1, rows := fieldN b 4 4, src := fieldN b 8 8
    dst := fieldN b 0x10 8, counts := fieldN b 0x18 8 }

/-! ## The device address map -/

/-- Where a device address leads, or the cause of its bus error (R103, R118). -/
inductive Target where
  | mem (key : Nat)
  | far (host : Nat)
  | peer (dev : U32) (addr : Nat)
  | err (cause : Nat)
  deriving DecidableEq, Repr

/-- Bytes of a block (R120). -/
def blockBytes : Nat := 0x1000_0000

/-- The grant of a job that holds an HBM address. -/
def Job.grantAt (b : Job) (a : Nat) : Option Grant :=
  b.grants.find? fun g => decide (g.addr ≤ a) && decide (a < g.addr + g.decl.blocks * blockBytes)

/-- Byte `v` of a weight slot, its regions taken in number order (R134, R135). -/
def slotByte : List Grant → Nat → Option Nat
  | [], _ => none
  | g :: gs, v => if v < g.decl.blocks * blockBytes then some (g.addr + v) else slotByte gs (v - g.decl.blocks * blockBytes)

/-- The regions of a weight slot. -/
def Job.slotRegions (b : Job) (slot : Nat) : List Grant :=
  b.grants.filter fun g => g.decl.role == (if slot = 0 then RegionRole.slot0 else RegionRole.slot1)

/-- Die beside an HBM address (R8, R113). -/
def hbmDie (a : Nat) : Nat := a / 0x10_0000_0000 / 3

/-- HBM as a job reaches it (R117, R121); FENCED while its die is fenced or in reset. -/
def State.resolveHbm (s : State) (j a : Nat) : Target :=
  if dumpBase ≤ a ∧ a < 0x10_0000_0000 then .err 2
  else match (s.job j).grantAt a with
    | none => .err 2
    | some _ => if (s.die (hbmDie a)).domain = 0 ∨ (s.die (hbmDie a)).domain = 4 then .mem a else .err 4

/-- Bytes of workspace that a job's tasks hold at a home core (R82, R316; log entry 21). -/
def Job.wsGrant (b : Job) (home : Nat) : Nat :=
  (b.tasks.filter fun t => t.home == home).foldl (fun n t => n + 1024 * t.decl.workspaceKib) 0

/-- A core whose domain, or whose die's domain, is fenced or in reset (R81). -/
def State.coreFenced (s : State) (c : Nat) : Bool :=
  !((s.core c).domain == 0 && ((s.die (dieOf c)).domain == 0 || (s.die (dieOf c)).domain == 4))

/-- Workspace as a job reaches it (R81, R82, R316). -/
def State.resolveWs (s : State) (j a : Nat) : Target :=
  let c := (a - wsBase) / 0x0100_0000
  let o := (a - wsBase) % 0x0100_0000
  if o ≥ wsBytes ∨ !s.enabled c then .err 1
  else match (s.job j).tasks.find? fun t => t.home == c with
    | none => .err 2
    | some t =>
      if o ≥ (s.job j).wsGrant c then .err 2
      else if (if t.inSlot then !((s.die (hbmDie t.slotAddr)).domain == 0 || (s.die (hbmDie t.slotAddr)).domain == 4)
          else s.coreFenced t.core) then .err 4
      else .mem (wsKey j c o)

/-- A peer window address (R119). -/
def State.resolvePeer (s : State) (j a : Nat) : Target :=
  let w := (a - farEnd) / 0x0100_0000_0000
  let o := (a - farEnd) % 0x0100_0000_0000
  let addr : Option Nat :=
    if o < hbmEnd then some o
    else
      let c := (o - hbmEnd) / 0x0100_0000
      let b := (o - hbmEnd) % 0x0100_0000
      if c < Config.coreSlots ∧ b < wsBytes then some (wsAddr c b) else none
  match addr with
  | none => .err 1
  | some addr =>
    match (s.job j).bindings.find? fun x => x.kind == 1 && x.first == w with
    | none => .err 2
    | some x => .peer x.device addr

/-- The device address map as a job's DMA access meets it (R118). -/
def State.resolve (s : State) (j : Nat) (write : Bool) (a : Nat) : Target :=
  if a < hbmEnd then s.resolveHbm j a
  else if 0x0D00_0000_0000 ≤ a ∧ a < 0x0D80_0000_0000 then
    match (s.job j).hinge with
    | none => .err 1
    | some h =>
      if write then .err 2
      else if a - 0x0D00_0000_0000 ≥ h.slotBytes then .err 1
      else match slotByte ((s.job j).slotRegions h.view) (a - 0x0D00_0000_0000) with
        | some k => .mem k
        | none => .err 1
  else if wsBase ≤ a ∧ a < 0x0E00_C000_0000 then s.resolveWs j a
  else if farBase ≤ a ∧ a < farEnd then
    if (s.job j).bindings.any fun x => x.kind == 2 && decide (x.first ≤ a) && decide (a < x.first + x.size) then
      (if s.host.granted (a - farBase) 1 then (if s.switrakUp then .far (a - farBase) else .err 4) else .err 2)
    else .err 2
  else if farEnd ≤ a ∧ a < 2 ^ 52 then s.resolvePeer j a
  else .err 1

/-- An access to [a, a + n), n positive and inside one 64-byte line: both ends must lead the same way. -/
def State.resolveSpan (s : State) (j : Nat) (write : Bool) (a n : Nat) : Target :=
  match s.resolve j write a, s.resolve j write (a + n - 1) with
  | .err c, _ => .err c
  | _, .err c => .err c
  | t, _ => t

/-! ## Epoch regions and tagged lines (R149 to R151) -/

/-- Whether a key lies in an epoch region of the job. -/
def Job.inEpoch (b : Job) (key : Nat) : Bool :=
  if key < 2 ^ 52 then
    b.grants.any fun g => g.decl.role == .epoch && decide (g.addr ≤ key) && decide (key < g.addr + g.decl.blocks * blockBytes)
  else
    let a := key % 2 ^ 52 - wsBase
    let c := a / 0x0100_0000
    let o := a % 0x0100_0000
    b.tasks.any fun t => t.home == c && t.decl.epochWorkspace.any fun r => decide (r.1 ≤ o) && decide (o < r.1 + r.2)

/-- The key of the half that work reads (R150). -/
def Job.readHalf (b : Job) (prov : Bool) (key : Nat) : Nat :=
  if b.inEpoch key then
    let p := key / 4096
    let second := b.train.owner.contains p != (prov && b.train.dirty.contains p)
    if second then key + halfShift else key
  else key

/-- Whether committed work must wait to read this key: its line's tag P is set (R151). -/
def Job.readWaits (b : Job) (prov : Bool) (key n : Nat) : Bool :=
  !prov && b.train.tagged.any fun l => decide (64 * l < key + n) && decide (key < 64 * l + 64)

/-- Whether a key is workspace. -/
def isWs (key : Nat) : Bool := decide (2 ^ 52 ≤ key)

/-- Whether a write must wait for the verdict: provisional work outside epoch regions in HBM, or committed work to a dirty
page (R150, R151). -/
def Job.writeWaits (b : Job) (prov : Bool) (key : Nat) : Bool :=
  if b.inEpoch key then !prov && b.train.dirty.contains (key / 4096) else prov && !isWs key

/-- The lines that [key, key + n) touches. -/
def linesOf (key n : Nat) : List Nat := if n = 0 then [] else (List.range ((key + n - 1) / 64 - key / 64 + 1)).map fun i => key / 64 + i

/-- The page of [key, key + n) made dirty, its committed half copied across unless the whole page is written (R150). -/
def State.openPage (s : State) (j key n : Nat) : State :=
  let b := s.job j
  let p := key / 4096
  if b.train.dirty.contains p then s
  else
    let own := if b.train.owner.contains p then halfShift else 0
    let other := if b.train.owner.contains p then 0 else halfShift
    let s := if n = 4096 then s else s.setMem fun m => m.copy (4096 * p + own) (4096 * p + other) 4096
    s.setTrain j fun t => { t with dirty := t.dirty ++ [p] }

/-- The key of the half that a write lands in (R150). -/
def Job.writeHalf (b : Job) (prov : Bool) (key : Nat) : Nat :=
  if b.inEpoch key then
    let second := b.train.owner.contains (key / 4096) != prov
    if second then key + halfShift else key
  else key

/-- A program's write leaves the FORM bit of a group entry as it is (R168). -/
def State.keepForm (s : State) (j : Nat) (prov : Bool) (key : Nat) (bs : Bytes) : Bytes :=
  let b := s.job j
  let t := b.groupTable
  if b.groupCount = 0 ∨ key + bs.length ≤ t ∨ t + 32 * b.groupCount ≤ key then bs
  else bs.mapIdx fun i v =>
    if t ≤ key + i ∧ key + i < t + 32 * b.groupCount ∧ (key + i - t) % 32 = 7 then
      let old := cellGet s.mem.cells (b.readHalf prov (key + i))
      (v &&& 0xFB#8) ||| (old &&& 0x04#8)
    else v

/-- What an access by an agent of a job answers. -/
inductive Got where
  | ok (b : Bytes) (s : State)
  | wait
  | err (cause : Nat)
  | far (host : Nat)
  | peer (dev : U32) (addr : Nat)
  deriving Repr

/-- Reads at a key for committed or provisional work; the key's bytes lie in one page. -/
def State.readAs (s : State) (j : Nat) (prov : Bool) (key n : Nat) : Got :=
  if (s.job j).readWaits prov key n then .wait
  else match s.readKey ((s.job j).readHalf prov key) n with
    | some (b, s) => .ok b s
    | none => .err 3

/-- Writes at a key for committed or provisional work; the key's bytes lie in one page. -/
def State.writeAs (s : State) (j : Nat) (prov : Bool) (key : Nat) (bs : Bytes) : Got :=
  let b := s.job j
  if b.writeWaits prov key then .wait
  else
    let bs := s.keepForm j prov key bs
    let s := if b.inEpoch key && prov then s.openPage j key bs.length else s
    match s.writeKey (b.writeHalf prov key) bs with
    | none => .err 3
    | some s =>
      if isWs key && !b.inEpoch key then
        .ok [] (s.setTrain j fun t =>
          if prov then { t with tagged := (t.tagged ++ linesOf key bs.length).dedup }
          else { t with tagged := t.tagged.filter fun l => !(linesOf key bs.length).contains l })
      else .ok [] s

/-- The narrow and full accesses of a contiguous stretch (R95): address and bytes; `fuel` at least the bytes. -/
def funnel : Nat → Nat → Nat → List (Nat × Nat)
  | 0, _, _ => []
  | fuel + 1, a, n => if n = 0 then [] else
    let k := min n (64 - a % 64)
    (a, k) :: funnel fuel (a + k) (n - k)

/-- A DMA-side read of one access (R118). -/
def State.dmaRead (s : State) (j : Nat) (prov : Bool) (a n : Nat) : Got :=
  match s.resolveSpan j false a n with
  | .err c => .err c
  | .far h => .far h
  | .peer d x => .peer d x
  | .mem key => s.readAs j prov key n

/-- A DMA-side write of one access (R118). -/
def State.dmaWrite (s : State) (j : Nat) (prov : Bool) (a : Nat) (bs : Bytes) : Got :=
  match s.resolveSpan j true a bs.length with
  | .err c => .err c
  | .far h => .far h
  | .peer d x => .peer d x
  | .mem key => s.writeAs j prov key bs

/-- Reads a contiguous stretch of memory, access by access; stops at the first access that does not give bytes. -/
def State.dmaReadAll (s : State) (j : Nat) (prov : Bool) : List (Nat × Nat) → Bytes → Got
  | [], acc => .ok acc s
  | (a, n) :: r, acc =>
    match s.dmaRead j prov a n with
    | .ok b s => State.dmaReadAll s j prov r (acc ++ b)
    | .far h => .far h
    | .peer d x => .peer d x
    | .wait => .wait
    | .err c => .err c

/-- Writes a contiguous stretch of memory, access by access. -/
def State.dmaWriteAll (s : State) (j : Nat) (prov : Bool) : List (Nat × Nat) → Bytes → Got
  | [], _ => .ok [] s
  | (a, n) :: r, bs =>
    match s.dmaWrite j prov a (bs.take n) with
    | .ok _ s => State.dmaWriteAll s j prov r (bs.drop n)
    | .far h => .far h
    | .peer d x => .peer d x
    | .wait => .wait
    | .err c => .err c

/-- A stretch of device addresses that must lie in memory, read for a job (tables, descriptors, collective data). -/
def State.readDev (s : State) (j : Nat) (prov : Bool) (a n : Nat) : Got := s.dmaReadAll j prov (funnel n a n) []

/-- A stretch of device addresses that must lie in memory, written for a job. -/
def State.writeDev (s : State) (j : Nat) (prov : Bool) (a : Nat) (bs : Bytes) : Got :=
  s.dmaWriteAll j prov (funnel bs.length a bs.length) bs

/-- A stretch of a task's workspace read by its core's units (R82). -/
def State.readWs (s : State) (t : TaskRef) (k : Task) (o n : Nat) : Got :=
  if o + n > wsBytes then .err 1
  else
    (funnel n o n).foldl (fun g x => match g with
      | .ok acc s => match s.readAs t.job k.prov (wsKey t.job k.home x.1) x.2 with
        | .ok b s => .ok (acc ++ b) s
        | g => g
      | g => g) (.ok [] s)

/-- A stretch of a task's workspace written by its core's units (R82). -/
def State.writeWs (s : State) (t : TaskRef) (k : Task) (o : Nat) (bs : Bytes) : Got :=
  if o + bs.length > wsBytes then .err 1
  else
    (funnel bs.length o bs.length).foldl (fun g x => match g with
      | .ok _ s => s.writeAs t.job k.prov (wsKey t.job k.home x.1) ((bs.drop (x.1 - o)).take x.2)
      | g => g) (.ok [] s)

end Sys2Proof.Machine
end

