-- ==== Sys2Proof/Machine/Opening.lean ====
section
/-! DEFINITION. The group table and the opening of an epoch (R146, R147, R168, R169, R172). -/

namespace Sys2Proof.Machine

/-! ## Group table (R168) -/

/-- A group table entry. -/
structure Group where
  lrMant : Nat
  lrExp : Int
  stochastic : Bool
  path : Nat
  flags : Nat
  beta1 : Nat
  beta2 : Nat
  eps : Nat
  decay : Nat
  limit : Nat
  deriving DecidableEq, Repr

/-- The fields of R168. -/
def Group.ofBytes (b : Bytes) : Group :=
  { lrMant := fieldN b 0 4, lrExp := signedOf (fieldN b 4 1) 8, stochastic := fieldN b 5 1 == 1, path := fieldN b 6 1
    flags := fieldN b 7 1, beta1 := fieldN b 8 4, beta2 := fieldN b 0xC 4, eps := fieldN b 0x10 4, decay := fieldN b 0x14 4
    limit := fieldN b 0x18 4 }

/-- FLAGGED. -/
def Group.flagged (g : Group) : Bool := bitOf g.flags 0

/-- LENT. -/
def Group.lent (g : Group) : Bool := bitOf g.flags 1

/-- FORM: moments are held as FP32. -/
def Group.form (g : Group) : Bool := bitOf g.flags 2

/-- Key of byte `o` of group `g`'s entry, in the committed half. -/
def Job.groupKey (b : Job) (g o : Nat) : Nat := b.readHalf false (b.groupTable + 32 * g + o)

/-- A group's committed entry. -/
def State.group (s : State) (j g : Nat) : Group := Group.ofBytes (s.mem.read ((s.job j).groupKey g 0) 32)

/-- Bytes of a group's entry written by the Griux itself, in the committed half. -/
def State.setGroup (s : State) (j g o : Nat) (b : Bytes) : State := s.setMem fun m => m.write ((s.job j).groupKey g o) b

/-- The flags byte of an entry. -/
def groupFlags (flagged lent form : Bool) : Nat := (if flagged then 1 else 0) + (if lent then 2 else 0) + (if form then 4 else 0)

/-- PATH, FLAGGED and LENT of one group at an opening (R169): path and flags. -/
def Training.openPath (t : Training) (n : Nat) (g : Group) : Nat × Nat :=
  let flagged := g.flagged || t.ratioHigh.contains n
  let back := t.reclaimDue && g.lent
  let lent := (g.lent && !back) || t.lendDue
  let path := if flagged || t.lendDue then 1 else if back then 0 else g.path
  (path, groupFlags flagged lent g.form)

/-- The 32 bytes of a GROUP_SET entry as they are written: FLAGGED and LENT clear, FORM kept (R169). -/
def groupEntry (e : Bytes) (form : Bool) : Bytes := (sliceZ e 0 7) ++ [BitVec.ofNat 8 (groupFlags false false form)] ++ sliceZ e 8 24

/-- One pending GROUP_SET applied (R169, R172). -/
def State.applyGroupSet (s : State) (j first : Nat) (entries : Bytes) : State :=
  (List.range (entries.length / 32)).foldl (fun s i =>
    if first + i < (s.job j).groupCount then s.setGroup j (first + i) 0 (groupEntry (entries.drop (32 * i)) (s.group j (first + i)).form)
    else s) s

/-- What the opening of an epoch does to the group table, before any of the epoch's work (R169, R172). -/
def State.openGroups (s : State) (j step : Nat) : State :=
  let t := (s.job j).train
  let n := (s.job j).groupCount
  let s := (List.range n).foldl (fun s g =>
    let p := t.openPath g (s.group j g)
    s.setGroup j g 6 [BitVec.ofNat 8 p.1, BitVec.ofNat 8 p.2]) s
  let due := fun (x : Option Nat × Nat × Bytes) => match x.1 with
    | none => true
    | some a => decide (a ≤ step)
  let s := (t.groupSets.filter due).foldl (fun s x => s.applyGroupSet j x.2.1 x.2.2) s
  s.setTrain j fun t => { t with
    groupSets := t.groupSets.filter fun x => !due x
    ratioHigh := [], lendDue := false, reclaimDue := false }

/-- The path of every group (R179). -/
def State.groupPaths (s : State) (j : Nat) : List (Nat × Nat) := (List.range (s.job j).groupCount).map fun g => (g, (s.group j g).path)

/-! ## Opening (R146, R147) -/

/-- Under NO_SPEC the update of a step runs after its COMMIT: at the next opening its sums are complete and FORM takes its paths
(R170, R173; log entry 38). -/
def State.closeUpdate (s : State) (j : Nat) : State :=
  let t := (s.job j).train
  if t.ratioStep.isNone then s
  else
    let s := t.paths.foldl (fun s p =>
      let g := s.group j p.1
      s.setGroup j p.1 7 [BitVec.ofNat 8 (groupFlags g.flagged g.lent (p.2 == 1))]) s
    s.setTrain j fun t => { t with sumsDone := t.sums, pathsDone := t.paths, fingerprintsDone := t.fingerprints }

/-- The provisional epoch of a step opens on the module. -/
def State.openEpoch (s : State) (j step : Nat) (spec : Bool) : State :=
  let s := (if spec then s else s.closeUpdate j).openGroups j step
  let paths := s.groupPaths j
  let s := if spec then s.setTrain j fun t => { t with openEpoch := some step } else s.setTrain j fun t => { t with noSpecAt := some step }
  (s.setTrain j fun t => { t with paths := paths, sums := [], fingerprints := [] }).setJob j fun b => { b with
    colls := b.colls.map fun (c : Coll) => { c with startedAtOpen := c.started } }

end Sys2Proof.Machine
end

