-- ==== Sys2Proof/Machine/Peer.lean ====
section
/-! DEFINITION. Requests of peers at their target (R85, R115, R119, R152, R198, R199, R201), the discard of an epoch (R154,
R228) and the fault stop of a job (R156, R251, R305). -/

namespace Sys2Proof.Machine

/-! ## Peer requests -/

/-- The NAK reason that a bus-error cause gives a peer (R199). -/
def nakReason (cause : Nat) : Nat :=
  if cause = 1 then 3 else if cause = 2 then 2 else if cause = 3 then 7 else if cause = 4 then 1 else 6

/-- Class of a job's requests and of their responses: latency-critical or bulk (R194). -/
def Job.msgClass (b : Job) : Nat := if b.bestEffort then 3 else 1

/-- A request leaves the table of its port (R201). -/
def State.endRequest (s : State) (p : Nat) (m : Msg) : State :=
  s.setPort p fun x => { x with requests := x.requests.erase (m.hdr.source, m.hdr.tag) }

/-- A request answered: READ_DATA, WRITE_ACK or NAK by the route back, its table entry freed (R199, R201). -/
def State.answer (s : State) (p : Nat) (m : Msg) (opcode reason : Nat) (content : Bytes) (bad : List Nat) : State :=
  let h := { headerOf s m.hdr.source opcode m.hdr.job m.hdr.tag m.hdr.address.toNat content.length with
    reason := reason, flags := m.hdr.flags, epochStep := m.hdr.epochStep }
  let s := s.endRequest p m
  match s.send (s.job m.hdr.job).msgClass { hdr := h, content := content, bad := bad } with
  | some (_, s) => s
  | none => s

/-- How the epoch that a message carries stands to a job's own epochs (R152). -/
inductive EpochCase where
  | committed
  | prov (opens : Option Nat)
  | dropped
  | held
  | bad
  deriving DecidableEq, Repr

/-- The P flag of a header (R198, R203). -/
def hdrProv (h : Header) : Bool := bitOf h.flags.toNat 0

/-- The table of R152. -/
def Job.epochCase (b : Job) (h : Header) : EpochCase :=
  let st := h.epochStep.toNat
  let resolved : EpochCase := match b.train.resolved with
    | some (e, c) => if e % 65536 = st then (if c then .committed else .dropped) else .bad
    | none => .bad
  if !hdrProv h then .committed
  else match b.train.openEpoch with
    | some e => if e % 65536 = st then .prov none else if (e + 1) % 65536 = st then .held else resolved
    | none =>
      if resolved ≠ .bad then resolved
      else if b.train.step % 65536 = st ∧ !b.noSpec ∧ b.state ≠ 7 then .prov (some b.train.step) else .bad

/-- FABRIC_PROTOCOL (R341). -/
def State.protocolError (s : State) (p j : Nat) (h : Header) : State :=
  s.log 0x0204 3 (portDomain p) (if j < 64 then j else 0xFFFF) h.address.toNat h.source.toNat h.tag

/-- What a peer's address leads to: HBM or workspace of the job (R119, R121). -/
def State.resolveForPeer (s : State) (j a : Nat) : Target :=
  if a < hbmEnd then s.resolveHbm j a
  else if wsBase ≤ a ∧ a < 0x0E00_C000_0000 then s.resolveWs j a
  else .err 1

/-- The first access of a stretch that a peer may not make. -/
def State.peerFault (s : State) (j : Nat) : List (Nat × Nat) → Option Nat
  | [] => none
  | (a, n) :: r =>
    match s.resolveForPeer j a, s.resolveForPeer j (a + n - 1) with
    | .mem _, .mem _ => State.peerFault s j r
    | .err c, _ => some c
    | _, .err c => some c
    | _, _ => some 1

/-- The 8-byte words that the decoder found uncorrectable in a message's content, marked where the content landed (R115,
R189). -/
def State.landBad (s : State) (j : Nat) (prov : Bool) (a : Nat) (bad : List Nat) : State :=
  bad.foldl (fun s w => [a + 8 * w, a + 8 * w + 7].foldl (fun s x =>
    match s.resolveForPeer j x with
    | .mem key =>
      let word := (s.job j).writeHalf prov key / 8
      s.setMem fun m => { m with ecc := (m.ecc.filter fun e => e.1 != word) ++ [(word, true)] }
    | _ => s) s) s

/-- Bytes of a stretch for the fabric send path: an uncorrectable word goes as it stands and is named (R115). -/
def State.peerRead (j : Nat) (prov : Bool) : List (Nat × Nat) → State → Bytes → List Nat → Option (State × Bytes × List Nat)
  | [], s, b, bad => some (s, b, bad)
  | (a, n) :: r, s, b, bad =>
    match s.resolveForPeer j a with
    | .mem key =>
      if (s.job j).readWaits prov key n then none
      else
        let k := (s.job j).readHalf prov key
        let words := ((List.range n).filter fun i => s.mem.bad (k + i) 1).map fun i => (b.length + i) / 8
        match s.readKey k n with
        | some (x, s) => State.peerRead j prov r s (b ++ x) bad
        | none => State.peerRead j prov r s (b ++ s.mem.read k n) (bad ++ words.dedup)
    | _ => some (s, b, bad)

/-- A WRITE or READ carried out for committed or provisional work, or held (R150, R151, R199). -/
def State.peerCarry (s : State) (p : Nat) (m : Msg) (prov : Bool) : State :=
  let j := m.hdr.job
  let a := m.hdr.address.toNat
  let hold := s.setTrain j fun t => { t with heldMsgs := t.heldMsgs ++ [(p, m)] }
  if m.hdr.opcode = 0x01 then
    if m.content.isEmpty then s.answer p m 0x04 0 [] []
    else
      let spans := funnel m.content.length a m.content.length
      match s.peerFault j spans with
      | some c => s.answer p m 0x05 (nakReason c) [] []
      | none => match s.dmaWriteAll j prov spans m.content with
        | .ok _ s' => (s'.landBad j prov a m.bad).answer p m 0x04 0 [] []
        | .wait => hold
        | .err c => s.answer p m 0x05 (nakReason c) [] []
        | _ => s.answer p m 0x05 3 [] []
  else if m.hdr.length = 0 then s.answer p m 0x03 0 [] []
  else
    let spans := funnel m.hdr.length a m.hdr.length
    match s.peerFault j spans with
    | some c => s.answer p m 0x05 (nakReason c) [] []
    | none => match State.peerRead j prov spans s [] [] with
      | some (s, b, bad) => s.answer p m 0x03 0 b bad
      | none => hold

/-- An admitted WRITE or READ at its target (R121, R152). -/
def State.peerRequest (s : State) (p : Nat) (m : Msg) : State :=
  let j := m.hdr.job
  if j ≥ 64 ∨ !(s.job j).loaded then s.answer p m 0x05 2 [] []
  else match (s.job j).epochCase m.hdr with
    | .committed => s.peerCarry p m false
    | .prov opens => (match opens with
        | some e => s.openEpoch j e true
        | none => s).peerCarry p m true
    | .dropped => if m.hdr.opcode = 0x01 then s.answer p m 0x04 0 [] [] else s.peerCarry p m false
    | .held => s.setTrain j fun t => { t with heldMsgs := t.heldMsgs ++ [(p, m)] }
    | .bad => (s.endRequest p m).protocolError p j m.hdr

/-- A held peer access after a discard: one of the discarded epoch or a waiting read is answered without data, any other is
taken up again (R151, R152, R154). -/
def State.ackHeld (e : Option Nat) (s : State) (h : HeldMsg) : State :=
  let ofEpoch := hdrProv h.2.hdr && (match e with
    | some e => e % 65536 == h.2.hdr.epochStep.toNat
    | none => false)
  if h.2.hdr.opcode = 0x02 ∧ (ofEpoch ∨ !hdrProv h.2.hdr) then s.answer h.1 h.2 0x03 0 (List.replicate h.2.hdr.length 0) []
  else if ofEpoch then s.answer h.1 h.2 0x04 0 [] []
  else s.peerRequest h.1 h.2

/-- Held peer accesses taken up again (R151, R152). -/
def State.releaseHeld (s : State) (j : Nat) : State :=
  let held := (s.job j).train.heldMsgs
  held.foldl (fun s h => s.peerRequest h.1 h.2) (s.setTrain j fun t => { t with heldMsgs := [] })

/-! ## Discard and fault stop -/

/-- The channel that a DMA program row names. -/
def chanOfRow : Instr → Option ChanRef
  | .dmaEnd r | .move r | .loop r | .wait r | .signal r => some r
  | _ => none

/-- Stages 1 to 5 of R154 for the open epoch of a job: dirty pages and tagged lines cleared, held accesses dropped, queued
descriptors and provisional instances of the epoch gone, waiting work of its agents dropped, every agent out of provisional
mode. -/
def State.discard (s : State) (j : Nat) : State :=
  let b := s.job j
  let s := b.train.tagged.foldl (fun s l => s.setMem fun m => m.zero (64 * l) 64) s
  let s := { s with hbm := s.hbm.map fun (h : Stack) => { h with queue := h.queue.filter fun q => !(q.task.job == j && q.prov) } }
  let s := { s with waiting := s.waiting.filter fun w => !(match w.1 with
    | .task t => t.job == j && (match s.task t with
      | some k => k.prov
      | none => true)
    | _ => match chanOfRow w.2 with
      | some r => r.job == j && (match s.chan r with
        | some c => c.prov
        | none => true)
      | none => false) }
  let held := b.train.heldMsgs
  let s := s.setJob j fun b => { b with
    train := { b.train with dirty := [], tagged := [], heldMsgs := [], openEpoch := none, sums := [], paths := [], fingerprints := [] }
    chans := b.chans.map fun (c : Chan) => { c with prov := false }
    tasks := b.tasks.map fun (t : Task) => { t with
      prov := false, atEpoch := false, block := if t.block = some .verdict then none else t.block }
    colls := b.colls.map fun (c : Coll) => { c with
      active := c.active.filter fun i => !i.prov
      inStep := (0, 0)
      started := if c.active.any (·.prov) ∨ b.train.openEpoch.isSome then c.startedAtOpen else c.started } }
  held.foldl (State.ackHeld b.train.openEpoch) s

/-- Every JOB_WAIT of a job answered (R305). -/
def State.answerWaits (s : State) (j status : Nat) : State :=
  let b := s.job j
  let v := b.train.committed.getD ones64
  (b.waits.foldl (fun s r => s.reply r status b.state v) s).setJob j fun b => { b with waits := [] }

/-- A fault stop of a job: it leaves its cores, its open epoch is discarded, its streams leave with reason 4, its waiters
are answered, JOB_FAULT is logged and SUSPECT FAULT_STOP is sent (R156, R251, R305, R337). -/
def State.faultStop (s : State) (j status : Nat) (notice : Bool) : State :=
  let b := s.job j
  if b.state = 0 ∨ b.state = 7 ∨ b.state = 8 then s
  else
    let s := ((s.setJob j fun b => { b with state := 7 }).discard j).offCores j
    let s := s.setJob j fun b => { b with
      faultStatus := status
      stopper := none
      chans := b.chans.map Chan.save
      tasks := b.tasks.map fun (t : Task) => { t with pace := none }
      serving := { b.serving with streams := b.serving.streams.map fun (x : Stream) =>
        if x.state = 0 then x else { x with state := 4, endReason := 4 } } }
    let s := s.enter j 7
    let s := s.log 0x0301 4 devDomain j status ((s.job j).train.committed.getD ones64) 0
    let s := match b.stopper with
      | some x => s.reply x.cmd status 0 0
      | none => s
    let s := s.answerWaits j status
    if notice then s.suspect j s.ident.device 4 false else s

end Sys2Proof.Machine
end

