-- ==== Sys2Proof/Machine/Issue.lean ====
section
/-! DEFINITION. What the instruction families share: issuing an instruction of a task, commands that wait, access failures
of the core's units, contributors served here, and the margins of a core. -/

namespace Sys2Proof.Machine

/-- A command's answer: the state with its effect; nothing fused changes and the queue stays as it was handed over. -/
def State.become (s t : State) : Host.Outcome State Fault Refusal := .next (s.keep t)

/-- A task that can issue an instruction now, the preemption point it stood at passed (R74, R320). -/
def State.issue (s : State) (t : TaskRef) : Option (Task × State) :=
  if s.canIssue t then (s.task t).map fun k => (k, s.setTask t fun x => { x with atPoint := false }) else none

/-- An array or vector instruction issued: it wakes those units of a core in I1 (R404, R407). -/
def State.issueUnit (s : State) (t : TaskRef) : Option (Task × State) :=
  (s.issue t).map fun x => (x.1, x.2.setCore x.1.core fun c => { c with idle := 0 })

/-- A command that the manual makes wait is kept with who waits (log entry 16). -/
def State.hold (s : State) (a : Agent) (i : Instr) : State := { s with waiting := s.waiting ++ [(a, i)] }

/-- Whether some command of this agent waits. -/
def State.holds (s : State) (a : Agent) : Bool := s.waiting.any fun w => w.1 == a

/-- Whether a waiting command can be repeated now, waits on, or is gone with its agent (none). -/
def State.mayRetry (s : State) (w : Agent × Instr) : Option Bool :=
  match w.1 with
  | .task t => (s.task t).map fun _ => s.canIssue t
  | .cmd r => (s.cmd r).map fun _ => true
  | .other => match chanOfRow w.2 with
    | some r => match s.chan r with
      | some c => if c.state = 1 then some true else if c.state = 2 ∨ c.state = 4 then some false else none
      | none => none
    | none => some true

/-- Waiting commands that are given up. -/
def State.dropWaiting (s : State) (gone : Agent × Instr → Bool) : State := { s with waiting := s.waiting.filter fun w => !gone w }

/-- The device address of a place in a program, for a task with a home core (R120). -/
def Job.placeAddr (b : Job) (home : Nat) : Place → Nat
  | .region n off => ((b.grants.find? fun g => g.decl.number == n).map (·.addr)).getD 0 + off
  | .workspace off => wsAddr home off

/-- What comes of an access by the core's units that gave no bytes: it waits, or an uncorrectable word stops the job
(R84, R85, R151). -/
def State.unitFail (s : State) (t : TaskRef) (i : Instr) : Got → State
  | .wait => s.hold (.task t) i
  | .err 3 => s.faultStop t.job stUncorrectable true
  | _ => s

/-- An event line of the core's die pulsed once when the flag is set (R57, R65). -/
def State.signalLine (s : State) (t : TaskRef) (k : Task) (flag : Bool) (line : Nat) : State :=
  if flag then s.pulse t.job (dieOf k.home) line 1 else s

/-- The contributors whose parts this module holds: the leaves of its gradient contexts (R215, R366). -/
def Job.contributors (b : Job) (dev : U32) : List Nat :=
  (b.colls.flatMap fun c =>
    if bitOf c.decl.flags.toNat 0 then
      match c.decl.members.find? fun m => m.device == dev with
      | some m => (List.range m.leafCount).map fun i => m.firstContributor + i
      | none => []
    else []).dedup

/-- A contributor's all-finite flag of the step made false (R158). -/
def State.markNonFinite (s : State) (j step contributor : Nat) : State :=
  s.setStrag j fun x => { x with
    nonFinite := if x.nonFinite.contains (step, contributor) then x.nonFinite else x.nonFinite ++ [(step, contributor)] }

/-- The effect of NONFIN on every contributor served here (R366). -/
def State.markCore (s : State) (j : Nat) : State :=
  ((s.job j).contributors s.ident.device).foldl (fun s v => s.markNonFinite j (s.job j).train.step v) s

/-- A margin raise: one step of delay, or 10 mV when the delay is at 7; counted into patina and copied to flash (R367,
R368, R373). -/
def State.marginRaise (s : State) (c : Nat) : State :=
  ((((s.setCore c fun x => if x.delay < 7 then { x with delay := x.delay + 1 } else { x with volt := x.volt + 1 }).setHealth
    fun h => { h with raises := sat32 (h.raises + 1) }).patina (48 * 1024)).flashCopy)

/-- Whether both margins of a core are at their ends (R367). -/
def Core.marginsSpent (c : Core) : Bool := c.delay == 7 && c.volt == 6

/-- Margins take effect at a preemption point (R367). -/
def State.applyMargins (s : State) (c : Nat) : State := s.setCore c fun x => { x with liveMargins := (x.delay, x.volt) }

/-- A core classed permanent: it is fenced off at its next gap, and its contributions have the effect of NONFIN (R366,
R368). -/
def State.permanent (s : State) (c : Nat) (j : Nat) : State := (s.setCore c fun x => { x with fenceDue := true }).markCore j

/-- A transient of a core: a margin raise, or permanent when its margins are spent (R366, R367). -/
def State.transient (s : State) (c : Nat) (j : Nat) : State :=
  if (s.core c).marginsSpent then s.permanent c j
  else (s.setHealth fun h => { h with transient := sat16 (h.transient + 1) }).marginRaise c

end Sys2Proof.Machine
end

