-- ==== Sys2Proof/Machine/Arrays.lean ====
section
/-! DEFINITION. The arrays: tiles, chunks and promotion (R42 to R60), sampled recomputation and the vote of another engine
(R77 to R80, R365, R366), and fencing a core off (R328, R368). -/

namespace Sys2Proof.Machine

/-- Chunks of one element's products promoted one after another, chunk index `c` first; fuel at least the products
(R44, R49). -/
def elementTotal (len : Nat) (f : Fmt) : Nat → Nat → Nat → List Num → Nat
  | 0, _, t, _ => t
  | n + 1, c, t, ps =>
    if ps.isEmpty then t
    else elementTotal len f n (c + 1) (promote f (c == 0) t (chunkSum (ps.take len))) (ps.drop len)

/-- Row `i` of A as numbers. -/
def operandRows (f : Fmt) (b : Bytes) (rows perRow : Nat) : List (List Num) :=
  (List.range rows).map fun i => (elemsOf f (b.drop (i * (perRow * f.size))) perRow).map (decodeFloat f)

/-- The totals of a tile after one instruction, row by row (R43 to R49). -/
def tileTotals (len : Nat) (f : Fmt) (chunk : Nat) (totals : List Nat) (a b : List (List Num)) (n : Nat) : List Nat :=
  let cols := (List.range n).map fun j => b.map fun r => r.getD j .nan
  (a.mapIdx fun i row => cols.mapIdx fun j col =>
    let ps := List.zipWith Num.mul row col
    elementTotal len f ps.length chunk (totals.getD (i * n + j) 0) ps).flatten

/-- Totals with a unit's fault in one element (R365). -/
def glitched (f : Fmt) (totals : List Nat) : Option Glitch → List Nat
  | none => totals
  | some g => totals.modify g.element fun v => Nat.xor v (g.flips.toNat % 2 ^ f.width)

/-- First element at which two lists of totals differ (R80). -/
def firstDiff (xs ys : List Nat) : Nat := ((List.range xs.length).find? fun i => xs.getD i 0 != ys.getD i 0).getD 0

/-- The tile of a slot of an array. -/
def Task.tile (k : Task) (array slot : Nat) : Option Tile := k.tiles.find? fun x => x.array == array && x.slot == slot

/-- Rows of an operand read from workspace, row by row. -/
def State.readRows (t : TaskRef) (k : Task) (len pitch : Nat) : Nat → Nat → State → Bytes → Got
  | 0, _, s, acc => .ok acc s
  | rows + 1, off, s, acc =>
    match s.readWs t k off len with
    | .ok b s => State.readRows t k len pitch rows (off + pitch) s (acc ++ b)
    | g => g

/-- Both operands of an instruction as A's rows and B's rows. -/
def State.readOperands (s : State) (t : TaskRef) (k : Task) (w : ArrayWord) (fa fb : Fmt) :
    Got × List (List Num) × List (List Num) :=
  let m := shapeM w.shape
  let n := shapeN w.shape
  match State.readRows t k (w.kCount * fa.size) (w.rowA fa) m w.aAddr s [] with
  | .ok a s =>
    match State.readRows t k (n * fb.size) (w.rowB fb) w.kCount w.bAddr s [] with
    | .ok b s => (.ok [] s, operandRows fa a m w.kCount, operandRows fb b w.kCount n)
    | g => (g, [], [])
  | g => (g, [], [])

/-- The tile takes its new totals; with CLOSE they are drained, the slot is freed and SIGNAL pulses (R59). -/
def State.tileDone (s : State) (t : TaskRef) (k : Task) (w : ArrayWord) (tile : Tile) (len : Nat) (totals : List Nat) : Got :=
  let others := fun (x : Tile) => !(x.array == tile.array && x.slot == tile.slot)
  if w.closes then
    let f := totalFmt tile.wide
    match s.writeWs t k w.outAddr (packElems f totals) with
    | .ok _ s =>
      let s := s.setTask t fun x => { x with tiles := x.tiles.filter others }
      .ok [] (s.signalLine t k w.signals w.line)
    | g => g
  else
    .ok [] (s.setTask t fun x => { x with
      tiles := x.tiles.filter others ++ [{ tile with totals := totals, chunk := tile.chunk + ceilDiv w.kCount len }] })

/-- Whether the job's vector engine on a core is lent (R80, R326). -/
def Job.vectorLent (b : Job) (c : Nat) : Bool := b.lent.any fun l => l.1 == c && l.2.1 == 2

/-- The tile that an instruction works on: a new one with OPEN, else the one in its slot (R57, R77). -/
def State.tileOf (s : State) (t : TaskRef) (k : Task) (w : ArrayWord) : Option Tile :=
  let b := s.job t.job
  let unit := w.unit % 2
  if w.opens then
    if (k.tile unit w.slot).isSome then none
    else
      let sel := tileSelected b.seed k.tileKey.toNat b.train.step b.sampling
      some { array := unit, slot := w.slot, shape := w.shape, wide := w.wide, accOffset := w.acc, chunk := 0
             totals := List.replicate (shapeM w.shape * shapeN w.shape) 0, key := k.tileKey
             selected := sel && !b.vectorLent k.core }
  else (k.tile unit w.slot).filter fun x => x.shape == w.shape && x.wide == w.wide && x.accOffset == w.acc

/-- The core in service whose vector engine votes (R366): of the job on the same die, of the same die, of another die. -/
def State.voter (s : State) (j c : Nat) : Option Nat :=
  let free := (List.range Config.coreSlots).filter fun x => x != c && s.inService x
  let mine := fun x => (s.job j).tasks.any fun (k : Task) => k.core == x || k.home == x
  let same := free.filter fun x => dieOf x == dieOf c
  match same.find? mine with
  | some x => some x
  | none => match same.head? with
    | some x => some x
    | none => free.head?

/-- The comparison of R365 after an instruction of a selected tile, and the classification of R366: the totals kept, and the
state after counting and logging; none of them while another engine's vote is needed. -/
def State.recompute (s : State) (t : TaskRef) (k : Task) (w : Bytes) (tile : Tile) (clean : List Nat) (x : TileFaults) :
    State × Option (List Nat) :=
  let f := totalFmt tile.wide
  let a1 := glitched f clean x.array1
  let v1 := glitched f clean x.vector1
  if a1 = v1 then (s, some a1)
  else
    let a2 := glitched f clean x.array2
    let v2 := glitched f clean x.vector2
    let s := (s.log 0x0108 2 (coreDomain k.core) t.job tile.key.toNat (firstDiff a1 v1) 0).setHealth
      fun h => { h with recompute := sat16 (h.recompute + 1) }
    if a2 = v2 ∧ (v2 = v1 ∨ a2 = a1) then (s.transient k.core t.job, some a2)
    else if a2 = a1 ∧ v2 = v1 ∧ (s.voter t.job k.core).isSome then
      let d : Dispute := { task := t, array := tile.array, slot := tile.slot, word := w, before := tile.totals }
      (s.setCore k.core fun c => { c with dispute := some d }, none)
    else
      let kept := (List.range clean.length).map fun i => (Config.untrusted s.draws i).toNat % 2 ^ f.width
      ({ s.permanent k.core t.job with draws := s.draws + 1 }, some kept)

/-- Whether an instruction of an array must wait behind the task's earlier ones, a vote, the power ward or, opening a
selected tile, another selected tile (R57, R79, R366, R392). -/
def State.arrayWaits (s : State) (t : TaskRef) (k : Task) (w : ArrayWord) (tile : Tile) : Bool :=
  s.power.quiesced ||
  (s.waiting.any fun x => match x.2 with
    | .mma t' w' _ => t' == t && (ArrayWord.ofBytes w').unit % 2 == w.unit % 2
    | _ => false) ||
  ((s.core k.core).dispute.any fun d => d.task == t && d.array == w.unit % 2) ||
  (w.opens && tile.selected && k.tiles.any (·.selected))

/-- MMA (R57). -/
def doMma (t : TaskRef) (word : Bytes) (x : TileFaults) (s0 : State) : State :=
  match s0.issueUnit t with
  | none => s0
  | some (k, s) =>
    let w := ArrayWord.ofBytes word
    if w.op ≠ 0x31 then s0
    else match w.pair, s.tileOf t k w with
      | some (fa, fb), some tile =>
        if s.arrayWaits t k w tile then s0.hold (.task t) (.mma t word x)
        else match s.readOperands t k w fa fb with
          | (.ok _ s, a, b) =>
            let len := (s.job t.job).chunk
            let f := totalFmt tile.wide
            let s := s.correctedWords (coreDomain k.core) x.corrected
            if x.uncorrectable then s.faultStop t.job stUncorrectable true
            else
              let clean := tileTotals len f tile.chunk tile.totals a b (shapeN w.shape)
              let lentAway := w.opens && tileSelected (s.job t.job).seed k.tileKey.toNat (s.job t.job).train.step (s.job t.job).sampling
                && (s.job t.job).vectorLent k.core
              let s := if lentAway then s.setTrain t.job fun y => { y with unchecked := y.unchecked + 1 } else s
              let r := if tile.selected then s.recompute t k word tile clean x else (s, some (glitched f clean x.array1))
              match r.2 with
              | some totals => match r.1.tileDone t k w tile len totals with
                | .ok _ s => s
                | g => s0.unitFail t (.mma t word x) g
              | none => r.1.setTask t fun y => { y with
                  tiles := (y.tiles.filter fun z => !(z.array == tile.array && z.slot == tile.slot)) ++ [tile] }
          | (g, _, _) => s0.unitFail t (.mma t word x) g
      | _, _ => s0

/-- MMA. -/
def execMma (t : TaskRef) (w : Bytes) (faults : TileFaults) (s : State) : Host.Outcome State Fault Refusal :=
  s.become (doMma t w faults s)

/-- RECOMPUTE_VOTE (R366): another engine computes the instruction from the kept totals; its totals are kept, the core is
classed permanent and the tile goes on. -/
def doRecomputeVote (core : Nat) (fault : Option Glitch) (s0 : State) : State :=
  match (s0.core core).dispute with
  | none => s0
  | some d =>
    let s := s0.setCore core fun c => { c with dispute := none }
    let w := ArrayWord.ofBytes d.word
    match s.task d.task, w.pair with
    | some k, some (fa, fb) =>
      match k.tile d.array d.slot with
      | none => s
      | some tile =>
        match s.readOperands d.task k w fa fb with
        | (.ok _ s, a, b) =>
          let len := (s.job d.task.job).chunk
          let f := totalFmt tile.wide
          let vote := glitched f (tileTotals len f tile.chunk d.before a b (shapeN w.shape)) fault
          match (s.permanent core d.task.job).tileDone d.task k w tile len vote with
          | .ok _ s => s
          | .err 3 => s.faultStop d.task.job stUncorrectable true
          | _ => s0
        | (.err 3, _, _) => s.faultStop d.task.job stUncorrectable true
        | _ => s0
    | _, _ => s

/-- RECOMPUTE_VOTE. -/
def execRecomputeVote (core : Nat) (fault : Option Glitch) (s : State) : Host.Outcome State Fault Refusal :=
  s.become (doRecomputeVote core fault s)

end Sys2Proof.Machine
end

