-- ==== Sys2Proof/Machine/Sched.lean ====
section
/-! DEFINITION. Scheduling of tasks on cores: readiness, preemption points, slices and rotation (R74, R75, R111, R320 to R324,
R327). -/

namespace Sys2Proof.Machine

/-- A task can take its core: its job runs and nothing blocks it (R320). -/
def State.isReady (s : State) (t : TaskRef) : Bool :=
  match s.task t with
  | some k => (s.job t.job).live && k.block.isNone
  | none => false

/-- A task stands in a core's order or runs on it. -/
def Core.has (c : Core) (t : TaskRef) : Bool := c.running == some t || c.readyLc.contains t || c.readyBe.contains t

/-- A ready task joins the order of its core, behind the others of its class (R320, R321). -/
def State.enqueue (s : State) (t : TaskRef) : State :=
  match s.task t with
  | none => s
  | some k =>
    if !s.isReady t || (s.core k.core).has t then s
    else s.setCore k.core fun c =>
      if (s.job t.job).bestEffort then { c with readyBe := c.readyBe ++ [t] } else { c with readyLc := c.readyLc ++ [t] }

/-- A task leaves every core's order. -/
def State.dequeue (s : State) (t : TaskRef) : State :=
  { s with cores := s.cores.map fun (c : Core) => { c with
    running := if c.running = some t then none else c.running
    readyLc := c.readyLc.filter fun x => !(x == t)
    readyBe := c.readyBe.filter fun x => !(x == t) } }

/-- The core channels of a task. -/
def Chan.ofTask (c : Chan) (n : Nat) : Bool := !c.decl.die && c.owner == n

/-- The channels of a task stopped exactly (R111). -/
def State.saveChans (s : State) (t : TaskRef) : State :=
  s.setJob t.job fun b => { b with chans := b.chans.map fun (c : Chan) => if c.ofTask t.task then c.save else c }

/-- The channels of a task resumed (R111). -/
def State.resumeChans (s : State) (t : TaskRef) : State :=
  s.setJob t.job fun b => { b with chans := b.chans.map fun (c : Chan) => if c.ofTask t.task then c.resume else c }

/-- Workspace bytes that tasks hold on a core at present. -/
def State.wsOn (s : State) (core : Nat) : Nat :=
  s.jobs.foldl (fun n b => b.tasks.foldl (fun n k => if k.core == core && !k.inSlot then n + 1024 * k.decl.workspaceKib else n) n) 0

/-- The task that a core runs is saved and gives it up; its workspace leaves when another's grant would not fit beside it
(R317, R324). -/
def State.unrun (s : State) (core : Nat) : State :=
  match (s.core core).running with
  | none => s
  | some t => (s.setCore core fun c => { c with running := none, sliceOver := false }).saveChans t

/-- The next task of a core: the first ready latency-critical one, else the first ready best-effort one (R320, R321). -/
def Core.next (c : Core) : Option TaskRef := c.readyLc.head?.or c.readyBe.head?

/-- A die out of I3, and the device out of I4: the tasks that hold its cores are restored (R404, R406, R407). -/
def State.wakeDie (s : State) (d : Nat) : State :=
  if !(s.die d).gated then s
  else
    let back := fun (j i : Nat) (k : Task) =>
      if dieOf k.core = d ∧ (s.core k.core).running = some { job := j, task := i } then { k with inSlot := false } else k
    let s' := (s.setDie d fun x => { x with gated := false, domain := 0 }).setPower fun p => { p with standby := false }
    { s' with jobs := s'.jobs.mapIdx fun j (b : Job) => { b with tasks := b.tasks.mapIdx (back j) } }

/-- A core out of its idle state, and the die and the device above it (R404, R407). -/
def State.wakeCore (s : State) (core : Nat) : State := (s.setCore core fun c => { c with idle := 0 }).wakeDie (dieOf core)

/-- A task is restored on a free core: its workspace comes back, others' leaves for room, and its channels go on (R317,
R324). -/
def State.run (s : State) (core : Nat) (t : TaskRef) : State :=
  match s.task t with
  | none => s
  | some k =>
    let need := if k.inSlot then 1024 * k.decl.workspaceKib else 0
    let s := if s.wsOn core + need ≤ wsBytes then s
      else { s with jobs := s.jobs.mapIdx fun j (b : Job) => { b with tasks := b.tasks.mapIdx fun i (x : Task) =>
        if x.core = core ∧ !(j == t.job && i == t.task) then { x with inSlot := true } else x } }
    let s := s.setCore core fun c => { c with
      running := some t
      readyLc := c.readyLc.filter fun x => !(x == t)
      readyBe := c.readyBe.filter fun x => !(x == t)
      sliceOver := false }
    let s := s.wakeCore core
    (s.setTask t fun x => { x with inSlot := false, atPoint := false }).resumeChans t

/-- A core that runs no task takes its next one, if it is in service. -/
def State.fill (s : State) (core : Nat) : State :=
  if (s.core core).running.isSome || !s.inService core then s
  else match (s.core core).next with
    | some t => (s.setCore core fun c => { c with
        readyLc := c.readyLc.filter fun x => !(x == t)
        readyBe := c.readyBe.filter fun x => !(x == t) }).run core t
    | none => s

/-- A core whose running task stands at a preemption point, or that runs none (R320). -/
def State.atGap (s : State) (core : Nat) : Bool :=
  match (s.core core).running with
  | none => true
  | some t =>
    match s.task t with
    | some k => k.atPoint || k.block.isSome || !(s.job t.job).live
    | none => true

/-- Time beyond a slice, taken off the job's next slice on the core (R322). -/
def Core.owe (c : Core) (j us : Nat) : Core :=
  { c with owed := (c.owed.filter fun x => x.1 != j) ++ [(j, us)] }

/-- TASK_READY (R320): a task that is no longer blocked joins its core's order. -/
def doTaskReady (t : TaskRef) (s : State) : State := s.enqueue t

/-- TASK_READY. -/
def execTaskReady (t : TaskRef) (s : State) : Host.Outcome State Fault Refusal := s.become (doTaskReady t s)

/-- PREEMPT (R320): at a preemption point the running task is saved and the next one restored; `overUs` is the time beyond
the slice when it has ended (R322). -/
def doPreempt (core overUs : Nat) (s0 : State) : State :=
  if !s0.inService core || !s0.atGap core then s0
  else
    let s := s0.applyMargins core
    match (s.core core).running with
    | none => s.fill core
    | some t =>
      let c := s.core core
      let blocked := match s.task t with
        | some k => k.block.isSome || !(s.job t.job).live
        | none => true
      let be := (s.job t.job).bestEffort
      let overran := c.sliceOver && be
      let s := if overran then
          let s := s.setCore core fun c => c.owe t.job overUs
          if overUs > 100 then s.log 0x0102 2 (coreDomain core) t.job overUs 0 0 else s
        else s
      let yield := be && (!c.readyLc.isEmpty || (c.sliceOver && !c.readyBe.isEmpty))
      if blocked then
        if c.next.isNone then s else (s.unrun core).fill core
      else if yield then
        let s := s.unrun core
        let s := s.setCore core fun c => { c with readyBe := if overran then c.readyBe ++ [t] else t :: c.readyBe }
        s.fill core
      else s.setCore core fun c => { c with sliceOver := false }

/-- PREEMPT. -/
def execPreempt (core overUs : Nat) (s : State) : Host.Outcome State Fault Refusal := s.become (doPreempt core overUs s)

/-- SLICE_END (R321): the slice of the best-effort task on a core ends. -/
def doSliceEnd (core : Nat) (s : State) : State :=
  match (s.core core).running with
  | some t => if (s.job t.job).bestEffort then s.setCore core fun c => { c with sliceOver := true } else s
  | none => s

/-- SLICE_END. -/
def execSliceEnd (core : Nat) (s : State) : Host.Outcome State Fault Refusal := s.become (doSliceEnd core s)

/-- SECTION_OVERRUN (R75): the section of the task on a core reaches 500 µs, and the next gap between array instructions is a
preemption point. -/
def doSectionOverrun (core : Nat) (s : State) : State :=
  match (s.core core).running with
  | some t => ((s.setTask t fun x => { x with atPoint := true }).setTrain t.job
      fun x => { x with overruns := sat32 (x.overruns + 1) }).applyMargins core
  | none => s

/-- SECTION_OVERRUN. -/
def execSectionOverrun (core : Nat) (s : State) : Host.Outcome State Fault Refusal := s.become (doSectionOverrun core s)

/-- PPOINT (R74): the task stands at a preemption point, its state held exactly; margins take effect (R367). -/
def doPpoint (t : TaskRef) (s0 : State) : State :=
  match s0.issue t with
  | none => s0
  | some (k, s) => (s.setTask t fun x => { x with atPoint := true }).applyMargins k.core

/-- PPOINT. -/
def execPpoint (t : TaskRef) (s : State) : Host.Outcome State Fault Refusal := s.become (doPpoint t s)

/-! ## Cores of a job -/

/-- The cores a job holds: its home cores that are not lent, and what it has borrowed (R326). -/
def Job.cores (b : Job) : List Nat :=
  (((b.tasks.map fun k => k.home).filter fun c => !b.lent.any fun l => l.1 == c && l.2.1 != 2) ++
    b.borrowed.map (·.1)).dedup

/-- Tasks placed on a core. -/
def State.tasksOn (s : State) (core : Nat) : Nat :=
  s.jobs.foldl (fun n b => n + (b.tasks.filter fun k => k.core == core).length) 0

/-- The entry with the smallest measure, the first of equals. -/
def leastBy (f : Nat → Nat) : List Nat → Option Nat
  | [] => none
  | x :: xs => match leastBy f xs with
    | some y => if f y < f x then some y else some x
    | none => some x

/-- The core that a job's tasks of a die move to: fewest tasks, then the lowest index (R327). -/
def State.moveTarget (s : State) (j from_ : Nat) : Option Nat :=
  leastBy s.tasksOn (((s.job j).cores.filter fun c => c != from_ && dieOf c == dieOf from_ && s.inService c).insertionSort (· ≤ ·))

/-- The tasks of a job leave a core, saved and their workspace in their task slots, for the job's remaining cores of the die;
none when the job has no such core (R327). -/
def State.moveOff (s : State) (j core : Nat) : Option State :=
  let idxs := (List.range (s.job j).tasks.length).filter fun i => ((s.job j).tasks[i]?).any fun k => k.core == core
  idxs.foldl (fun (o : Option State) i => o.bind fun s =>
    (s.moveTarget j core).map fun c =>
      let t : TaskRef := { job := j, task := i }
      ((s.dequeue t).saveChans t |>.setTask t fun x => { x with core := c, inSlot := true }).enqueue t) (some s)

/-- Every core takes a task where it can. -/
def State.fillAll (s : State) : State :=
  (List.range Config.coreSlots).foldl (fun s c => if (s.core c).next.isSome then s.fill c else s) s

/-- The tasks of a job are put on the cores they are placed on (R312, R315). -/
def State.startTasks (s : State) (j : Nat) : State :=
  ((List.range (s.job j).tasks.length).foldl (fun s i => s.enqueue { job := j, task := i }) s).fillAll

/-- CORE_FENCE (R328, R368): a core classed permanent is fenced off; its jobs leave it, and a job left without a core on the
die stops with FENCED. -/
def doCoreFence (core : Nat) (s0 : State) : State :=
  if !(s0.core core).fenceDue || (s0.core core).fenced then s0
  else
    let s := s0.setCore core fun c => { c with fenceDue := false, fenced := true, test := 0 }
    let s := s.setHealth fun h => { h with fences := sat16 (h.fences + 1) }
    let s := (List.range 64).foldl (fun s j =>
      if (s.job j).tasks.any fun k => k.core == core then
        match s.moveOff j core with
        | some s => s
        | none => s.faultStop j stFenced true
      else s) s
    s.flashCopy.fillAll

/-- CORE_FENCE. -/
def execCoreFence (core : Nat) (s : State) : Host.Outcome State Fault Refusal := s.become (doCoreFence core s)

end Sys2Proof.Machine
end

