-- ==== Sys2Proof/Machine/Epoch.lean ====
section
/-! DEFINITION. The training step before its verdict: EPOCH, NONFIN and LSEXP (R146 to R148, R158, R162, R173), and the optimiser update on both paths (R129 to R132, R164 to R167, R174, R175, R362). -/

namespace Sys2Proof.Machine

/-! ## EPOCH -/

/-- Phases of the step that ends, in ascending number, an open one without a duration (R76, R179). -/
def Job.closePhases (b : Job) : List (Nat × Nat) :=
  (List.range 256).filterMap fun n =>
    if b.tasks.any fun k => k.phases.any fun p => p.1 == n then some (n, 0xFFFFFFFF)
    else match b.train.phaseTimes.find? fun p => p.1 == n with
      | some (_, some d) => some (n, d)
      | _ => none

/-- The registers of the job at its first EPOCH of a step: the epoch register takes the step and the step register goes on;
what the step measured is kept for its record. -/
def State.stepOn (s : State) (j : Nat) : State :=
  s.setJob j fun b => { b with
    train := { b.train with
      epochReg := b.train.step, step := b.train.step + 1
      phasesDone := b.closePhases, countsDone := (b.train.unchecked, b.train.overruns)
      phaseTimes := [], unchecked := 0, overruns := 0 }
    tasks := b.tasks.map fun (k : Task) => { k with phases := [] } }

/-- Whether a channel goes into provisional mode with a task: marked step, of the task or of a die channel it is home of
(R148). -/
def Chan.follows (c : Chan) (t : TaskRef) (home : Nat) : Bool :=
  c.decl.step && (if c.decl.die then c.home == home else c.owner == t.task)

/-- A task has executed EPOCH: it is in provisional mode with its step channels, its skip entry recorded (R146, R148). -/
def State.joinEpoch (s : State) (t : TaskRef) (k : Task) (skip : U64) (prov : Bool) : State :=
  let s := s.setTask t fun x => { x with atEpoch := true, skipEntry := skip, prov := prov }
  if prov then s.setJob t.job fun b => { b with chans := b.chans.map fun (c : Chan) => if c.follows t k.home then { c with prov := true } else c }
  else s

/-- EPOCH (R146, R147, R173). -/
def doEpoch (t : TaskRef) (skip : U64) (s0 : State) : State :=
  match s0.issue t with
  | none => s0
  | some (k, s) =>
    let j := t.job
    let tr := (s.job j).train
    let wait := fun (s : State) => s.setTask t fun x => { x with block := some .verdict }
    if (s.job j).noSpec then
      if tr.noSpecAt.isSome && k.atEpoch then s0
      else
        let s := if tr.noSpecAt.isSome then s else (s.openEpoch j tr.step false).stepOn j
        wait (s.joinEpoch t k skip false)
    else match tr.openEpoch with
      | some e =>
        if k.atEpoch then wait (s0.hold (.task t) (.epoch t skip))
        else (if tr.step = e then s.stepOn j else s).joinEpoch t k skip true
      | none => ((s.openEpoch j tr.step true).stepOn j).joinEpoch t k skip true

/-- EPOCH. -/
def execEpoch (t : TaskRef) (skipEntry : U64) (s : State) : Host.Outcome State Fault Refusal := s.become (doEpoch t skipEntry s)

/-- NONFIN (R158): the all-finite flag of a contribution of the step under way becomes false. -/
def doNonfin (t : TaskRef) (v : Nat) (s0 : State) : State :=
  match s0.issue t with
  | none => s0
  | some (_, s) => if v < (s.job t.job).width then s.markNonFinite t.job (s.job t.job).train.step v else s0

/-- NONFIN. -/
def execNonfin (t : TaskRef) (contributor : Nat) (s : State) : Host.Outcome State Fault Refusal := s.become (doNonfin t contributor s)

/-- The loss exponent of a step (R162). -/
def Training.lossOf (t : Training) (step : Nat) : Int :=
  if step = t.judged then t.loss else if step = t.judged + 1 then t.lossNext else if step + 1 = t.judged then t.lossPrev else t.lossNext

/-- The loss scale 2^L as an FP32 value, which holds it exactly (R162). -/
def scaleBits (l : Int) : Nat := encodeNum .fp32 false (.fin false 1 l)

/-- LSEXP (R162): the loss scale of the step in the step register. -/
def doLsexp (t : TaskRef) (s0 : State) : State :=
  match s0.issue t with
  | none => s0
  | some (_, s) =>
    let tr := (s.job t.job).train
    s.setTask t fun x => { x with scalar := BitVec.ofNat 64 (scaleBits (tr.lossOf tr.step)) }

/-- LSEXP. -/
def execLsexp (t : TaskRef) (s : State) : Host.Outcome State Fault Refusal := s.become (doLsexp t s)

/-! ## Exact square sums (R174) -/

/-- Exponent of the unit of the accumulator: the square of the smallest FP32 subnormal. -/
def squareUnit : Int := -298

/-- The accumulator with nothing in it. -/
def sqZero : SquareAcc := { sum := 0, nonFinite := false }

/-- An FP32 value entered. -/
def sqEnter (a : SquareAcc) (bits : Nat) : SquareAcc :=
  match decodeFloat .fp32 bits with
  | .fin _ m e => { a with sum := (a.sum + m * m * 2 ^ (2 * e - squareUnit).toNat) % 2 ^ 640 }
  | _ => { a with nonFinite := true }

/-- Two accumulators added. -/
def sqPlus (a b : SquareAcc) : SquareAcc := { sum := (a.sum + b.sum) % 2 ^ 640, nonFinite := a.nonFinite || b.nonFinite }

/-- The exact square sum as a number before its rounding. -/
def sqNum (a : SquareAcc) : Num := if a.nonFinite then .inf false else .fin false a.sum squareUnit

/-- The exact square sum rounded to FP64. -/
def sqRound (a : SquareAcc) : Nat := encodeNum .fp64 false (sqNum a)

/-- Sums of a group with an update's (R175). -/
def addSums (l : GroupSums) (g : Nat) (u w : SquareAcc) : GroupSums :=
  if l.any fun x => x.1 == g then l.map fun x => if x.1 = g then (g, sqPlus x.2.1 u, sqPlus x.2.2 w) else x
  else l ++ [(g, u, w)]

/-- A term added to a fingerprint slot (R362). -/
def addSlot (l : List (Nat × U64)) (slot : Nat) (v : U64) : List (Nat × U64) :=
  if l.any fun x => x.1 == slot then l.map fun x => if x.1 = slot then (slot, x.2 + v) else x else l ++ [(slot, v)]

/-! ## The update equations (R166, R167) -/

/-- p = β^t by the loop of R167, fuel at least the bits of k. -/
def betaPower : Nat → Nat → Nat → Nat → Nat
  | 0, p, _, _ => p
  | n + 1, p, x, k => if k = 0 then p else betaPower n (if k % 2 = 1 then fMul .fp64 p x else p) (fMul .fp64 x x) (k / 2)

/-- The bias correction of a β at update count t (R167). -/
def biasCorrection (beta t : Nat) : Nat :=
  let one := packFloat .fp64 false 1023 0
  fCast .fp64 .fp32 (fDiv .fp64 one (fSub .fp64 one (betaPower 64 one (fCast .fp32 .fp64 beta) t)))

/-- What an update takes from its step and group. -/
structure UpdateCtx where
  g : Group
  /-- n × 2^L -/
  d : Nat
  k1 : Nat
  k2 : Nat
  c1 : Nat
  c2 : Nat
  seed : Nat
  step : Nat
  deriving Repr

/-- FP32 1.0. -/
def one32 : Nat := 0x3F800000

/-- The context of an update (R159, R166, R167). -/
def UpdateCtx.make (g : Group) (n : Nat) (l : Int) (t seed step : Nat) : UpdateCtx :=
  { g := g, d := encodeNum .fp32 false (.fin false n l), k1 := fSub .fp32 one32 g.beta1, k2 := fSub .fp32 one32 g.beta2
    c1 := biasCorrection g.beta1 t, c2 := biasCorrection g.beta2 t, seed := seed, step := step }

/-- A master and its moments. -/
structure Param where
  w : Nat
  m1 : Nat
  m2 : Nat
  deriving DecidableEq, Repr

/-- The update of one parameter with global index `b` and reduced gradient `G` (R166). -/
def UpdateCtx.run (x : UpdateCtx) (b : Nat) (p : Param) (grad : Nat) : Param :=
  let g := fDiv .fp32 grad x.d
  let m1 := fFma .fp32 x.g.beta1 p.m1 (fMul .fp32 x.k1 g)
  let m2 := fFma .fp32 x.g.beta2 p.m2 (fMul .fp32 x.k2 (fMul .fp32 g g))
  let h1 := fMul .fp32 m1 x.c1
  let h2 := fMul .fp32 m2 x.c2
  let u := fDiv .fp32 h1 (fAdd .fp32 (fSqrt .fp32 h2) x.g.eps)
  let v := fFma .fp32 x.g.decay p.w u
  let e := fMul .fp32 x.g.lrMant v
  let y := (decodeFloat .fp32 p.w).sub ((decodeFloat .fp32 e).scale x.g.lrExp)
  let w := if x.g.stochastic then (roundStochastic y (randomWord x.seed b x.step 0)).toNat else encodeNum .fp32 false y
  { w := w, m1 := m1, m2 := m2 }

/-- The words that an update reads of one moment, from its stored form. -/
def momentsOf (f : Fmt) (asFp32 : Bool) (b : Bytes) (n : Nat) : List Nat :=
  if asFp32 then elemsOf .fp32 b n
  else (((List.range (ceilDiv n 64)).map fun i => m8Block f (b.drop (68 * i))).flatten).take n

/-- The stored form of one moment's values. -/
def momentBytes (f : Fmt) (asFp32 : Bool) (vs : List Nat) : Bytes :=
  if asFp32 then packElems .fp32 vs
  else ((List.range (ceilDiv vs.length 64)).map fun i => m8Encode f ((vs.drop (64 * i)).take 64)).flatten

/-- Bytes of `n` moments in a form. -/
def momentSize (asFp32 : Bool) (n : Nat) : Nat := if asFp32 then 4 * n else 68 * ceilDiv n 64

/-- What an update computes: parameters, and the bytes of masters, moments and working copy. -/
def UpdateCtx.all (x : UpdateCtx) (base : Nat) : Nat → List Param → List Nat → List Param
  | i, p :: ps, g :: gs => x.run (base + i) p g :: UpdateCtx.all x base (i + 1) ps gs
  | _, _, _ => []

/-- Parameters from lists of masters and moments. -/
def paramsOf : List Nat → List Nat → List Nat → List Param
  | w :: ws, a :: as, b :: bs => { w := w, m1 := a, m2 := b } :: paramsOf ws as bs
  | _, _, _ => []

/-- U and W of an update (R175). -/
def updateSums : List Param → List Param → SquareAcc × SquareAcc
  | o :: os, n :: ns =>
    let r := updateSums os ns
    (sqEnter r.1 (fSub .fp32 n.w o.w), sqEnter r.2 n.w)
  | _, _ => (sqZero, sqZero)

/-- The fingerprint terms of masters (R361). -/
def masterPrint (base : Nat) : Nat → List Param → U64
  | _, [] => 0
  | i, p :: ps => fingerprintTerm (base + i) (BitVec.ofNat 32 p.w) + masterPrint base (i + 1) ps

/-- The included count n of a step, V until INCLUDE has given it (R159; log entry 23). -/
def Job.includedCount (b : Job) (step : Nat) : Nat :=
  match b.strag.included with
  | some (s, n, _) => if s = step then n else b.width
  | none => b.width

/-- The context of an update for a job and a group, as the group's entry stands in the agent's epoch (R168). -/
def State.updateCtx (s : State) (j : Nat) (entry : Bytes) (prov : Bool) : UpdateCtx :=
  let b := s.job j
  let step := b.train.epochReg
  UpdateCtx.make (Group.ofBytes entry) (b.includedCount step) (b.train.lossOf step)
    (if prov then b.train.updates + 1 else b.train.updates) b.seed step

/-- An agent's accesses for an update: reads and writes of stretches, in memory of one kind. -/
structure UpdateIO where
  rd : State → Nat → Nat → Got
  wr : State → Nat → Bytes → Got

/-- Reads of a list of stretches. -/
def UpdateIO.reads (io : UpdateIO) : List (Nat × Nat) → State → List Bytes → Got × List Bytes
  | [], s, acc => (.ok [] s, acc.reverse)
  | (a, n) :: r, s, acc => match io.rd s a n with
    | .ok b s => UpdateIO.reads io r s (b :: acc)
    | g => (g, [])

/-- Writes of a list of stretches. -/
def UpdateIO.writes (io : UpdateIO) : List (Nat × Bytes) → State → Got
  | [], s => .ok [] s
  | (a, b) :: r, s => match io.wr s a b with
    | .ok _ s => UpdateIO.writes io r s
    | g => g

/-- What the update leaves for the record: sums and fingerprint terms (R130, R175, R362). -/
def State.noteUpdate (s : State) (t : TaskRef) (d : OptDesc) (old new : List Param) : State :=
  let u := updateSums old new
  let slot := (s.task t).bind fun k => k.decl.fpSlot
  s.setTrain t.job fun x => { x with
    sums := addSums x.sums d.group u.1 u.2
    fingerprints := match slot with
      | some n => addSlot x.fingerprints n (masterPrint d.base 0 new)
      | none => x.fingerprints }

/-- A descriptor carried out (R130, R164 to R167). -/
def State.runUpdate (s : State) (io : UpdateIO) (t : TaskRef) (prov : Bool) (d : OptDesc) : Got :=
  if d.count = 0 then .ok [] s
  else
    let r32 := bitOf d.forms 0
    let w32 := bitOf d.forms 1
    match s.readDev t.job prov ((s.job t.job).groupTable + 32 * d.group) 32 with
    | .ok entry s =>
      match io.reads [(d.master, 4 * d.count), (d.m1, momentSize r32 d.count), (d.m2, momentSize r32 d.count),
          (d.grad, 4 * d.count)] s [] with
      | (.ok _ s, [mb, ab, bb, gb]) =>
        let old := paramsOf (elemsOf .fp32 mb d.count) (momentsOf .m8s r32 ab d.count) (momentsOf .m8u r32 bb d.count)
        let new := (s.updateCtx t.job entry prov).all d.base 0 old (elemsOf .fp32 gb d.count)
        let work := match Fmt.ofCode d.workFmt with
          | some f => if d.workFmt = 0 then [] else [(d.work, packElems f (new.map fun p => fCast .fp32 f p.w))]
          | none => []
        match io.writes ([(d.master, packElems .fp32 (new.map (·.w))), (d.m1, momentBytes .m8s w32 (new.map (·.m1))),
            (d.m2, momentBytes .m8u w32 (new.map (·.m2)))] ++ work) s with
        | .ok _ s => .ok [] (s.noteUpdate t d old new)
        | g => g
      | (g, _) => g
    | g => g

/-- A descriptor that breaks R129, R164 or R165: reserved bits, the working format, the group, alignment, and M8 moments off
their 64-parameter blocks. -/
def OptDesc.bad (d : OptDesc) : Bool :=
  d.reserved || !d.workOk || decide (d.group > 4095) || d.master % 64 != 0 || (d.forms % 4 != 3 && d.base % 64 != 0)

/-- OPTUPD (R164, R166): the vector engine carries out an optimiser descriptor in the core's workspace. -/
def doOptupd (t : TaskRef) (off : Nat) (s0 : State) : State :=
  match s0.issue t with
  | none => s0
  | some (k, s) =>
    if off % 64 ≠ 0 then s0
    else match s.readWs t k off 64 with
      | .ok b s =>
        let d := OptDesc.ofOpt b
        if d.bad then s.faultStop t.job stBadParam true
        else
          let io : UpdateIO := { rd := fun s a n => s.readWs t k a n, wr := fun s a b => s.writeWs t k a b }
          match s.runUpdate io t k.prov d with
          | .ok _ s => s.signalLine t k d.signal d.line
          | g => s0.unitFail t (.optupd t off) g
      | g => s0.unitFail t (.optupd t off) g

/-- OPTUPD. -/
def execOptupd (t : TaskRef) (off : Nat) (s : State) : Host.Outcome State Fault Refusal := s.become (doOptupd t off s)

/-- Whether [a, a + n) lies in a stack and in one grant of the job (R129). -/
def Job.inStack (b : Job) (stack a n : Nat) : Bool :=
  n == 0 || (a / 0x10_0000_0000 == stack && (a + n - 1) / 0x10_0000_0000 == stack &&
    (match b.grantAt a with
      | some g => decide (a + n ≤ g.addr + g.decl.blocks * blockBytes)
      | none => false))

/-- A descriptor of a unit that breaks R129. -/
def Job.updateBad (b : Job) (stack : Nat) (d : OptDesc) : Bool :=
  d.bad || d.m1 % 64 != 0 || d.m2 % 64 != 0 || d.grad % 64 != 0 ||
    !([d.master, d.m1, d.m2, d.grad].all fun a => b.inStack stack a (4 * d.count)) ||
    (d.workFmt != 0 && !(match Fmt.ofCode d.workFmt with
      | some f => b.inStack stack d.work (f.size * d.count)
      | none => false))

/-- UPDATE (R129): the unit of a stack reads the descriptor and queues it behind at most 63 others. -/
def doUpdate (t : TaskRef) (stack off : Nat) (s0 : State) : State :=
  match s0.issue t with
  | none => s0
  | some (k, s) =>
    if stack ≥ 12 then s0
    else if ((s.hbm.getD stack {}).queue.length) ≥ 64 then s0.hold (.task t) (.update t stack off)
    else match s.readWs t k off 64 with
      | .ok b s =>
        if (s.job t.job).updateBad stack (OptDesc.ofUpdate b) then s.faultStop t.job stBadParam true
        else { s with hbm := s.hbm.modify stack fun h => { h with queue := h.queue ++ [{ task := t, desc := b, prov := k.prov }] } }
      | g => s0.unitFail t (.update t stack off) g

/-- UPDATE. -/
def execUpdate (t : TaskRef) (stack off : Nat) (s : State) : Host.Outcome State Fault Refusal := s.become (doUpdate t stack off s)

/-- UPDATE_DESCRIPTOR_RUN (R129, R130, R132): a unit carries out the first queued descriptor of a running job. -/
def doUpdateDescriptorRun (stack : Nat) (s0 : State) : State :=
  match (s0.hbm.getD stack {}).queue.find? fun q => (s0.job q.task.job).live with
  | none => s0
  | some q =>
    let d := OptDesc.ofUpdate q.desc
    let j := q.task.job
    let io : UpdateIO := { rd := fun s a n => s.readDev j q.prov a n, wr := fun s a b => s.writeDev j q.prov a b }
    match s0.runUpdate io q.task q.prov d with
    | .ok _ s =>
      let s := { s with hbm := s.hbm.modify stack fun h => { h with queue := h.queue.erase q } }
      if d.signal then s.pulse j (stack / 3) d.line 1 else s
    | .wait => s0.hold .other (.updateDescriptorRun stack)
    | _ => s0.faultStop j stUncorrectable true

/-- UPDATE_DESCRIPTOR_RUN. -/
def execUpdateDescriptorRun (stack : Nat) (s : State) : Host.Outcome State Fault Refusal := s.become (doUpdateDescriptorRun stack s)

end Sys2Proof.Machine
end

