-- ==== Sys2Proof/Machine/Flags.lean ====
section
/-! DEFINITION. Status registers as values: channel status (R108, R109), the register window with its identity, keeper,
doorbell, mailbox, ward and health blocks (R286, R287, R306 to R308, R358, R376, R393), and the pins that follow from the
state (R359, R420, R422 to R424). -/

namespace Sys2Proof.Machine

/-! ## Channels -/

/-- CH_STATUS (R108). -/
def Chan.status (c : Chan) : Nat :=
  c.failAddr % 2 ^ 52 * 2 ^ 12 + (if c.failDir then 2 ^ 11 else 0) + c.cause % 8 * 2 ^ 8 + c.state % 8 * 2 ^ 5 +
    (if c.skip then 2 ^ 4 else 0) + (if c.skipped then 2 ^ 3 else 0) + (if c.markFail then 2 ^ 2 else 0)

/-- CH_PC (R109). -/
def Chan.pcReg (c : Chan) : Nat := c.pc / 32 * 32 % 2 ^ 52 * 2 ^ 12 + c.loops.length % 8 * 2 ^ 9

/-! ## Identity (R307) -/

/-- Cores enabled by grade. -/
def Ident.cores (i : Ident) : Nat := Config.coreSlots - i.disabled.length

/-- CORE_MAP word `n`. -/
def Ident.coreMap (i : Ident) (n : Nat) : Nat :=
  maskOf ((List.range 64).filter fun b => !i.disabled.contains (64 * n + b))

/-- The identity block's registers. -/
def State.identReg (s : State) (off : Nat) : Nat :=
  match off with
  | 0x0000 => s.ident.cores * 2 ^ 32 + s.ident.grade * 2 ^ 24 + s.ident.stepping * 2 ^ 16 + Config.family.toNat
  | 0x0008 => s.ident.signature.toNat
  | 0x0010 => s.ident.device.toNat
  | 0x0018 => s.ident.serial.toNat
  | 0x0020 => s.ident.coreMap 0
  | 0x0028 => s.ident.coreMap 1
  | 0x0030 => s.ident.coreMap 2
  | 0x0038 => s.fw.keeperVersion % 2 ^ 32 * 2 ^ 32 + s.fw.nerurVersion % 2 ^ 32
  | _ => 0

/-! ## Keeper (R358) -/

/-- Byte `d` the domain state of die `d`. -/
def State.dieStates (s : State) : Nat := leNat (s.dies.map fun d => BitVec.ofNat 8 d.domain)

/-- KP_STATE. -/
def State.kpState (s : State) : Nat :=
  s.keeper.device * 2 ^ 48 + s.keeper.management * 2 ^ 40 + s.keeper.switrak * 2 ^ 32 + s.dieStates

/-- VALID, LOCKED and BULK_BUSY in bits 0 to 2. -/
def Dump.bits (d : Dump) : Nat := (if d.valid then 1 else 0) + (if d.locked then 2 else 0) + (if d.bulk.isSome then 4 else 0)

/-- KP_DUMP. -/
def Dump.reg (d : Dump) : Nat := d.id % 2 ^ 32 * 2 ^ 32 + sat16 d.dropped * 2 ^ 16 + d.trigger % 16 * 2 ^ 12 + d.bits

/-- The keeper block's registers. -/
def State.keeperReg (s : State) (off : Nat) : Nat :=
  match off with
  | 0x1000 => s.kpState
  | 0x1008 => s.keeper.logSeq
  | 0x1010 => s.keeper.dump.reg
  | 0x1018 => s.keeper.dump.done
  | 0x1020 => s.keeper.lastCause * 2 ^ 24 + s.keeper.lastKind * 2 ^ 16 + s.keeper.lastIndex
  | 0x1028 => s.keeper.event % 32
  | 0x1030 => s.keeper.time
  | _ => 0

/-! ## Doorbells (R286, R287) -/

/-- RING_CFG. -/
def Ring.cfg (q : Ring) : Nat :=
  q.base / 4096 * 4096 % 2 ^ 64 + q.state % 4 * 2 ^ 10 + (if q.quiet then 2 ^ 9 else 0) + q.size % 16 * 2 ^ 4 + q.cause % 8 * 2 +
    (if q.enable then 1 else 0)

/-! ## Mailbox (R308) -/

/-- MB_STATUS. -/
def Mailbox.status (m : Mailbox) : Nat :=
  m.seq % 256 * 2 ^ 8 + (if m.refused then 4 else 0) + (if m.done then 2 else 0) + (if m.busy then 1 else 0)

/-! ## Ward status (R393) -/

/-- The bank that booted. -/
def Firmware.bank (f : Firmware) (n : Nat) : Bank := if n = 0 then f.bank0 else f.bank1

/-- The ward status block's registers. -/
def State.wardReg (s : State) (off : Nat) : Nat :=
  match off with
  | 0x4000 => s.fw.trips % 128
  | 0x4008 => s.fw.security % 2 ^ 32 * 2 ^ 32 + s.fw.floor % 256 * 2 ^ 24 + (s.fw.bank s.fw.booted).strikes % 4 * 2 ^ 4 +
      (if s.fw.owner.isSome then 8 else 0) + (if s.fw.recovery then 4 else 0) +
      (if (s.fw.bank (1 - s.fw.booted)).failed then 2 else 0) + s.fw.booted % 2
  | 0x4010 => match s.fw.deviceSet with
    | some d => d.2.length * 2 ^ 32 + d.1 % 2 ^ 32
    | none => 0
  | 0x4018 => s.power.cap % 65536 * 2 ^ 32 + s.power.window % 65536 * 2 ^ 16 + sat16 s.power.clamps
  | _ => 0

/-! ## Health (R376) -/

/-- The patina score (R373). -/
def Health.score (h : Health) : Nat := h.acc / 1024

/-- HS_FENCED word `n`. -/
def State.fencedWord (s : State) (n : Nat) : Nat := maskOf ((List.range 64).filter fun b => (s.core (64 * n + b)).fenced)

/-- Seconds of active time until the earliest due test of an enabled core in service (R369, R376). -/
def State.dueSeconds (s : State) : Nat :=
  let act := ((List.range Config.coreSlots).filter fun c => s.inService c).map fun c => (s.core c).activeUs
  28800 - min 28800 (act.foldl max 0 / 1000000)

/-- The health block's registers. -/
def State.healthReg (s : State) (off : Nat) : Nat :=
  match off with
  | 0x5000 => (if s.health.retire then 2 ^ 33 else 0) + (if s.health.worn then 2 ^ 32 else 0) + s.health.score
  | 0x5008 => s.fencedWord 0
  | 0x5010 => s.fencedWord 1
  | 0x5018 => s.fencedWord 2
  | 0x5020 => s.health.recompute * 2 ^ 48 + s.health.fingerprint * 2 ^ 32 + s.health.transient * 2 ^ 16 + s.health.fences
  | 0x5028 => s.dueSeconds
  | _ => 0

/-! ## The window as bytes (R306) -/

/-- Byte `o` of the mailbox block. -/
def Mailbox.byteAt (m : Mailbox) (o : Nat) : Byte :=
  if o < 0x20 then m.header.getD o 0
  else if o < 0x60 then m.param.getD (o - 0x20) 0
  else if 0x68 ≤ o ∧ o < 0x6C then (toLe 4 m.status).getD (o - 0x68) 0
  else if 0x80 ≤ o ∧ o < 0xA0 then m.reply.getD (o - 0x80) 0
  else if 0x100 ≤ o ∧ o < 0x1000 then m.data.getD (o - 0x100) 0
  else 0

/-- Byte `o` of the doorbell block: RING_CFG and HEAD; DOORBELL is write-only and reads zero. -/
def State.doorbellByte (s : State) (o : Nat) : Byte :=
  if o < 0x840 then
    let q := s.ring (o / 16)
    (toLe 8 q.cfg ++ toLe 4 0 ++ toLe 4 q.head).getD (o % 16) 0
  else 0

/-- Byte `o` of the register window; reserved locations read zero. -/
def State.windowByte (s : State) (o : Nat) : Byte :=
  let word := fun (v : Nat) => (toLe 8 v).getD (o % 8) 0
  if o < 0x1000 then word (s.identReg (o / 8 * 8))
  else if o < 0x2000 then word (s.keeperReg (o / 8 * 8))
  else if o < 0x3000 then s.doorbellByte (o - 0x2000)
  else if o < 0x4000 then s.keeper.mailbox.byteAt (o - 0x3000)
  else if o < 0x5000 then word (s.wardReg (o / 8 * 8))
  else if o < 0x6000 then word (s.healthReg (o / 8 * 8))
  else 0

/-! ## Pins -/

/-- ALERT_N is low (R359). -/
def State.alertLow (s : State) : Bool := s.keeper.event != 0

/-- PGOOD is asserted: the device domain runs (R421). -/
def State.pgood (s : State) : Bool := s.power.input && s.keeper.device == 0

/-- THERM_N is low (R422). -/
def State.thermLow (s : State) : Bool := s.keeper.therm

/-- EVT_OUT0 is low: a laser is enabled (R424). -/
def State.evtOut0Low (s : State) : Bool := s.keeper.switrakLaser || s.fabric.ports.any fun p => p.laser

/-- EVT_OUT1 is low: WORN or RETIRE is set (R424). -/
def State.evtOut1Low (s : State) : Bool := s.power.input && (s.health.worn || s.health.retire)

end Sys2Proof.Machine
end

