-- ==== Sys2Proof/Machine/Commands.lean ====
section
/-! DEFINITION. Ring commands: the opcode map and header checks (R291, R294, R302), the order of commands (R301), the job
states that accept them (R312), and NOP, JOB_CONFIGURE, JOB_WAIT and DET_ENFORCE (R278, R302 to R305). -/

namespace Sys2Proof.Machine

/-! ## The opcode map (R302) -/

/-- Classes an opcode allows, and whether it takes a job context and the device; none outside the map. -/
def opcodeRow (op : Nat) : Option (List Nat × Bool × Bool) :=
  match op with
  | 0x0001 => some ([0, 1, 2], true, true)
  | 0x0003 | 0x0004 | 0x0005 | 0x0008 | 0x0010 => some ([2], false, true)
  | 0x0009 => some ([2], true, true)
  | 0x0101 | 0x0102 | 0x0103 | 0x0104 | 0x0105 | 0x0106 | 0x0107 | 0x0108 | 0x0109 => some ([2], true, false)
  | 0x010A => some ([1, 2], true, false)
  | 0x0201 | 0x0202 | 0x0203 => some ([0, 2], true, false)
  | 0x0301 | 0x0302 | 0x0303 | 0x0304 | 0x0305 => some ([2], false, true)
  | 0x0310 | 0x0311 | 0x0312 | 0x0313 => some ([2], true, false)
  | 0x0401 | 0x0402 | 0x0403 | 0x0404 => some ([0, 1], true, false)
  | 0x0501 => some ([1, 2], true, false)
  | 0x0601 | 0x0602 => some ([2], false, true)
  | 0x0F01 | 0x0F02 | 0x0F03 | 0x0F04 | 0x0F05 | 0x0F06 | 0x0F07 | 0x0F08 => some ([3], false, true)
  | _ => none

/-- Class of a queue (R284). -/
def queueClass (q : Nat) : Nat := if q ≥ 128 then 2 else q % 2

/-- The header checks of R294 and R292. -/
def Cmd.headerBad (c : Cmd) : Bool :=
  let q := c.ref.queue
  c.cls != queueClass q || (decide (q < 128) && c.job != q / 2) || (decide (64 ≤ c.job) && c.job != 0xFFFF) ||
    (match opcodeRow c.opcode with
      | some (cs, job, dev) => !cs.contains c.cls || (if c.job = 0xFFFF then !dev else !job)
      | none => false) ||
    decide (c.flags > 3) || c.replyAddr % 32 != 0 || c.pointerBad

/-- Commands of the per-job order (R301). -/
def jobOrdered (op : Nat) : Bool :=
  (decide (0x0101 ≤ op) && decide (op ≤ 0x0109)) || (decide (0x0201 ≤ op) && decide (op ≤ 0x0203)) ||
    (decide (0x0310 ≤ op) && decide (op ≤ 0x0312)) || op == 0x0501

/-- Commands carried out one at a time device-wide (R301). -/
def deviceOrdered (op : Nat) : Bool := op == 0x0010 || op == 0x0008 || op == 0x0005

/-- Commands that change a job's settings, ordered with those (R301, R303). -/
def settingOp (op : Nat) : Bool := op == 0x0101 || op == 0x0103 || op == 0x0107

/-- Whether an earlier command of the reading order holds back a later one (R301). -/
def holdsBack (a b : Cmd) : Bool :=
  (jobOrdered a.opcode && jobOrdered b.opcode && a.job == b.job) ||
    (deviceOrdered a.opcode && (deviceOrdered b.opcode || settingOp b.opcode)) ||
    (settingOp a.opcode && deviceOrdered b.opcode)

/-- The commands read before one, in the order of reading. -/
def HostIf.before (h : HostIf) (r : CmdRef) : List CmdRef := h.order.takeWhile fun x => !(x == r)

/-- Whether a command must wait under R301. -/
def State.mustWait (s : State) (c : Cmd) : Bool :=
  let earlier := ((s.ring c.ref.queue).cmds.filter fun x => x.ref.enabling == c.ref.enabling).takeWhile fun x => !(x.ref == c.ref)
  let earlier := earlier.filter fun x => !x.timedOut
  (earlier.any fun x => !x.begun && !x.ended) ||
    (bitOf c.flags 1 && !earlier.isEmpty) ||
    ((s.host.before c.ref).any fun r => match s.cmd r with
      | some x => holdsBack x c
      | none => false)

/-- What a job state says of a command (R312). -/
inductive Accept where
  | yes
  | waits
  | no
  deriving DecidableEq, Repr

/-- The table of R312. -/
def jobAccepts (st op : Nat) : Accept :=
  if op = 0x0001 then .yes
  else if op = 0x010A ∨ op = 0x0313 ∨ op = 0x0404 ∨ op = 0x0009 then (if st = 0 then .no else .yes)
  else match st with
    | 0 => if op = 0x0101 then .yes else .no
    | 2 => if op = 0x0101 ∨ op = 0x0312 then .no else .yes
    | 3 => if [0x0105, 0x0106, 0x0108, 0x0109, 0x0501, 0x0312, 0x0201, 0x0202, 0x0203, 0x0401, 0x0402, 0x0403].contains op
        then .yes else .no
    | 4 | 5 | 6 => .waits
    | 7 => if [0x0105, 0x0103, 0x0311, 0x0107, 0x0109, 0x0102].contains op then .yes else .no
    | 8 => if op = 0x0107 ∨ op = 0x0102 then .yes else .no
    | _ => .no

/-- A command marked as begun (R300). -/
def State.begin (s : State) (r : CmdRef) : State :=
  s.setRing r.queue fun q => { q with cmds := q.cmds.map fun (x : Cmd) => if x.ref = r then { x with begun := true } else x }

/-- A command that waits, kept once. -/
def State.holdCmd (s : State) (r : CmdRef) (i : Instr) : State := if s.holds (.cmd r) then s else s.hold (.cmd r) i

/-- A reset under way will stop the job (R347, R432). -/
def State.resetStops (s : State) (j : Nat) : Bool := s.keeper.resets.any fun x => x.stage == 1 && x.jobs.contains j

/-- A core that a reset of it or of its die holds (R432). -/
def State.coreInReset (s : State) (c : Nat) : Bool :=
  s.keeper.resets.any fun x => x.domain == coreDomain c || x.domain == dieDomain (dieOf c)

/-- Commands that the recovery state accepts (R384). -/
def recoveryOp (op : Nat) : Bool := op == 0x0001 || op == 0x0003 || op == 0x0004 || op == 0x0005

/-- Whether commands are carried out: Nerur runs, or the keeper in the recovery state (R384). -/
def State.takesCommands (s : State) : Bool := s.keeper.management == 0 || s.fw.recovery

/-- A command's row: an opcode outside R302 or a bad header is answered whichever row takes it up; another opcode is not this
row's; a job that a reset will stop refuses with FENCED; a command that must wait is kept; else it begins. -/
def cmdRow (r : CmdRef) (op : Nat) (i : Instr) (act : Cmd → State → State) (s : State) : State :=
  match s.cmd r with
  | none => s
  | some c =>
    if !s.takesCommands ∨ c.begun then s
    else if (opcodeRow c.opcode).isNone then s.reply r stBadOpcode 0 0
    else if c.headerBad then s.reply r stBadParam 0x00FFFFFF 0
    else if c.opcode ≠ op then s
    else if s.resetStops c.job then s.reply r stFenced 0 0
    else if s.fw.recovery ∧ !recoveryOp op then s.reply r stBadState (s.ring r.queue).state 0
    else if s.mustWait c ∨ (c.job ≠ 0xFFFF ∧ jobAccepts (s.job c.job).state op = .waits) then s.holdCmd r i
    else act c (s.begin r)

/-- Checks in the order of R298: condition that fails, status, detail. -/
abbrev Checks := List (Bool × Nat × Nat)

/-- The first check that fails. -/
def firstBad : Checks → Option (Nat × Nat)
  | [] => none
  | (b, st, d) :: r => if b then some (st, d) else firstBad r

/-- A command that passes its checks acts; else it is answered with the first failure and changes nothing (R298);
with WARD_BLOCKED the detail in the list is the ward that refuses (R391). -/
def State.checked (s : State) (r : CmdRef) (cs : Checks) (act : State → State) : State :=
  match firstBad cs with
  | some (st, d) => if st = stWard then (s.wardTrip d).reply r stWard 0 0 else s.reply r st d 0
  | none => act s

/-- A byte beyond a layout of `n` bytes that is not zero (R292). -/
def Cmd.beyond (c : Cmd) (n : Nat) : Bool × Nat × Nat :=
  match (List.range (c.params.length - n)).find? fun i => c.params.getD (n + i) 0 != 0 with
  | some i => (true, stBadParam, min (n + i) 0xFFFFFF)
  | none => (false, stBadParam, 0)

/-- A reserved field of `n` bytes that is not zero. -/
def Cmd.reserved (c : Cmd) (off n : Nat) : Bool × Nat × Nat := (c.p off n != 0, stBadParam, off)

/-- The state check of R312. -/
def Job.stateCheck (b : Job) (op : Nat) : Bool × Nat × Nat := (jobAccepts b.state op != .yes, stBadState, b.state % 256)

/-! ## NOP -/

/-- NOP (R302). -/
def execNop (r : CmdRef) (s : State) : Host.Outcome State Fault Refusal :=
  s.become (cmdRow r 0x0001 (.nop r) (fun c s => s.checked r [c.beyond 0] fun s => s.reply r stOk 0 0) s)

/-! ## JOB_CONFIGURE (R304) -/

/-- A setting block: offset of its header, type, body as given. -/
structure Block304 where
  off : Nat
  type : Nat
  body : Bytes
  deriving DecidableEq, Repr

/-- Layout bytes of a block type; none for an unknown type. -/
def blockSize : Nat → Option Nat
  | 1 => some 48
  | 2 => some 32
  | 3 => some 16
  | 4 => some 8
  | 5 => some 16
  | 6 => some 8
  | _ => none

/-- The blocks of a JOB_CONFIGURE, or the offset of the first field that breaks R304. -/
def parseBlocks : Nat → Nat → Bytes → List Block304 → Except Nat (List Block304)
  | 0, _, _, acc => .ok acc
  | n + 1, off, b, acc =>
    if b.isEmpty then .ok acc
    else
      let type := fieldN b 0 2
      let len := fieldN b 4 4
      match blockSize type with
      | none => .error off
      | some size =>
        if fieldN b 2 2 ≠ 0 then .error (off + 2)
        else if len % 8 ≠ 0 ∨ len > size ∨ 8 + len > b.length then .error (off + 4)
        else if acc.any fun x => x.type == type then .error off
        else parseBlocks n (off + 8 + len) (b.drop (8 + len)) (acc ++ [{ off := off, type := type, body := (b.drop 8).take len }])

/-- A body extended to its layout. -/
def Block304.full (x : Block304) : Bytes := sliceZ x.body 0 ((blockSize x.type).getD 0)

/-- Bytes of the largest record a job can write (R180). -/
def largestRecord (v groups prints : Nat) : Nat :=
  128 + roundUp (32 * v) 64 + roundUp (16 * groups) 64 + roundUp (8 * 256) 64 + roundUp (8 * v) 64 + roundUp (8 * prints) 64

/-- Whether [a, a + n) lies inside one far-tier window bound to the job (R122, R180, R329). -/
def Job.inWindow (b : Job) (a n : Nat) : Bool :=
  b.bindings.any fun w => w.kind == 2 && decide (w.first ≤ a) && decide (a + n ≤ w.first + w.size)

/-- Whether [a, a + n) lies inside one epoch region of the job in HBM (R180). -/
def Job.inEpochRegion (b : Job) (a n : Nat) : Bool :=
  b.grants.any fun g => g.decl.role == .epoch && decide (g.addr ≤ a) && decide (a + n ≤ g.addr + g.decl.blocks * blockBytes)

/-- Checks of the training block (R180): condition and offset within the body. -/
def Job.trainingBad (b : Job) (y : Bytes) : List (Bool × Nat) :=
  let l := signedOf (fieldN y 8 1) 8
  let ring := fieldN y 0x18 8
  let slots := fieldN y 0x20 4
  let sb := fieldN y 0x24 4
  let gc := fieldN y 0xA 2
  [(fieldN y 2 1 > 8, 2), (fieldN y 3 1 > 8, 3), (decide (l < -64) || decide (l > 64), 8), (fieldN y 9 1 > 1, 9), (gc > 4096, 0xA),
   (fieldN y 0xC 4 != 0, 0xC), (gc != 0 && !b.inEpochRegion (fieldN y 0x10 8) (32 * gc), 0x10),
   (ring != 0 && (ring % 64 != 0 || !b.inWindow ring (slots * sb)), 0x18),
   (ring != 0 && (sb % 64 != 0 || decide (sb < largestRecord b.width gc ((b.bin.map (·.fpClasses.length)).getD 0))), 0x24),
   (fieldN y 0x28 8 != 0, 0x28)]

/-- Checks of the straggler block (R256). -/
def Job.stragglerBad (b : Job) (strict : Bool) (y : Bytes) : List (Bool × Nat) :=
  let p := fieldN y 0 1
  let f := fieldN y 1 1
  let replay := bitOf f 1
  [(p > 2 || (strict && p != 0) || (p == 1 && !b.grants.any fun g => g.decl.role == .deferral), 0),
   (f > 3 || (strict && bitOf f 0) || (replay && bitOf f 0), 1), (fieldN y 2 2 != 0, 2),
   (replay && (fieldN y 8 8 == 0 || !b.inWindow (fieldN y 8 8) (fieldN y 0x10 8)), 8), (fieldN y 0x18 8 != 0, 0x18)]

/-- Whether a task's binary contains VRNDU (R73, R277). -/
def Binary.hasVrndu (x : Binary) : Bool := x.tasks.any fun t => t.vectors.any fun w => fieldN w 0 1 == 0x69

/-- Whether a job has an UNORDERED context (R225). -/
def Job.unordered (b : Job) : Bool := b.colls.any fun c => bitOf c.decl.flags.toNat 1

/-- Checks of the reproducibility block (R277). -/
def Job.reproBad (b : Job) (strict : Bool) (y : Bytes) : List (Bool × Nat) :=
  [(fieldN y 8 1 > 1 || (strict && bitOf (fieldN y 8 1) 0 && ((b.bin.map (Binary.hasVrndu ·)).getD false || b.unordered)), 8),
   (!allZero (sliceZ y 9 7), 9)]

/-- Checks of one block by its type. -/
def Job.blockBad (b : Job) (strict : Bool) (x : Block304) : List (Bool × Nat) :=
  let y := x.full
  match x.type with
  | 1 => b.trainingBad y
  | 2 => b.stragglerBad strict y
  | 3 => b.reproBad strict y
  | 4 => [(!(fieldN y 0 1 == 0 || (decide (6 ≤ fieldN y 0 1) && decide (fieldN y 0 1 ≤ 12))), 0), (!allZero (sliceZ y 1 7), 1)]
  | 5 => [(fieldN y 0 4 != 0 && !(decide (5000 ≤ fieldN y 0 4) && decide (fieldN y 0 4 ≤ 50000)), 0), (fieldN y 4 1 > 64, 4),
      (!allZero (sliceZ y 5 11), 5)]
  | _ => [(fieldN y 4 4 != 0, 4)]

/-- A job with blocks applied: a setting that no block names, or whose block is empty, keeps its value (R304). -/
def Job.configured (b : Job) (xs : List Block304) : Job :=
  let given := xs.filter fun x => !x.body.isEmpty
  let b := { b with settings := (b.settings.filter fun o => !given.any fun x => x.type == o.1) ++ given.map fun x => (x.type, x.full) }
  let b := match given.find? fun x => x.type == 6 with
    | some x => { b with budget := fieldN x.full 0 4 }
    | none => b
  match given.find? fun x => x.type == 1 with
  | some x =>
    let l := signedOf (fieldN x.full 8 1) 8
    if b.train.fresh then { b with train := { b.train with loss := l, lossNext := l, lossPrev := l } } else b
  | none => b

/-- The block of a type as it would be in force. -/
def Job.blockThen (b : Job) (xs : List Block304) (type : Nat) : Bytes := (b.configured xs).block type

/-- Conflicts between the blocks, the settings in force and the binary when DET_STRICT would be set (R277); the offset of the
field that brings it: DET_STRICT, else the straggler policy. -/
def Job.conflict (b : Job) (enforced : Bool) (xs : List Block304) : Option Nat :=
  let c := b.configured xs
  let strict := c.strict || enforced
  if strict && ((b.bin.map (Binary.hasVrndu ·)).getD false || b.unordered || c.policy != 0 || c.ledgerOff) then
    some (match xs.find? fun x => x.type == 3 && !x.body.isEmpty with
      | some x => x.off + 16
      | none => ((xs.find? fun x => x.type == 2).map fun x => x.off + 8).getD 0)
  else none

/-- JOB_CONFIGURE (R303, R304): all blocks together or none. -/
def doJobConfigure (r : CmdRef) (c : Cmd) (s : State) : State :=
  let b := s.job c.job
  match parseBlocks (c.params.length + 1) 0 c.params [] with
  | .error o => s.checked r [(true, stBadParam, min o 0xFFFFFF)] id
  | .ok xs =>
    let strict := (b.configured xs).strict || s.keeper.detEnforced
    let bad := (xs.filter fun x => !x.body.isEmpty).flatMap fun x => (b.blockBad strict x).map fun y => (y.1, stBadParam, x.off + 8 + y.2)
    s.checked r (bad ++ [match b.conflict s.keeper.detEnforced xs with
        | some o => (!xs.isEmpty, stBadParam, o)
        | none => (false, stBadParam, 0),
      b.stateCheck 0x0103]) fun s => (s.setJob c.job fun b => b.configured xs).reply r stOk 0 0

/-- JOB_CONFIGURE. -/
def execJobConfigure (r : CmdRef) (s : State) : Host.Outcome State Fault Refusal :=
  s.become (cmdRow r 0x0103 (.jobConfigure r) (doJobConfigure r) s)

/-! ## JOB_WAIT -/

/-- JOB_WAIT (R305): replies at once when the job is not running, else when it next leaves the running state. -/
def doJobWait (r : CmdRef) (c : Cmd) (s : State) : State :=
  let b := s.job c.job
  s.checked r [c.beyond 0, b.stateCheck 0x010A] fun s =>
    if b.state = 3 then s.setJob c.job fun b => { b with waits := b.waits ++ [r] }
    else s.reply r b.faultStatus b.state (b.train.committed.getD ones64)

/-- JOB_WAIT. -/
def execJobWait (r : CmdRef) (s : State) : Host.Outcome State Fault Refusal :=
  s.become (cmdRow r 0x010A (.jobWait r) (doJobWait r) s)

/-! ## DET_ENFORCE -/

/-- The first loaded job with DET_STRICT clear. -/
def State.notStrict (s : State) : Option Nat := (List.range 64).find? fun j => (s.job j).loaded && !(s.job j).strict

/-- DET_ENFORCE (R278). -/
def doDetEnforce (r : CmdRef) (c : Cmd) (s : State) : State :=
  let v := c.p 0 1
  s.checked r [(v > 2, stBadParam, 0), c.beyond 1, (v == 1 && s.notStrict.isSome, stBadState, s.notStrict.getD 0)] fun s =>
    let on := if v = 1 then true else if v = 2 then false else s.keeper.detEnforced
    (s.setKeeper fun k => { k with detEnforced := on }).reply r stOk (if on then 1 else 0) 0

/-- DET_ENFORCE. -/
def execDetEnforce (r : CmdRef) (s : State) : Host.Outcome State Fault Refusal :=
  s.become (cmdRow r 0x0010 (.detEnforce r) (doDetEnforce r) s)

end Sys2Proof.Machine
end

