-- ==== Sys2Proof/Machine/Transport.lean ====
section
/-! DEFINITION. Requests of this module to peers and to the far tier and how they end (R101, R198 to R201, R325), and what a
channel does on a bus error (R103 to R106). -/

namespace Sys2Proof.Machine

/-! ## Channels on errors -/

/-- The die of a channel: its own for a die channel, its task's for a core channel. -/
def Job.chanDie (b : Job) (c : Chan) : Nat :=
  if c.decl.die then c.owner else dieOf ((b.tasks[c.owner]?).map (·.home) |>.getD 0)

/-- The source domain of a channel's log entries. -/
def Job.chanDomain (b : Job) (c : Chan) : Domain :=
  if c.decl.die then dieDomain c.owner else coreDomain ((b.tasks[c.owner]?).map (·.core) |>.getD 0)

/-- Outstanding requests of a channel are given up: their answers change nothing any more. -/
def State.dropChan (s : State) (r : ChanRef) : State :=
  (s.setFabric fun f => { f with txns := f.txns.map fun (t : Txn) => if t.use = .chan r then { t with use := .dropped } else t }).setHost
    fun h => { h with far := h.far.map fun (q : FarReq) => match q.use with
      | .chanWrite x => if x = r then { q with use := .dropped } else q
      | .chanRead x _ => if x = r then { q with use := .dropped } else q
      | _ => q }

/-- A failure latched in a channel; its outstanding accesses finish without effect on it (R104). -/
def Chan.latch (c : Chan) (cause : Nat) (dir : Bool) (addr : Nat) : Chan :=
  { c with cause := cause, failDir := dir, failAddr := addr % 2 ^ 52, reads := 0, writes := 0, issued := false, remote := []
           wrote := false }

/-- A channel put in a state, whether it is saved or not. -/
def Chan.toState (c : Chan) (st : Nat) : Chan := if c.state = 4 then { c with savedState := st } else { c with state := st }

/-- The DMA_FAULT entry of a channel as it stands (R341). -/
def State.logChan (s : State) (r : ChanRef) (code : Nat) : State :=
  match s.chan r with
  | some c =>
    if code = 0x0202 then s.log code 3 ((s.job r.job).chanDomain c) r.job c.pcReg c.phys 0
    else s.log code 3 ((s.job r.job).chanDomain c) r.job c.status c.pcReg c.phys
  | none => s

/-- A channel halts on an error (R104, R106). -/
def State.haltChan (s : State) (r : ChanRef) (cause : Nat) (dir : Bool) (addr : Nat) : State :=
  ((s.dropChan r).setChan r fun c => (c.latch cause dir addr).toState 3).logChan r 0x0201

/-- The mark of a skipped MOVE: MARK set, MARK_DIR as the failure's direction (R105). -/
def markByte (old : Byte) (dir : Bool) : Byte := (old &&& 0x3F#8) ||| 0x80#8 ||| (if dir then 0x40#8 else 0#8)

/-- The byte at a device address as a channel sees it in memory, for a merge (R19, R105). -/
def State.peek (s : State) (j : Nat) (prov : Bool) (a : Nat) : Option Byte :=
  match s.resolve j true a with
  | .mem key => some (cellGet s.mem.cells ((s.job j).readHalf prov key))
  | _ => none

/-- A MOVE fails: the channel halts, or under SKIP marks the MOVE and goes on with the next instruction (R104, R105). -/
def State.moveFail (s : State) (r : ChanRef) (cause : Nat) (dir : Bool) (addr : Nat) : State :=
  match s.chan r with
  | none => s
  | some c =>
    if !c.skip then s.haltChan r cause dir addr
    else
      let s := ((s.dropChan r).setChan r fun c => { c.latch cause dir addr with skipped := true }).logChan r 0x0201
      let old := (s.peek r.job c.prov (c.pc + 31)).getD 0
      let fail := fun (s : State) (cause : Nat) =>
        (s.setChan r fun c => { (c.latch cause true (c.pc + 31)).toState 3 with markFail := true }).logChan r 0x0202
      match s.dmaWrite r.job c.prov (c.pc + 31) [markByte old dir] with
      | .ok _ s => s.setChan r Chan.advance
      | .err e => fail s e
      | .wait => match s.resolve r.job true (c.pc + 31) with
        | .mem key => match s.writeKey key [markByte old dir] with
          | some s => s.setChan r Chan.advance
          | none => fail s 3
        | _ => fail s 2
      | _ => fail s 2

/-! ## Transactions (R198 to R201) -/

/-- The port by which messages to a device leave. -/
def State.outPort (s : State) (dest : U32) : Option Nat :=
  match s.fabric.routes.find? fun r => r.device == dest with
  | some r => (s.fabric.firstOut r.route r.down).map (·.1)
  | none => none

/-- The next free tag of a port; none while 8,192 transactions are outstanding there (R200). -/
def Fabric.freeTag (f : Fabric) (p : Nat) : Option Nat :=
  let used := (f.txns.filter fun t => t.port == p).map (·.tag)
  if used.length ≥ 8192 then none
  else
    let n := f.nextTag.getD p 0
    ((List.range (used.length + 1)).map fun i => (n + i) % 8192).find? fun t => !used.contains t

/-- A request sent: the transaction is outstanding. None when it must wait for a tag; `some none` when no route leads there. -/
def State.request (s : State) (j : Nat) (prov : Option Nat) (use : TxnUse) (isWrite : Bool) (dest : U32) (addr window length : Nat)
    (data : Bytes) : Option (Option State) :=
  if s.withheld j dest then none
  else match s.outPort dest with
  | none => some none
  | some p =>
    match s.fabric.freeTag p with
    | none => none
    | some tag =>
      let h := headerOf s dest (if isWrite then 0x01 else 0x02) j tag addr length
      let h := match prov with
        | some step => { h with flags := 1, epochStep := BitVec.ofNat 16 step }
        | none => h
      let m : Msg := { hdr := h, content := data, bad := [] }
      match s.send (s.job j).msgClass m with
      | none => some none
      | some (_, s) => some (some (s.setFabric fun f => { f with
          txns := f.txns ++ [{ port := p, tag := tag, isWrite := isWrite, dest := dest, addr := addr, window := window
                               length := length, request := m, use := use }]
          nextTag := f.nextTag.set p ((tag + 1) % 8192) }))

/-- The cause that a NAK reason gives a channel (R199). -/
def nakCause (reason : Nat) : Nat := if reason = 1 then 4 else if reason = 7 then 3 else 5

/-- The status that a NAK reason gives a command (R199). -/
def nakStatus (reason : Nat) : Nat :=
  if reason = 1 then stFenced else if reason = 5 then stStale else if reason = 7 then stUncorrectable else stUnreachable

/-- RESHARD ends part-way: the old tables and layout again, the job LAYOUT_LOST (R235). -/
def State.reshardLost (s : State) (j status : Nat) : State :=
  match (s.job j).reshard with
  | none => s
  | some x =>
    if x.stage < 2 then (s.reply x.cmd status 0 0).setJob j fun b => { b with reshard := none }
    else
      let s := s.setJob j fun b => { b with
        reshard := none
        layout := x.plan.oldLayout
        tasks := if x.oldTasks.length = b.tasks.length then List.zipWith (fun (k : Task) d => { k with decl := d }) b.tasks x.oldTasks else b.tasks
        grants := if x.oldBytes.length = b.grants.length then
          List.zipWith (fun (g : Grant) n => { g with decl := { g.decl with bytes := n } }) b.grants x.oldBytes else b.grants
        colls := b.colls.map fun (c : Coll) => match x.oldColls.find? fun d => d.num == c.decl.num with
          | some d => { c with decl := d }
          | none => c }
      (s.enter j 8).reply x.cmd status 0 0

/-- A transaction ends in failure: its channel meets a bus error (R199, R200, R209). -/
def State.txnFail (s : State) (t : Txn) (cause : Nat) : State :=
  let s := s.setFabric fun f => { f with txns := f.txns.filter fun x => !(x.port == t.port && x.tag == t.tag) }
  match t.use with
  | .chan c => s.moveFail c cause t.isWrite t.window
  | .dropped => s

end Sys2Proof.Machine
end

