-- ==== Sys2Proof/Machine/Ports.lean ====
section
/-! DEFINITION. Fabric ports: failure (R209), retraining (R191 to R193), training (R182 to R185) and the port commands (R204,
R210, R211, R431). -/

namespace Sys2Proof.Machine

/-! ## Failure and retraining -/

/-- Whether a port is UP or in RETRAIN. -/
def Port.running (p : Port) : Bool := p.state == 2 || p.state == 3

/-- A message in transit that would have left by a failed port is discarded, and the source of a request is told where a route
leads back (R209). -/
def State.dropTransit (s : State) (p : Nat) (m : Msg) : State :=
  if m.hdr.source = s.ident.device ∨ (m.hdr.opcode ≠ 0x01 ∧ m.hdr.opcode ≠ 0x02) then s
  else
    let h := { headerOf s m.hdr.source 0x05 m.hdr.job m.hdr.tag m.hdr.address.toNat 0 with reason := 6, membership := m.hdr.membership }
    if s.outPort m.hdr.source = some p then s
    else match s.send 1 { hdr := h, content := [], bad := [] } with
      | some (_, s) => s
      | none => s

/-- Everything under way through a port ends (R209): its buffers are discarded, this module's transactions fail with REMOTE and
messages in transit are dropped. -/
def State.endPort (s : State) (p : Nat) : State :=
  let tx := (s.port p).link.tx
  let txns := s.fabric.txns.filter fun t => t.port == p
  let s := s.setPort p fun x => { x with link := {}, width := 0, laser := false }
  let s := txns.foldl (fun s t => (s.setCount p fun c => { c with unreachable := sat32 (c.unreachable + 1) }).txnFail t 5) s
  tx.foldl (fun s t => s.dropTransit p t.msg) s

/-- A port enters FAILED (R185, R209, R242, R341). -/
def State.portFail (s : State) (p cause : Nat) : State :=
  if (s.port p).state = 4 ∨ (s.port p).state = 0 then s
  else
    let far := (s.port p).neighbour
    let trained := (s.port p).rttNs != 0
    let s := s.setPort p fun x => { x with state := 4, cause := cause }
    let s := (s.endPort p).log 0x0107 2 (portDomain p) 0xFFFF cause 0 0
    if trained then s.suspectAll far 2 else s

/-- Link retries counted (R190, R208, R373). -/
def State.countRetries (s : State) (p n : Nat) : State :=
  if n = 0 then s
  else ((((s.setCount p fun c => { c with retries := sat32 (c.retries + n) }).setHealth fun h => { h with retries := h.retries + n }).setKeeper
    fun k => k.countCorrected (portDomain p) 0 n 0).patina n)

/-- A port leaves UP for RETRAIN, or fails at its fourth retrain within 10 ms (R191, R192, R373). -/
def State.retrain (s : State) (p : Nat) : State :=
  if (s.port p).state ≠ 2 then s
  else
    let now := s.keeper.time
    let times := ((s.port p).retrainTimes.filter fun t => decide (now < t + 10000)) ++ [now]
    let s := s.setPort p fun x => { x with
      state := 3, retrainTimes := times
      count := { x.count with retrains := sat32 (x.count.retrains + 1) }
      link := { x.link with retry := x.link.retry.map fun (f : SentFlit) => { f with resends := 0 } } }
    let s := ((s.setHealth fun h => { h with retrains := sat32 (h.retrains + 1) }).setKeeper
      fun k => k.countCorrected (portDomain p) 0 0 1).patina (2 * 1024)
    if times.length ≥ 4 then s.portFail p 1 else s

/-- Every held flit from a sequence number onwards is resent in order; each resend counts one retry, and the fourth of one flit
starts a retrain (R190, R191). -/
def State.resendFrom (s : State) (p seq : Nat) : State :=
  let held := (s.port p).link.retry
  let keep := held.takeWhile fun f => f.seq != seq
  let again := held.drop keep.length
  let s := s.setLink p fun l => { l with retry := keep ++ again.map fun (f : SentFlit) => { f with resends := f.resends + 1 } }
  let s := s.countRetries p again.length
  if again.any fun f => f.resends + 1 ≥ 4 then s.retrain p else s

/-! ## Training -/

/-- Whether lanes [lo, lo + n) are good. -/
def lanesOk (good lo n : Nat) : Bool := (List.range n).all fun i => bitOf good (lo + i)

/-- The widest width whose lanes are all good, the lowest-numbered half or quad among equals: width and first lane (R182). -/
def chooseWidth (good : Nat) : Option (Nat × Nat) :=
  if lanesOk good 0 16 then some (16, 0)
  else match [0, 8].find? fun lo => lanesOk good lo 8 with
    | some lo => some (8, lo)
    | none => ([0, 4, 8, 12].find? fun lo => lanesOk good lo 4).map fun lo => (4, lo)

/-- Lanes newly marked bad by a training (R211, R373). -/
def newlyBad (before after : Nat) : Nat :=
  ((List.range 16).filter fun i => (before == 0 || bitOf before i) && !bitOf after i).length

/-- What a training has found of the lanes, counted (R211, R373). -/
def State.noteLanes (s : State) (p : Nat) (r : TrainResult) : State :=
  let good := (r.lanesHere &&& r.lanesFar)
  let lost := newlyBad (s.port p).lanesGood.toNat good.toNat
  let s := s.setPort p fun x => { x with lanesGood := good, count := { x.count with lanes := sat32 (x.count.lanes + lost) } }
  if lost = 0 then s else (s.setHealth fun h => { h with lanes := sat32 (h.lanes + lost) }).patina (32 * 1024 * lost)

/-- The link layer at the entry to UP: sequence numbers at 0 and the credits of R196 (R184). -/
def Link.fresh : Link := { shared := 3584, reserved := List.replicate 8 64 }

/-- TRAINING_DONE (R184, R185). -/
def doTrainingDone (p : Nat) (r : TrainResult) (s0 : State) : State :=
  if p ≥ 16 ∨ (s0.port p).state ≠ 1 then s0
  else
    let s := s0.noteLanes p r
    match chooseWidth (r.lanesHere &&& r.lanesFar).toNat with
    | none => s.portFail p 2
    | some (w, lo) =>
      let s := s.setPort p fun x => { x with rttNs := r.rttNs, neighbour := r.neighbour }
      if r.rttNs > 20500 then s.portFail p 3
      else if r.neighbour ≠ (s.port p).expect then s.portFail p 6
      else s.setPort p fun x => { x with state := 2, width := w, lane := lo, cause := 0, link := Link.fresh }

/-- TRAINING_DONE. -/
def execTrainingDone (port : Nat) (result : TrainResult) (s : State) : Host.Outcome State Fault Refusal :=
  s.become (doTrainingDone port result s)

/-- RETRAIN_DONE (R191 to R193): the port returns to UP, perhaps at another width, and resends from its oldest unacknowledged
flit. -/
def doRetrainDone (p : Nat) (r : TrainResult) (s0 : State) : State :=
  if p ≥ 16 ∨ (s0.port p).state ≠ 3 then s0
  else
    let s := s0.noteLanes p r
    match chooseWidth (r.lanesHere &&& r.lanesFar).toNat with
    | none => s.portFail p 2
    | some (w, lo) =>
      let changed := if w ≠ (s.port p).width then 1 else 0
      let s := s.setPort p fun x => { x with
        state := 2, width := w, lane := lo, count := { x.count with widths := sat32 (x.count.widths + changed) } }
      match (s.port p).link.retry.head? with
      | some f => s.resendFrom p f.seq
      | none => s

/-- RETRAIN_DONE. -/
def execRetrainDone (port : Nat) (result : TrainResult) (s : State) : Host.Outcome State Fault Refusal :=
  s.become (doRetrainDone port result s)

/-- FAR_END_TRAINING (R184, R191): an UP port retrains; a port in training or retraining begins its training again. -/
def execFarEndTraining (port : Nat) (s : State) : Host.Outcome State Fault Refusal := s.become (s.retrain port)

/-- TRAIN_TIME (R184, R191): a training or retrain past its bound fails the port. -/
def doTrainTime (p : Nat) (s : State) : State := if (s.port p).state = 1 ∨ (s.port p).state = 3 then s.portFail p 4 else s

/-- TRAIN_TIME. -/
def execTrainTime (port : Nat) (s : State) : Host.Outcome State Fault Refusal := s.become (doTrainTime port s)

/-- LOSS_OF_LIGHT (R185). -/
def doLossOfLight (p : Nat) (s : State) : State := if (s.port p).running ∨ (s.port p).state = 1 then s.portFail p 5 else s

/-- LOSS_OF_LIGHT. -/
def execLossOfLight (port : Nat) (s : State) : Host.Outcome State Fault Refusal := s.become (doLossOfLight port s)

/-- LANE_LOSS_OF_LOCK (R191): a lane of the running lane set loses lock. -/
def doLaneLoss (p lane : Nat) (s : State) : State :=
  let x := s.port p
  if x.lane ≤ lane ∧ lane < x.lane + x.width then s.retrain p else s

/-- LANE_LOSS_OF_LOCK. -/
def execLaneLossOfLock (port lane : Nat) (s : State) : Host.Outcome State Fault Refusal := s.become (doLaneLoss port lane s)

/-! ## Commands -/

/-- FENCED: the port's domain is fenced or in reset (R298). -/
def State.portFenced (s : State) (p : Nat) : Bool × Nat × Nat := ((s.port p).domain != 0, stFenced, 0)

/-- A port number. -/
def portNumber (p : Nat) : Bool × Nat × Nat := (p > 15, stBadParam, 0)

/-- PORT_STOP (R210): ends the port's transactions, lasers off, DOWN. -/
def doPortStop (r : CmdRef) (c : Cmd) (s : State) : State :=
  let p := c.p 0 1
  s.checked r [s.portFenced p, portNumber p, c.beyond 1] fun s =>
    ((s.endPort p).setPort p fun x => { x with state := 0, cause := 0, retrainTimes := [] }).reply r stOk 0 0

/-- PORT_STOP. -/
def execPortStop (r : CmdRef) (s : State) : Host.Outcome State Fault Refusal := s.become (cmdRow r 0x0301 (.portStop r) (doPortStop r) s)

/-- PORT_CONFIGURE (R210). -/
def doPortConfigure (r : CmdRef) (c : Cmd) (s : State) : State :=
  let p := c.p 0 1
  let role := c.p 1 1
  let fl := c.p 3 1
  let size := c.p 4 2
  let ringRole := role == 1 || role == 2
  s.checked r [s.portFenced p, (ringRole && size == 0, stZero, 4), portNumber p, (role > 4, stBadParam, 1), (c.p 2 1 > 7, stBadParam, 2),
      (fl > 3, stBadParam, 3), (ringRole && !(decide (2 ≤ size) && decide (size ≤ 4096)), stBadParam, 4), c.reserved 6 2, c.beyond 12,
      ((s.port p).state != 0 && (s.port p).state != 4, stBadState, (s.port p).state)] fun s =>
    (s.setPort p fun x => { x with
      role := role, ring := c.p 2 1, dateline := bitOf fl 0, chain := bitOf fl 1, size := size
      expect := BitVec.ofNat 32 (c.p 8 4) }).reply r stOk 0 0

/-- PORT_CONFIGURE. -/
def execPortConfigure (r : CmdRef) (s : State) : Host.Outcome State Fault Refusal :=
  s.become (cmdRow r 0x0302 (.portConfigure r) (doPortConfigure r) s)

/-- PORT_START (R184, R185, R210): a DOWN port with a role begins training, its lasers on; refused while EVT_IN1 is low
(R423). -/
def doPortStart (r : CmdRef) (c : Cmd) (s : State) : State :=
  let p := c.p 0 1
  s.checked r [s.portFenced p, portNumber p, c.beyond 1,
      (s.power.evt1Low, stWard, 2), ((s.port p).state != 0 || (s.port p).role == 0, stBadState, (s.port p).state)] fun s =>
    let s := s.setKeeper fun k => { k with lasersOff := if bitOf k.lasersOff p then k.lasersOff - 2 ^ p else k.lasersOff }
    ((s.setPort p fun x => { x with state := 1, laser := true, cause := 0, link := {} }).setPower fun x => { x with standby := false }).reply r stOk 0 0

/-- PORT_START. -/
def execPortStart (r : CmdRef) (s : State) : Host.Outcome State Fault Refusal := s.become (cmdRow r 0x0303 (.portStart r) (doPortStart r) s)

/-- The 64-byte record of R211. -/
def Port.record (x : Port) : Bytes :=
  layRecord 64 [(0, 1, x.state), (1, 1, x.width), (2, 1, x.cause), (4, 2, x.lanesGood.toNat), (8, 4, x.rttNs), (0xC, 4, x.neighbour.toNat),
    (0x10, 4, x.count.crc), (0x14, 4, x.count.retries), (0x18, 4, x.count.retrains), (0x1C, 4, x.count.widths), (0x20, 4, x.count.lanes),
    (0x24, 4, x.count.ward), (0x28, 4, x.count.stale), (0x2C, 4, x.count.unreachable), (0x30, 4, x.count.header), (0x34, 4, x.count.busy)]

/-- A record written to a host buffer; the reply follows it (R431). -/
def State.giveRecord (s : State) (r : CmdRef) (addr : Nat) (b : Bytes) (detail value : Nat) : State :=
  let s := if b.isEmpty then s else s.farPut (addr - farBase) b 0 .hostBuffer
  s.reply r stOk detail value

/-- PORT_STATUS (R210, R211, R431). -/
def doPortStatus (r : CmdRef) (c : Cmd) (s : State) : State :=
  let p := c.p 0 1
  let a := c.p 8 8
  s.checked r [portNumber p, c.reserved 1 7, (!s.farOk a 64, stBadParam, 8), c.beyond 16] fun s => s.giveRecord r a (s.port p).record 0 0

/-- PORT_STATUS. -/
def execPortStatus (r : CmdRef) (s : State) : Host.Outcome State Fault Refusal := s.become (cmdRow r 0x0304 (.portStatus r) (doPortStatus r) s)

/-- The roles that a route's kind uses, all present (R204). -/
def Fabric.routeRoles (f : Fabric) (route down : U64) : Bool :=
  match routeKind route with
  | 1 | 2 =>
    let role := if bitOf route.toNat 58 then 2 else 1
    (f.ringPort (routeKind route) (bitsOf route.toNat 59 3) role).isSome
  | 3 => (routeUp route == 0 || f.parentPort.isSome) &&
      (routeUp route != 0 || routeDown route == 0 || (f.ports.getD (bitsOf down.toNat (4 * routeIdx route) 4) {}).role == 4)
  | _ => false

/-- Devices in the ring or chain that a route uses. -/
def Fabric.routeSize (f : Fabric) (route : U64) : Nat :=
  match f.ringPort (routeKind route) (bitsOf route.toNat 59 3) (if bitOf route.toNat 58 then 2 else 1) with
  | some p => (f.ports.getD p {}).size
  | none => 0

/-- Checks of one ROUTE_SET entry: condition, status, offset (R204). -/
def Fabric.routeBad (f : Fabric) (off : Nat) (route down : U64) (res : Nat) : Checks :=
  let k := routeKind route
  [((k == 1 || k == 2) && routeHops route == 0, stZero, off + 8), (res != 0, stBadParam, off + 4),
   (k == 0 || bitsOf route.toNat 0 33 != 0 || bitOf route.toNat 57 || !f.routeRoles route down, stBadParam, off + 8),
   (k == 1 && decide (routeHops route > f.routeSize route / 2), stBadParam, off + 8),
   (k == 2 && decide (routeHops route > f.routeSize route - 1), stBadParam, off + 8),
   (k == 3 && (decide (routeUp route + routeDown route > 14) || routeUp route + routeDown route == 0), stBadParam, off + 8)]

/-- A route table with an entry set. -/
def setRoute (l : List RouteEntry) (e : RouteEntry) : List RouteEntry := (l.filter fun x => x.device != e.device) ++ [e]

/-- ROUTE_SET (R204, R210). -/
def doRouteSet (r : CmdRef) (c : Cmd) (s : State) : State :=
  let n := c.p 0 4
  let entry := fun (i : Nat) =>
    let o := 4 + 24 * i
    ({ device := BitVec.ofNat 32 (c.p o 4), route := BitVec.ofNat 64 (c.p (o + 8) 8), down := BitVec.ofNat 64 (c.p (o + 16) 8) } : RouteEntry)
  let idx := List.range (min n (c.params.length / 24 + 1))
  let bad := idx.flatMap fun i => s.fabric.routeBad (4 + 24 * i) (entry i).route (entry i).down (c.p (4 + 24 * i + 4) 4)
  let new := idx.foldl (fun l i => setRoute l (entry i)) s.fabric.routes
  s.checked r (bad.filter (fun x => x.2.1 == stZero) ++ [(decide (4 + 24 * n > c.params.length && n != 0), stBadParam, 0)] ++
      bad.filter (fun x => x.2.1 != stZero) ++ [c.beyond (4 + 24 * n), (new.length > 16384, 0x0106, 0)]) fun s =>
    (s.setFabric fun f => { f with routes := new }).reply r stOk 0 0

/-- ROUTE_SET. -/
def execRouteSet (r : CmdRef) (s : State) : Host.Outcome State Fault Refusal := s.become (cmdRow r 0x0305 (.routeSet r) (doRouteSet r) s)

end Sys2Proof.Machine
end

