-- ==== Sys2Proof/Machine/Link.lean ====
section
/-! DEFINITION. The link layer: flits received (R186 to R190, R196), flits chosen and sent (R195, R196), messages laid out
(R198), forwarded (R189, R204 to R206) and taken out of the receive buffer. -/

namespace Sys2Proof.Machine

/-! ## Message layout -/

/-- The message header group (R198). -/
def headerBytes (h : Header) : Bytes :=
  layRecord 64 [(0, 8, h.route.toNat), (8, 8, h.downList.toNat), (0x10, 4, h.dest.toNat), (0x14, 4, h.source.toNat),
    (0x18, 1, h.opcode.toNat), (0x19, 1, h.flags.toNat), (0x1A, 2, h.epochStep.toNat), (0x1C, 2, h.tag), (0x1E, 2, h.reason),
    (0x20, 8, h.address.toNat), (0x28, 4, h.length), (0x2C, 4, h.job), (0x30, 8, h.membership)]

/-- The fields of a message header group. -/
def headerOfBytes (b : Bytes) : Header :=
  { route := BitVec.ofNat 64 (fieldN b 0 8), downList := BitVec.ofNat 64 (fieldN b 8 8), dest := BitVec.ofNat 32 (fieldN b 0x10 4)
    source := BitVec.ofNat 32 (fieldN b 0x14 4), opcode := BitVec.ofNat 8 (fieldN b 0x18 1), flags := BitVec.ofNat 8 (fieldN b 0x19 1)
    epochStep := BitVec.ofNat 16 (fieldN b 0x1A 2), tag := fieldN b 0x1C 2, reason := fieldN b 0x1E 2
    address := BitVec.ofNat 64 (fieldN b 0x20 8), length := fieldN b 0x28 4, job := fieldN b 0x2C 4, membership := fieldN b 0x30 8 }

/-- The groups of a message: header and content padded to 64 bytes. -/
def msgBytes (m : Msg) : Bytes := headerBytes m.hdr ++ padTo 64 m.content

/-- Bytes of content that a message of this header carries: a READ asks for its length and carries none. -/
def contentLength (h : Header) : Nat := if h.opcode = 0x02 then 0 else h.length

/-- The message that groups spell, with the words of its content found uncorrectable. -/
def msgOf (data : Bytes) (bad : List Nat) : Msg :=
  let h := headerOfBytes data
  { hdr := h, content := sliceZ data 64 (contentLength h)
    bad := (bad.filter fun i => decide (8 ≤ i) && decide (8 * (i - 8) < contentLength h)).map fun i => i - 8 }

/-! ## Flit header (R187) -/

/-- A field of the flit header. -/
def flitField (f : Flit) (off n : Nat) : Nat := bitsOf (fieldN f.bytes 0 8) off n

/-- CRC of a flit (R188). -/
def flitOk (f : Flit) : Bool := decide (f.bytes.length = 256) && (crc64 (f.bytes.take 248)).toNat == fieldN f.bytes 248 8

/-- The 64 data bytes of a codeword group. -/
def flitGroup (f : Flit) (g : Nat) : Bytes :=
  ((List.range 8).map fun w => sliceZ f.bytes (8 + 80 * g + 10 * w) 8).flatten

/-- Flits acknowledged: those up to the number leave the retry buffer (R190). -/
def ackThrough (l : List SentFlit) (ack : Nat) : List SentFlit :=
  if l.any fun f => f.seq == ack then (l.dropWhile fun f => f.seq != ack).drop 1 else l

/-- Flits before a NAK's number have arrived in order. -/
def ackBefore (l : List SentFlit) (seq next : Nat) : List SentFlit :=
  if l.any fun f => f.seq == seq then l.dropWhile fun f => f.seq != seq else if seq = next then [] else l

/-- Credits taken from a flit's CREDITS, CVC and CSH (R196). -/
def Link.credit (l : Link) (vc n : Nat) (shared : Bool) : Link :=
  if shared then { l with shared := min 3584 (l.shared + n) } else { l with reserved := l.reserved.modify vc fun c => min 64 (c + n) }

/-- ACK, NAK and credit fields of a good flit (R187, R190). -/
def State.flitControl (s : State) (p : Nat) (f : Flit) : State :=
  let s := s.setLink p fun l => l.credit (flitField f 23 3) (flitField f 16 7) (flitField f 15 1 == 1)
  let ack := flitField f 27 16
  if flitField f 26 1 = 0 then s.setLink p fun l => { l with retry := ackThrough l.retry ack }
  else (s.setLink p fun l => { l with retry := ackBefore l.retry ack l.txSeq }).resendFrom p ack

/-- A flit that is no next data flit is discarded; NAK is sent once per gap (R190). -/
def Link.gap (l : Link) : Link := if l.nakSent then l else { l with nakSent := true, nakDue := true }

/-- A flit with a CRC that does not match (R188, R211). -/
def State.flitBad (s : State) (p : Nat) : State :=
  (s.setCount p fun c => { c with crc := sat32 (c.crc + 1) }).setLink p Link.gap

/-- The 8-byte words of a flit's groups that the decoder found uncorrectable. -/
def flitBadWords (f : Flit) (groups : Nat) : List Nat := (List.range (8 * groups)).filter fun i => f.codes.getD i 0 == 2

/-- Whether a flit lands in a shared slot (R196). -/
def Link.sharedFree (l : Link) : Bool :=
  decide (l.rxShared + (l.returns.filter fun r => r.2.1).foldl (fun n r => n + r.2.2) 0 < 3584)

/-- The groups of a data flit put in the receive buffer (R186, R196, R198). -/
def Link.receive (l : Link) (vc groups : Nat) (som eom : Bool) (f : Flit) : Link :=
  let data := ((List.range groups).map (flitGroup f)).flatten
  let sh := l.sharedFree
  let slot := fun (x : Nat × Nat) => if sh then (x.1 + 1, x.2) else (x.1, x.2 + 1)
  let l := if sh then { l with rxShared := l.rxShared + 1 } else { l with rxReserved := l.rxReserved.modify vc (· + 1) }
  let l := { l with rxSeq := (l.rxSeq + 1) % 65536, nakSent := false }
  let bad := flitBadWords f groups
  if som then { l with rx := l.rx ++ [{ vc := vc, data := data, bad := bad, whole := eom, flits := slot (0, 0) }] }
  else { l with rx := l.rx.map fun (x : RxMsg) => if x.vc = vc ∧ !x.whole then
      { x with data := x.data ++ data, bad := x.bad ++ bad.map (· + x.data.length / 8), whole := eom, flits := slot x.flits } else x }

/-- DATA_FLIT (R187 to R190, R196, R198). -/
def doDataFlit (p : Nat) (f : Flit) (s : State) : State :=
  if p ≥ 16 ∨ (s.port p).state ≠ 2 then s
  else if !flitOk f then s.flitBad p
  else if flitField f 62 2 ≠ 1 then s
  else
    let s := s.flitControl p f
    let l := (s.port p).link
    if (s.port p).state ≠ 2 then s
    else if flitField f 43 16 ≠ l.rxSeq then s.setLink p Link.gap
    else
      let som := flitField f 12 1 == 1
      let s := s.setLink p fun l => l.receive (flitField f 59 3) (flitField f 13 2) som (flitField f 11 1 == 1) f
      if som && ((f.codes.take 8).any fun c => c == 1) then s.correctedWords (portDomain p) 1 else s

/-- DATA_FLIT. -/
def execDataFlit (port : Nat) (f : Flit) (s : State) : Host.Outcome State Fault Refusal := s.become (doDataFlit port f s)

/-- IDLE_FLIT (R187): only the acknowledgement and credit fields. -/
def doIdleFlit (p : Nat) (f : Flit) (s : State) : State :=
  if p ≥ 16 ∨ (s.port p).state ≠ 2 then s
  else if !flitOk f then s.flitBad p
  else if flitField f 62 2 ≠ 0 then s
  else s.flitControl p f

/-- IDLE_FLIT. -/
def execIdleFlit (port : Nat) (f : Flit) (s : State) : Host.Outcome State Fault Refusal := s.become (doIdleFlit port f s)

/-- RETRY_TIMEOUT (R190): resends from the oldest held flit. -/
def doRetryTimeout (p : Nat) (s : State) : State :=
  if (s.port p).state ≠ 2 then s
  else match (s.port p).link.retry.head? with
    | some f => s.resendFrom p f.seq
    | none => s

/-- RETRY_TIMEOUT. -/
def execRetryTimeout (port : Nat) (s : State) : Host.Outcome State Fault Refusal := s.become (doRetryTimeout port s)

/-! ## Taking messages out -/

/-- A message leaves the receive buffer: its slots are freed and their credits are due (R196). -/
def Link.free (l : Link) (x : RxMsg) : Link :=
  { l with
    rx := l.rx.erase x
    rxShared := l.rxShared - x.flits.1
    rxReserved := l.rxReserved.modify x.vc (· - x.flits.2)
    returns := l.returns ++ [(x.vc, true, x.flits.1), (x.vc, false, x.flits.2)].filter fun r => r.2.2 != 0 }

/-- The message that a row delivers leaves the receive buffer, when it came through the port's flits. -/
def State.takeRx (s : State) (p : Nat) (m : Msg) : State :=
  match (s.port p).link.rx.find? fun x => x.whole && msgOf x.data x.bad == m with
  | some x => s.setLink p fun l => l.free x
  | none => s

/-- Where a message that arrives at a port goes on: none when its route cannot be followed; the port and route word of the next
hop, or `some none` when the route ends here (R204). -/
def State.nextHop (s : State) (p : Nat) (h : Header) : Option (Option (Nat × U64)) :=
  let x := s.port p
  let r := h.route
  match routeKind r with
  | 1 | 2 =>
    if !(x.role == 1 || x.role == 2) || x.ring != bitsOf r.toNat 59 3 || x.chain != (routeKind r == 2) || routeHops r == 0 then none
    else if routeHops r = 1 then some none
    else (s.fabric.ringPort (routeKind r) x.ring (3 - x.role)).map fun q => some (q, r - BitVec.ofNat 64 (2 ^ 45))
  | 3 =>
    if !(x.role == 3 || x.role == 4) then none
    else if routeUp r = 0 ∧ routeIdx r ≥ routeDown r then some none
    else (s.fabric.treeOut r h.downList).map some
  | _ => none

/-- MESSAGE_FORWARD (R189, R204, R205, R209): the first whole message of a channel goes on by its route. -/
def doMessageForward (p vc : Nat) (s0 : State) : State :=
  match (s0.port p).link.rx.find? fun x => x.vc == vc && x.whole with
  | none => s0
  | some x =>
    let m := msgOf x.data x.bad
    let s := s0.setLink p fun l => l.free x
    if x.bad.any fun i => decide (i < 8) then
      let out := match s0.nextHop p m.hdr with
        | some (some q) => q.1
        | _ => 0xFF
      (s.setCount p fun c => { c with header := sat32 (c.header + 1) }).log 0x0205 3 (portDomain p) 0xFFFF p out 0
    else match s0.nextHop p m.hdr with
      | none => s.protocolError p m.hdr.job m.hdr
      | some none => s0
      | some (some (q, route)) =>
        if (s0.port q).running then s.txPut q (vc / 2) route { m with hdr := { m.hdr with route := route } }
        else s.dropTransit q m

/-- MESSAGE_FORWARD. -/
def execMessageForward (port vc : Nat) (s : State) : Host.Outcome State Fault Refusal := s.become (doMessageForward port vc s)

/-! ## Sending (R195) -/

/-- Whether a channel has a credit for a flit (R196). -/
def Link.hasCredit (l : Link) (vc : Nat) : Bool := decide (l.shared > 0) || decide (l.reserved.getD vc 0 > 0)

/-- The channel of a class that can send: half 1 before half 0. -/
def Link.ready (l : Link) (cls : Nat) : Option Nat :=
  [2 * cls + 1, 2 * cls].find? fun vc => (l.tx.any fun t => t.vc == vc) && l.hasCredit vc

/-- The class whose turn it is in the round of 16: 8 latency-critical, 6 collective, 2 bulk. -/
def turnClass (t : Nat) : Nat := if t % 16 < 8 then 1 else if t % 16 < 14 then 2 else 3

/-- The channel that the next data flit leaves by (R195). -/
def Link.choose (l : Link) : Option Nat :=
  if l.retry.length ≥ 4096 then none
  else
    let share := decide ((l.control.filter id).length < 16)
    match (if share then l.ready 0 else none) with
    | some vc => some vc
    | none =>
      let c := turnClass l.turn
      match [c, c % 3 + 1, (c + 1) % 3 + 1].findSome? l.ready with
      | some vc => some vc
      | none => l.ready 0

/-- The groups of the next flit of a message (R186, R198). -/
def TxMsg.flitData (t : TxMsg) : Bytes := ((msgBytes t.msg).drop (64 * t.sent)).take 192

/-- A data flit of a channel sent and held for retry (R190, R196). -/
def Link.sendFlit (l : Link) (vc : Nat) : Link :=
  match l.tx.find? fun t => t.vc == vc with
  | none => l
  | some t =>
    let total := (msgBytes t.msg).length / 64
    let eom := decide (t.sent + 3 ≥ total)
    let sh := decide (l.shared > 0)
    let f : SentFlit := { seq := l.txSeq, vc := vc, som := t.sent == 0, eom := eom, data := t.flitData, shared := sh }
    let t' : TxMsg := { t with sent := t.sent + 3 }
    let ctl := vc / 2 == 0
    { l with
      txSeq := (l.txSeq + 1) % 65536
      retry := l.retry ++ [f]
      tx := if eom then l.tx.erase t else l.tx.map fun (x : TxMsg) => if x = t then t' else x
      shared := if sh then l.shared - 1 else l.shared
      reserved := if sh then l.reserved else l.reserved.modify vc (· - 1)
      turn := if ctl then l.turn else (l.turn + 1) % 16
      control := (l.control ++ [ctl]).drop (l.control.length - 255) }

/-- One flit slot of an UP port: the chosen data flit, or an idle flit; either carries a NAK and one credit return that are
due (R187, R195). -/
def State.flitSlot (s : State) (p : Nat) : State :=
  if (s.port p).state ≠ 2 then s
  else s.setLink p fun l =>
    let l := { l with nakDue := false, returns := l.returns.drop 1 }
    match l.choose with
    | some vc => l.sendFlit vc
    | none => l

end Sys2Proof.Machine
end

