-- ==== Sys2Proof/Machine/Messages.lean ====
section
/-! DEFINITION. Data messages: admission at their target (R201, R202, R249, R356), requests (R199) and the ends of this
module's own transactions (R199 to R201, R250, R325). -/

namespace Sys2Proof.Machine

/-! ## Admission -/

/-- The fabric membership ward: the source is in the signed device set (R202, R389). -/
def State.inDeviceSet (s : State) (d : U32) : Bool :=
  match s.fw.deviceSet with
  | some x => x.2.contains d
  | none => false

/-- A message discarded by the ward or by R244, and counted (R202, R211, R244). -/
def State.wardDrop (s : State) (p : Nat) : State := s.setCount p fun c => { c with ward := sat32 (c.ward + 1) }

/-- A message of an old membership epoch counted (R202, R211). -/
def State.countStale (s : State) (p : Nat) : State := s.setCount p fun c => { c with stale := sat32 (c.stale + 1) }

/-- Where a message's membership epoch stands to the job's (R202, R249). -/
inductive Turnover where
  | now
  | stale
  | held
  | early
  deriving DecidableEq, Repr

/-- The comparison of R202 and R249. -/
def Job.turnover (b : Job) (epoch : Nat) : Turnover :=
  if epoch = b.memberEpoch then .now
  else if epoch < b.memberEpoch then .stale
  else match b.member with
    | some m => match m.proposal with
      | some q => if q.epoch = epoch ∧ epoch = m.epoch + 1 then .held else .early
      | none => .early
    | none => .early

/-- A request turned away with a NAK, without an entry of the table (R199, R201). -/
def State.nakTo (s : State) (p : Nat) (m : Msg) (reason : Nat) : State :=
  let kept := (s.port p).requests
  (s.answer p m 0x05 reason [] []).setPort p fun x => { x with requests := kept }

/-- The request table of a port admits a request: one entry is kept for the oldest refused source (R201). -/
def Port.admits (x : Port) (source : U32) : Bool :=
  if x.refused.isEmpty ∨ x.refused.head? = some source then decide (x.requests.length < 8192) else decide (x.requests.length < 8191)

/-- A READ or WRITE at its target before its epoch is looked at (R201, R202, R249, R356). -/
def State.admitRequest (s : State) (p : Nat) (m : Msg) : State :=
  if !s.inDeviceSet m.hdr.source then s.wardDrop p
  else match (s.job m.hdr.job).turnover m.hdr.membership with
    | .stale => (s.countStale p).nakTo p m 5
    | .early => s.protocolError p m.hdr.job m.hdr
    | .held => s.setMember m.hdr.job fun x => { x with held := x.held ++ [(p, m)] }
    | .now =>
      if s.fabric.leaving then s.nakTo p m 1
      else if !(s.port p).admits m.hdr.source then
        ((s.setCount p fun c => { c with busy := sat32 (c.busy + 1) }).setPort p fun x => { x with
          refused := if x.refused.contains m.hdr.source then x.refused else x.refused ++ [m.hdr.source] }).nakTo p m 4
      else
        (s.setPort p fun x => { x with
          requests := x.requests ++ [(m.hdr.source, m.hdr.tag)], refused := x.refused.erase m.hdr.source }).peerRequest p m

/-- A message of an opcode arrives at this module by a running port (R195, R204). -/
def State.arrived (s : State) (p : Nat) (m : Msg) (opcode : Nat) : Bool :=
  decide (p < 16) && (s.port p).running && m.hdr.opcode.toNat == opcode && m.hdr.dest == s.ident.device

/-- WRITE (R152, R199, R201, R202). -/
def doWrite (p : Nat) (m : Msg) (s : State) : State := if s.arrived p m 0x01 then (s.takeRx p m).admitRequest p m else s

/-- WRITE. -/
def execWrite (port : Nat) (m : Msg) (s : State) : Host.Outcome State Fault Refusal := s.become (doWrite port m s)

/-- READ (R115, R152, R199, R201, R202). -/
def doRead (p : Nat) (m : Msg) (s : State) : State := if s.arrived p m 0x02 then (s.takeRx p m).admitRequest p m else s

/-- READ. -/
def execRead (port : Nat) (m : Msg) (s : State) : Host.Outcome State Fault Refusal := s.become (doRead port m s)

/-! ## Ends of this module's transactions -/

/-- The outstanding transaction that a response ends: the one of its tag to its source, of the port it came by when two ports
use the tag (R198, R200). -/
def Fabric.txnOf (f : Fabric) (p : Nat) (h : Header) : Option Txn :=
  let mine := f.txns.filter fun t => t.tag == h.tag && t.dest == h.source
  (mine.find? fun t => t.port == p).or mine.head?

/-- A transaction leaves the list of outstanding ones. -/
def State.dropTxn (s : State) (t : Txn) : State :=
  s.setFabric fun f => { f with txns := f.txns.filter fun x => !(x.port == t.port && x.tag == t.tag) }

/-- A response that ends no outstanding transaction. -/
def State.response (s0 : State) (p : Nat) (m : Msg) (opcode : Nat) (act : Txn → State → State) : State :=
  if !s0.arrived p m opcode then s0
  else
    let s := s0.takeRx p m
    if !s.inDeviceSet m.hdr.source then s.wardDrop p
    else match s.fabric.txnOf p m.hdr with
      | none => s.protocolError p m.hdr.job m.hdr
      | some t => act t s

/-- READ_DATA (R115, R199, R325): the bytes land for the MOVE that asked for them; a word found uncorrectable on arrival is a bus
error of the channel. -/
def doReadData (p : Nat) (m : Msg) (s : State) : State :=
  s.response p m 0x03 fun t s =>
    if t.isWrite then s.protocolError p m.hdr.job m.hdr
    else match m.bad.head? with
      | some w => s.txnFail { t with window := t.window + 8 * w } 3
      | none => match t.use with
        | .chan c => (s.dropTxn t).setChan c fun x => { x with
            reads := x.reads - 1
            remote := x.remote ++ (m.content.take t.length).mapIdx fun i b => (t.window + i, b) }
        | .dropped => s.dropTxn t

/-- READ_DATA. -/
def execReadData (port : Nat) (m : Msg) (s : State) : Host.Outcome State Fault Refusal := s.become (doReadData port m s)

/-- WRITE_ACK (R101, R199). -/
def doWriteAck (p : Nat) (m : Msg) (s : State) : State :=
  s.response p m 0x04 fun t s =>
    if !t.isWrite then s.protocolError p m.hdr.job m.hdr
    else match t.use with
      | .chan c => (s.dropTxn t).setChan c fun x => { x with writes := x.writes - 1 }
      | .dropped => s.dropTxn t

/-- WRITE_ACK. -/
def execWriteAck (port : Nat) (m : Msg) (s : State) : Host.Outcome State Fault Refusal := s.become (doWriteAck port m s)

/-- The job of a device whose messages are refused as stale stops on it (R250). -/
def State.evicted (s : State) (j : Nat) : State :=
  (s.setMember j fun x => { x with state := 4 }).faultStop j stStale true

/-- NAK (R199 to R201, R250): BUSY leaves the transaction to be resent; every other reason ends it. -/
def doNak (p : Nat) (m : Msg) (s : State) : State :=
  s.response p m 0x05 fun t s =>
    if m.hdr.reason = 4 then s.setFabric fun f => { f with
      txns := f.txns.map fun (x : Txn) => if x.port = t.port ∧ x.tag = t.tag then { x with busy := true } else x }
    else
      let s := s.txnFail t (nakCause m.hdr.reason)
      if m.hdr.reason = 5 then s.evicted t.request.hdr.job else s

/-- NAK. -/
def execNak (port : Nat) (m : Msg) (s : State) : Host.Outcome State Fault Refusal := s.become (doNak port m s)

/-- BUSY_RESEND (R201). -/
def doBusyResend (p tag : Nat) (s : State) : State :=
  match s.fabric.txns.find? fun t => t.port == p && t.tag == tag && t.busy with
  | none => s
  | some t =>
    let s' := s.setFabric fun f => { f with
      txns := f.txns.map fun (x : Txn) => if x.port = p ∧ x.tag = tag then { x with busy := false } else x }
    match s'.send (s.job t.request.hdr.job).msgClass t.request with
    | some (_, s') => s'
    | none => s

/-- BUSY_RESEND. -/
def execBusyResend (port tag : Nat) (s : State) : Host.Outcome State Fault Refusal := s.become (doBusyResend port tag s)

/-- TRANSPORT_TIMEOUT (R200, R242): cause REMOTE, and the device is suspected as UNREACHABLE. -/
def doTransportTimeout (p tag : Nat) (s : State) : State :=
  match s.fabric.txns.find? fun t => t.port == p && t.tag == tag with
  | none => s
  | some t => (s.txnFail t 5).suspectAll t.dest 7

/-- TRANSPORT_TIMEOUT. -/
def execTransportTimeout (port tag : Nat) (s : State) : Host.Outcome State Fault Refusal := s.become (doTransportTimeout port tag s)

end Sys2Proof.Machine
end

