-- ==== Sys2Proof/Machine/Collective.lean ====
section
/-! DEFINITION. Collectives (R212 to R230): instances, leaves, the canonical reduction over leaf positions, terms and data in
blocks, credits, statistics and completion; deferred contributions in the deferral reserve (R223, R260, R262). -/

namespace Sys2Proof.Machine

/-! ## Shape of a collective -/

/-- ALL_REDUCE or REDUCE_SCATTER. -/
def reduces (d : CollDecl) : Bool := d.op == 1 || d.op == 2

/-- GRADIENT (R213). -/
def isGradient (d : CollDecl) : Bool := bitOf d.flags.toNat 0

/-- UNORDERED (R213). -/
def isUnordered (d : CollDecl) : Bool := bitOf d.flags.toNat 1

/-- The format sent. -/
def sendFmt (d : CollDecl) : Fmt := (Fmt.ofCode d.sendFormat.toNat).getD .raw

/-- The format written at the destination. -/
def recvFmt (d : CollDecl) : Fmt := (Fmt.ofCode d.recvFormat.toNat).getD .raw

/-- The row length (R216). -/
def rowLength (d : CollDecl) : Nat := d.pieces.foldl (fun n p => n + p.count) 0

/-- Member index of a device (R215). -/
def memberIndex (d : CollDecl) (dev : U32) : Option Nat := d.members.findIdx? fun m => m.device == dev

/-- The pieces that a member owns, in piece order, empty ones left out. -/
def ownedPieces (d : CollDecl) (m : Nat) : List PieceEntry := d.pieces.filter fun p => p.member == m && p.count != 0

/-- Elements of the pieces that a member owns, per row. -/
def ownedLength (d : CollDecl) (m : Nat) : Nat := (ownedPieces d m).foldl (fun n p => n + p.count) 0

/-- Segments per source (R213). -/
def ringDepth (d : CollDecl) : Nat := if d.ringDepth = 0 then 16 else d.ringDepth

/-- Bytes cut into blocks of 4,096 (R226); fuel at least the number of blocks. -/
def blocksOf : Nat → Bytes → List Bytes
  | 0, _ => []
  | n + 1, b => if b.isEmpty then [] else b.take 4096 :: blocksOf n (b.drop 4096)

/-- Blocks of a payload. -/
def payloadBlocks (b : Bytes) : List Bytes := blocksOf (b.length / 4096 + 1) b

/-- Elements of a piece, row by row, out of full rows. -/
def pieceOfRows (rowLen rows : Nat) (p : PieceEntry) (xs : List Nat) : List Nat :=
  (List.range rows).flatMap fun r => (xs.drop (r * rowLen + p.first)).take p.count

/-- Elements that a member owns, piece by piece. -/
def ownedOfRows (d : CollDecl) (m rows : Nat) (xs : List Nat) : List Nat :=
  (ownedPieces d m).flatMap fun p => pieceOfRows (rowLength d) rows p xs

/-! ## The tree over leaf positions (R71, R220, R221) -/

/-- The maximal local nodes of the range [a, b) within the node [lo, lo + n): first leaf and leaves; fuel at least the depth. -/
def localNodes : Nat → Nat → Nat → Nat → Nat → List (Nat × Nat)
  | 0, _, _, _, _ => []
  | fuel + 1, lo, n, a, b =>
    if n = 0 ∨ lo + n ≤ a ∨ b ≤ lo then []
    else if a ≤ lo ∧ lo + n ≤ b then [(lo, n)]
    else if n = 1 then []
    else localNodes fuel lo ((n + 1) / 2) a b ++ localNodes fuel (lo + (n + 1) / 2) (n - (n + 1) / 2) a b

/-- Two children of a node: an absent one leaves the other's value (R220). -/
def joinNodes (f : Fmt) : Option (List Nat) → Option (List Nat) → Option (List Nat)
  | none, y => y
  | x, none => x
  | some x, some y => some (List.zipWith (fAdd f) x y)

/-- The value of a node from the values known of the nodes below it; fuel at least the depth. -/
def nodeValue (f : Fmt) (known : Nat → Nat → Option (Option (List Nat))) : Nat → Nat → Nat → Option (List Nat)
  | 0, _, _ => none
  | fuel + 1, lo, n =>
    match known lo n with
    | some v => v
    | none =>
      if n ≤ 1 then none
      else joinNodes f (nodeValue f known fuel lo ((n + 1) / 2)) (nodeValue f known fuel (lo + (n + 1) / 2) (n - (n + 1) / 2))

/-- Depth that covers 65,536 leaves. -/
def treeDepth : Nat := 20

/-- Addends taken one by one in an order that nothing fixes (R225; log entry 26). -/
def addAnyOrder (f : Fmt) (draw : Nat) : Nat → List (List Nat) → List (List Nat) → Option (List Nat)
  | 0, _, _ => none
  | fuel + 1, done, rest =>
    match rest with
    | [] => done.head?
    | _ =>
      let i := Config.orderPick (draw + fuel) % rest.length
      let x := rest.getD i []
      addAnyOrder f draw fuel (match done with
        | [] => [x]
        | y :: _ => [List.zipWith (fAdd f) y x]) (rest.eraseIdx i)

/-! ## Inclusion seen from a context (R223, R259, R260) -/

/-- Decisions that keep a contribution of its own step out (R264). -/
def excludes (code : Nat) : Bool := code == 1 || code == 3 || code == 8 || code == 9

/-- INCLUDE of a step is known. -/
def Straggler.knows (x : Straggler) (step : Nat) : Option (List Decision) :=
  match x.included with
  | some (s, _, ds) => if s = step then some ds else none
  | none => none

/-- A contribution of the step before was deferred into this step. -/
def Straggler.wasDeferred (x : Straggler) (step v : Nat) : Bool := x.deferred.any fun d => d.contributor == v && d.origin + 1 == step

/-- Whether the deferred and the step's own contribution form the leaf: presumed until INCLUDE is known. -/
def Straggler.forms (x : Straggler) (step v : Nat) : Bool × Bool :=
  match x.knows step with
  | some ds =>
    (ds.any fun d => d.contributor == v && d.code == 2 && d.origin + 1 == step,
     !(ds.any fun d => d.contributor == v && excludes d.code && d.origin == step) && !x.removed.contains v)
  | none => (x.wasDeferred step v, true)

/-- Leaves whose value INCLUDE settles: their nodes are formed again once it is known (R260). -/
def Straggler.touched (x : Straggler) (step v : Nat) : Bool := x.wasDeferred step v || !(x.forms step v).2

/-- Contributor of a leaf of a member (R215). -/
def leafContributor (m : MemberEntry) (leaf : Nat) : Nat := m.firstContributor + (leaf - m.firstLeaf)

/-! ## Messages -/

/-- A COLLECTIVE message of an instance (R226, R228). -/
def State.collMsg (s : State) (j : Nat) (c : Coll) (i : CollInstance) (dest : U32) (kind index block : Nat) (after : Bool)
    (content : Bytes) : Msg :=
  let a := c.decl.num % 64 * 2 ^ 58 + kind * 2 ^ 56 + index * 2 ^ 24 + block
  let h := headerOf s dest 0x10 j (i.number % 8192) a content.length
  let h := { h with reason := if after then 1 else 0 }
  { hdr := if i.prov then { h with flags := 1, epochStep := BitVec.ofNat 16 ((s.job j).train.openEpoch.getD 0) } else h
    content := content, bad := [] }

/-- A collective changed. -/
def State.setColl (s : State) (j n : Nat) (f : Coll → Coll) : State :=
  s.setJob j fun b => { b with colls := b.colls.map fun (c : Coll) => if c.decl.num = n then f c else c }

/-- An instance in progress changed. -/
def State.setInst (s : State) (j n num : Nat) (f : CollInstance → CollInstance) : State :=
  s.setColl j n fun c => { c with active := c.active.map fun (i : CollInstance) => if i.number = num then f i else i }

/-- A collective of a job. -/
def State.coll (s : State) (j n : Nat) : Option Coll := (s.job j).colls.find? fun c => c.decl.num == n

/-- An instance in progress. -/
def State.inst (s : State) (j n num : Nat) : Option (Coll × CollInstance) :=
  (s.coll j n).bind fun c => (c.active.find? fun i => i.number == num).map fun i => (c, i)

/-- A member's pair of counts. -/
def countsOf (l : List (Nat × Nat × Nat)) (m : Nat) : Nat × Nat := ((l.find? fun x => x.1 == m).map (·.2)).getD (0, 0)

/-- A member's pair of counts set. -/
def setCounts (l : List (Nat × Nat × Nat)) (m : Nat) (v : Nat × Nat) : List (Nat × Nat × Nat) := (l.filter fun x => x.1 != m) ++ [(m, v)]

/-- The messages of an instance that hold credit are sent: 16 blocks to a segment of 64 KiB (R227). -/
def State.pump (s : State) (j n num : Nat) : State :=
  match s.inst j n num with
  | none => s
  | some (c, i) =>
    let r := i.outbox.foldl (fun (acc : State × List (Nat × Msg) × List (Nat × Nat × Nat)) x =>
      let k := countsOf acc.2.2 x.1
      if k.1 < 16 * (ringDepth c.decl + k.2) ∧ !(acc.2.1.any fun y => y.1 == x.1) ∧ !s.withheld j x.2.hdr.dest then
        let t := match acc.1.send 2 x.2 with
          | some (_, t) => t
          | none => acc.1
        (t, acc.2.1, setCounts acc.2.2 x.1 (k.1 + 1, k.2))
      else (acc.1, acc.2.1 ++ [x], acc.2.2)) (s, [], i.sends)
    r.1.setInst j n num fun i => { i with outbox := r.2.1, sends := r.2.2 }

/-- A block lands in an instance: a replacement takes the place of the earlier term (R226, R260). -/
def CollInstance.land (i : CollInstance) (x : Landed) : CollInstance :=
  let same := fun (y : Landed) => y.member == x.member && y.kind == x.kind && y.lo == x.lo && y.last == x.last && y.block == x.block
  match i.landed.find? same with
  | some y => if y.after then i else { i with landed := (i.landed.filter fun y => !same y) ++ [x] }
  | none => { i with landed := i.landed ++ [x] }

/-- Blocks of a payload for a member: landed here when it is this module, put in its queue else. -/
def State.give (s : State) (j n num me d : Nat) (kind lo last index base : Nat) (after : Bool) (payload : Bytes) : State :=
  match s.inst j n num with
  | none => s
  | some (c, i) =>
    let blocks := (payloadBlocks payload).mapIdx fun k b => (base + k, b)
    if d = me then
      s.setInst j n num fun i => blocks.foldl (fun (i : CollInstance) x =>
        i.land { member := me, kind := kind, lo := lo, last := last, block := x.1, after := after, content := x.2 }) i
    else match c.decl.members[d]? with
      | none => s
      | some m => s.setInst j n num fun y => { y with
          outbox := y.outbox ++ blocks.map fun x => (d, s.collMsg j c i m.device kind index x.1 after x.2) }

/-! ## Leaves (R218, R223, R224, R262) -/

/-- Elements of one leaf's rows. -/
def leafElements (d : CollDecl) (rows : Nat) : Nat := rows * rowLength d

/-- Bytes of one leaf's rows. -/
def leafBytes (d : CollDecl) (rows : Nat) : Nat := leafElements d rows * (sendFmt d).size

/-- The deferral reserve. -/
def Job.reserveAddr (b : Job) : Option Nat := (b.grants.find? fun g => g.decl.role == .deferral).map (·.addr)

/-- The deferred rows of a contributor for an instance, when they are complete. -/
def Straggler.keptAt (x : Straggler) (n ordinal v origin : Nat) : Option (Nat × Nat) :=
  (x.kept.find? fun k => k.1 == n && k.2.1 == ordinal && k.2.2.1 == v && k.2.2.2.2.2 == origin).map fun k => (k.2.2.2.1, k.2.2.2.2.1)

/-- Elements scaled by 2^(L(s) − L(s − 1)) as they are admitted (R163). -/
def scaleElems (f : Fmt) (by_ : Int) (xs : List Nat) : List Nat :=
  if by_ = 0 then xs else xs.map fun x => encodeNum f false ((decodeFloat f x).scale by_)

/-- Whether scaling would make an element infinite or lose its bits (R163). -/
def scaleLoses (f : Fmt) (by_ : Int) (xs : List Nat) : Bool :=
  by_ != 0 && xs.any fun x => match decodeFloat f x with
    | .fin sg m e => !((decodeFloat f (encodeNum f false (.fin sg m (e + by_)))).scale (-by_) == decodeFloat f x)
    | _ => false

/-- The deferred contribution of a leaf, read from the reserve. -/
def State.readKept (s : State) (j n : Nat) (c : Coll) (i : CollInstance) (v : Nat) : Option (List Nat) :=
  match (s.job j).reserveAddr, (s.job j).strag.keptAt n i.ordinal v (i.step - 1) with
  | some a, some (o, len) =>
    let f := sendFmt c.decl
    let t := (s.job j).train
    some (scaleElems f (t.lossOf i.step - t.lossOf (i.step - 1)) (elemsOf f (s.mem.read (a + o) len) (len / f.size)))
  | _, _ => none

/-- A leaf of this module: its rows read from src, with the deferred contribution (R223). -/
def State.leafValue (s : State) (j n : Nat) (c : Coll) (i : CollInstance) (rowsOf : Nat → List Nat) (me : MemberEntry) (leaf : Nat) :
    Option (List Nat) :=
  if !isGradient c.decl then some (rowsOf leaf)
  else
    let v := leafContributor me leaf
    let use := (s.job j).strag.forms i.step v
    let d := if use.1 then s.readKept j n c i v else none
    match d, use.2 with
    | some d, true => some (List.zipWith (fAdd (sendFmt c.decl)) d (rowsOf leaf))
    | some d, false => some d
    | none, true => some (rowsOf leaf)
    | none, false => none

/-- The terms of this module: each maximal local node that has a value, to every member that owns elements (R221, R225). With
`only` the nodes that INCLUDE touched alone (R260). -/
def State.giveTerms (s : State) (j n : Nat) (c : Coll) (i : CollInstance) (me : Nat) (m : MemberEntry) (src : Bytes) (only : Bool) : State :=
  let f := sendFmt c.decl
  let x := (s.job j).strag
  let known := (x.knows i.step).isSome
  let rowsOf := fun (leaf : Nat) => elemsOf f (src.drop ((leaf - m.firstLeaf) * leafBytes c.decl i.rows)) (leafElements c.decl i.rows)
  let leaf := fun (k : Nat) => s.leafValue j n c i rowsOf m k
  let nodes := if isUnordered c.decl then [(m.firstLeaf, m.leafCount)]
    else localNodes treeDepth 0 c.decl.width m.firstLeaf (m.firstLeaf + m.leafCount)
  let hit := fun (nd : Nat × Nat) => (List.range nd.2).any fun k => isGradient c.decl && x.touched i.step (leafContributor m (nd.1 + k))
  let s := if isUnordered c.decl then { s with draws := s.draws + m.leafCount + 1 } else s
  (nodes.filter fun nd => !only || hit nd).foldl (fun s nd =>
    let v := if isUnordered c.decl then
        addAnyOrder f s.draws (nd.2 + 1) [] ((List.range nd.2).filterMap fun k => leaf (nd.1 + k))
      else nodeValue f (fun lo k => if k = 1 then some (leaf lo) else none) treeDepth nd.1 nd.2
    match v with
    | none => s
    | some v => (List.range c.decl.members.length).foldl (fun s d =>
        let last := nd.1 + nd.2 - 1
        s.give j n i.number me d 0 nd.1 last (nd.1 * 2 ^ 16 + last) 0 known (packElems f (ownedOfRows c.decl d i.rows v))) s) s

/-- A contribution scanned: its flag and exact square sum, kept for the tumbler protocol and sent to the coordinator
(R158, R174, R224; log entry 17). -/
def State.sendSummary (s : State) (j : Nat) (c : Coll) (i : CollInstance) (v : Nat) (finite : Bool) (a : SquareAcc) : State :=
  match (s.job j).member with
  | none => s
  | some m => match m.root with
    | none => s
    | some r =>
      if r = s.ident.device then s
      else
        let body := toLe 8 v ++ toLe 8 (if finite then 1 else 0) ++ toLe 80 a.sum ++ toLe 8 (if a.nonFinite then 1 else 0)
        match s.send 2 (s.collMsg j c i r 2 0 0 false body) with
        | some (_, s) => s
        | none => s

/-- An element as it enters an exact square sum (R174). -/
def sqElem (f : Fmt) (a : SquareAcc) (x : Nat) : SquareAcc := sqEnter a (if f = .fp32 then x else fCast f .fp32 x)

/-- Square sum of a contributor of a step, added (R224). -/
def addScanned (l : List (Nat × Nat × SquareAcc)) (step v : Nat) (a : SquareAcc) : List (Nat × Nat × SquareAcc) :=
  if l.any fun x => x.1 == step && x.2.1 == v then
    l.map fun x => if x.1 = step ∧ x.2.1 = v then (step, v, sqPlus x.2.2 a) else x
  else l ++ [(step, v, a)]

/-- Every leaf's elements scanned as they enter (R224). -/
def State.scanLeaves (s : State) (j : Nat) (c : Coll) (i : CollInstance) (m : MemberEntry) (src : Bytes) : State :=
  let f := sendFmt c.decl
  (List.range m.leafCount).foldl (fun s k =>
    let v := m.firstContributor + k
    let xs := elemsOf f (src.drop (k * leafBytes c.decl i.rows)) (leafElements c.decl i.rows)
    let acc := xs.foldl (sqElem f) sqZero
    let finite := xs.all fun x => match decodeFloat f x with
      | .fin _ _ _ => true
      | _ => false
    let s := if finite then s else s.markNonFinite j i.step v
    (s.setStrag j fun y => { y with scanned := addScanned y.scanned i.step v acc }).sendSummary j c i v finite acc) s

/-- Leaf rows of deferred contributors copied to the reserve (R262). -/
def State.keepRows (s : State) (j n : Nat) (c : Coll) (i : CollInstance) (m : MemberEntry) (src : Bytes) : State :=
  match (s.job j).reserveAddr, (s.job j).strag.knows i.step with
  | some a, some ds =>
    (List.range m.leafCount).foldl (fun s k =>
      let v := m.firstContributor + k
      if ds.any fun d => d.contributor == v && d.code == 1 && d.origin == i.step then
        let len := leafBytes c.decl i.rows
        let x := (s.job j).strag
        let o := match x.kept.find? fun e => e.1 == n && e.2.1 == i.ordinal && e.2.2.1 == v with
          | some e => e.2.2.2.1
          | none => x.kept.foldl (fun o e => max o (e.2.2.2.1 + e.2.2.2.2.1)) 0
        let rest := x.kept.filter fun e => !(e.1 == n && e.2.1 == i.ordinal && e.2.2.1 == v)
        (s.setMem fun y => y.write (a + o) ((src.drop (k * len)).take len)).setStrag j fun y => { y with
          kept := rest ++ [(n, i.ordinal, v, o, len, i.step)] }
      else s) s
  | _, _ => s

/-! ## Other operations (R218, R230) -/

/-- Rows that this module sends to each member when the call gives no counts. -/
def staticRows (d : CollDecl) (m : Nat) : Nat := (d.pieces.filter fun p => p.member == m).foldl (fun n p => n + p.count) 0

/-- The member whose data the pieces of an operation come from. -/
def pieceSource (d : CollDecl) (p : PieceEntry) : Option Nat :=
  if d.op = 5 then d.members.findIdx? fun m => decide (m.firstLeaf ≤ d.param) && decide (d.param < m.firstLeaf + m.leafCount)
  else some p.member

/-- A member's own elements of one piece out of packed rows of the pieces it owns (R218). -/
def pieceOfOwned (d : CollDecl) (m rows : Nat) (p : PieceEntry) (xs : List Nat) : List Nat :=
  let len := ownedLength d m
  let off := ((ownedPieces d m).takeWhile fun q => q != p).foldl (fun n q => n + q.count) 0
  (List.range rows).flatMap fun r => (xs.drop (r * len + off)).take p.count

/-- Data of a gather or broadcast given to every member. -/
def State.giveData (s : State) (j n : Nat) (c : Coll) (i : CollInstance) (me : Nat) (elems : PieceEntry → List Nat) : State :=
  let f := sendFmt c.decl
  (List.range c.decl.pieces.length).foldl (fun s k =>
    match c.decl.pieces[k]? with
    | none => s
    | some p =>
      if p.count = 0 ∨ pieceSource c.decl p ≠ some me then s
      else (List.range c.decl.members.length).foldl (fun s d =>
        s.give j n i.number me d 1 k 0 k 0 false (packElems f (elems p))) s) s

/-- Rows of an ALL_TO_ALL given to every member, and the counts before them (R230). -/
def State.giveRows (s : State) (j n : Nat) (c : Coll) (i : CollInstance) (me : Nat) (counts : List Nat) (dynamic : Bool) (src : Bytes) : State :=
  let rowBytes := c.decl.param * (sendFmt c.decl).size
  let go := fun (acc : State × Nat) (d : Nat) =>
    let k := counts.getD d 0
    let s := if dynamic then
        if d = me then acc.1.setInst j n i.number fun y => { y with gotCounts := y.gotCounts ++ [(me, k)] }
        else match c.decl.members[d]? with
          | none => acc.1
          | some m => match acc.1.send 2 (acc.1.collMsg j c i m.device 3 0 (2 ^ 22) false (toLe 4 k)) with
            | some (_, s) => s
            | none => acc.1
      else acc.1
    (s.give j n i.number me d 1 me 0 me 0 false ((src.drop (acc.2 * rowBytes)).take (k * rowBytes)), acc.2 + k)
  ((List.range c.decl.members.length).foldl go (s, 0)).1

/-! ## Progress -/

/-- The blocks of one payload, complete and in order. -/
def CollInstance.payload (i : CollInstance) (member kind lo last bytes : Nat) : Option Bytes :=
  let get := fun (k : Nat) => i.landed.find? fun x => x.member == member && x.kind == kind && x.lo == lo && x.last == last && x.block == k
  let n := ceilDiv bytes 4096
  if (List.range n).all fun k => (get k).isSome then
    some (((List.range n).map fun k => ((get k).map (·.content)).getD []).flatten.take bytes)
  else none

/-- A job stops on this module for what a collective met (R84, R219, R229). -/
def State.collFail (s : State) (j : Nat) : Got → State
  | .err 3 => s.faultStop j stUncorrectable true
  | .err 4 => s.faultStop j stFenced true
  | .err _ | .far _ | .peer _ _ => s.faultStop j stBadParam true
  | _ => s

/-- Credit for the segments of a source that have been emptied: whole ones as they land, the rest at the end (R227). -/
def State.giveCredit (s : State) (j n num : Nat) (last : Bool) : State :=
  match s.inst j n num with
  | none => s
  | some (c, i) =>
    i.gets.foldl (fun s g =>
      let due := (if last then ceilDiv g.2.1 16 else g.2.1 / 16) - g.2.2
      if due = 0 then s
      else match c.decl.members[g.1]? with
        | none => s
        | some m =>
          let s := match s.send 2 (s.collMsg j c i m.device 3 0 due false []) with
            | some (_, s) => s
            | none => s
          s.setInst j n num fun y => { y with gets := setCounts y.gets g.1 (g.2.1, g.2.2 + due) }) s

/-- Values of the maximal local nodes that own elements here; none while a term is missing. -/
def State.termTable (s : State) (j : Nat) (c : Coll) (i : CollInstance) (me : Nat) : Option (List ((Nat × Nat) × Option (List Nat))) :=
  let f := sendFmt c.decl
  let x := (s.job j).strag
  let count := i.rows * ownedLength c.decl me
  let entry := fun (d : Nat) (m : MemberEntry) (nd : Nat × Nat) =>
    let last := nd.1 + nd.2 - 1
    let leaves := (List.range nd.2).map fun k => leafContributor m (nd.1 + k)
    let absent := isGradient c.decl && leaves.all fun v => x.forms i.step v == (false, false)
    let touched := isGradient c.decl && leaves.any fun v => x.touched i.step v
    if absent then some (nd, none)
    else if touched && i.landed.any fun y => y.member == d && y.kind == 0 && y.lo == nd.1 && y.last == last && !y.after then none
    else (i.payload d 0 nd.1 last (count * f.size)).map fun b => (nd, some (elemsOf f b count))
  ((List.range c.decl.members.length).flatMap fun d => match c.decl.members[d]? with
    | none => []
    | some m =>
      (if isUnordered c.decl then [(m.firstLeaf, m.leafCount)]
        else localNodes treeDepth 0 c.decl.width m.firstLeaf (m.firstLeaf + m.leafCount)).map (entry d m)).foldr
      (fun e acc => match e, acc with
        | some e, some l => some (e :: l)
        | _, _ => none) (some [])

/-- The reduced elements owned here: the canonical tree, or the terms in the order of arrival (R220, R225). An absent root gives
+0. -/
def reduceTable (c : Coll) (i : CollInstance) (count : Nat) (table : List ((Nat × Nat) × Option (List Nat))) : List Nat :=
  let f := sendFmt c.decl
  let v := if isUnordered c.decl then
      let order := (i.landed.filter fun x => x.kind == 0 && x.block == 0).map fun x => x.lo
      let terms := order.filterMap fun lo => (table.find? fun e => e.1.1 == lo).bind (·.2)
      match terms with
      | [] => none
      | t :: ts => some (ts.foldl (List.zipWith (fAdd f)) t)
    else nodeValue f (fun lo k => (table.find? fun e => e.1 == (lo, k)).map (·.2)) treeDepth 0 c.decl.width
  v.getD (List.replicate count 0)

/-- Elements that a member owns, from piece by piece to packed rows (R218). -/
def ownedRows (d : CollDecl) (m rows : Nat) (xs : List Nat) : List Nat :=
  let offs := (ownedPieces d m).foldl (fun (acc : List (Nat × Nat) × Nat) p => (acc.1 ++ [(acc.2, p.count)], acc.2 + rows * p.count)) ([], 0)
  (List.range rows).flatMap fun r => offs.1.flatMap fun o => (xs.drop (o.1 + r * o.2)).take o.2

/-- An owner reduces its pieces once every term is there and, in a GRADIENT context, INCLUDE is known (R221, R260). -/
def State.collReduce (s : State) (j n num me : Nat) : State :=
  match s.inst j n num with
  | none => s
  | some (c, i) =>
    if i.reduced || !reduces c.decl || (isGradient c.decl && ((s.job j).strag.knows i.step).isNone) then s
    else match s.termTable j c i me with
      | none => s
      | some table =>
        let f := sendFmt c.decl
        let count := i.rows * ownedLength c.decl me
        let xs := reduceTable c i count table
        let mark := fun (s : State) => s.setInst j n num fun y => { y with reduced := true, landed := y.landed.filter fun x => x.kind != 0 }
        let stat := fun (s : State) =>
          if !isGradient c.decl ∨ count = 0 then s
          else
            let acc := xs.foldl (sqElem f) sqZero
            (s.setStrag j fun y => { y with reducedSq := sqPlus y.reducedSq acc }).sendSummary j c i 0xFFFFFFFF true acc
        if c.decl.op = 2 then
          match s.writeDev j i.prov i.dst (packElems f (ownedRows c.decl me i.rows xs)) with
          | .ok _ s => (mark (stat s)).setInst j n num fun y => { y with written := true }
          | g => s.collFail j g
        else
          let rows := ownedRows c.decl me i.rows xs
          (mark (stat s)).giveData j n c i me fun p => pieceOfOwned c.decl me i.rows p rows

/-- Full rows written at dst once every piece is there (R218). -/
def State.collRows (s : State) (j n num : Nat) : State :=
  match s.inst j n num with
  | none => s
  | some (c, i) =>
    if i.written || !(c.decl.op == 1 || c.decl.op == 3 || c.decl.op == 5) then s
    else
      let fs := sendFmt c.decl
      let fr := recvFmt c.decl
      let got := (List.range c.decl.pieces.length).map fun k => match c.decl.pieces[k]? with
        | none => some (0, 0, [])
        | some p =>
          if p.count = 0 then some (0, 0, [])
          else (((pieceSource c.decl p)).bind fun d => i.payload d 1 k 0 (i.rows * p.count * fs.size)).map fun b =>
            (p.first, p.count, elemsOf fs b (i.rows * p.count))
      if got.any (·.isNone) then s
      else
        let parts := got.filterMap id
        let row := fun (r : Nat) => parts.flatMap fun x => (x.2.2.drop (r * x.2.1)).take x.2.1
        let out := packElems fr (((List.range i.rows).flatMap row).map fun x => convElem fs fr ConvParams.plain x)
        match s.writeDev j i.prov i.dst out with
        | .ok _ s => s.setInst j n num fun y => { y with written := true }
        | g => s.collFail j g

/-- Rows of an ALL_TO_ALL written in ascending sender order, those beyond the capacity left out, and the counts received
(R230). -/
def State.collExchange (s : State) (j n num me : Nat) : State :=
  match s.inst j n num with
  | none => s
  | some (c, i) =>
    if i.written || c.decl.op != 4 then s
    else
      let fs := sendFmt c.decl
      let fr := recvFmt c.decl
      let w := c.decl.members.length
      let countFrom := fun (d : Nat) => if i.counts = 0 then some (staticRows c.decl me) else (i.gotCounts.find? fun x => x.1 == d).map (·.2)
      let got := (List.range w).map fun d => (countFrom d).bind fun k =>
        (i.payload d 1 d 0 (k * c.decl.param * fs.size)).map fun b => (k, elemsOf fs b (k * c.decl.param))
      if got.any (·.isNone) then s
      else
        let parts := got.filterMap id
        let xs := (parts.flatMap (·.2)).take (i.rows * c.decl.param)
        match s.writeDev j i.prov i.dst (packElems fr (xs.map fun x => convElem fs fr ConvParams.plain x)) with
        | .ok _ s =>
          let g := if i.counts = 0 then Got.ok [] s
            else s.writeDev j i.prov (i.counts + 4 * w) ((parts.map fun x => toLe 4 x.1).flatten)
          (match g with
            | .ok _ s => s.setInst j n num fun y => { y with written := true }
            | g => s.collFail j g)
        | g => s.collFail j g

/-- What an instance can do at present. -/
def State.collProgress (s : State) (j n num : Nat) : State :=
  match s.coll j n with
  | none => s
  | some c =>
    match memberIndex c.decl s.ident.device with
    | none => s
    | some me =>
      let s := (s.collReduce j n num me).collRows j n num |>.collExchange j n num me
      let s := match s.inst j n num with
        | some (_, i) => if i.written then s.giveCredit j n num true else s
        | none => s
      s.pump j n num

/-! ## COLLSTART -/

/-- Bytes that the instance reads at src. -/
def srcBytes (d : CollDecl) (me rows : Nat) (counts : List Nat) : Nat :=
  let size := (sendFmt d).size
  match d.op with
  | 1 | 2 => ((d.members[me]?).map (·.leafCount)).getD 0 * leafBytes d rows
  | 3 => rows * ownedLength d me * size
  | 4 => counts.foldl (· + ·) 0 * d.param * size
  | 5 => if (d.members.findIdx? fun m => decide (m.firstLeaf ≤ d.param) && decide (d.param < m.firstLeaf + m.leafCount)) = some me then
      leafBytes d rows else 0
  | _ => 0

/-- An instance's inputs read and entered (R218, R221, R224, R230). -/
def State.collEnter (s : State) (j n : Nat) (c : Coll) (i : CollInstance) (me : Nat) (counts : List Nat) (src : Bytes) : State :=
  let f := sendFmt c.decl
  match c.decl.op, c.decl.members[me]? with
  | 1, some m | 2, some m =>
    let s := if isGradient c.decl then (s.scanLeaves j c i m src).keepRows j n c i m src else s
    s.giveTerms j n c i me m src false
  | 3, _ =>
    let xs := elemsOf f src (i.rows * ownedLength c.decl me)
    s.giveData j n c i me fun p => pieceOfOwned c.decl me i.rows p xs
  | 4, _ => s.giveRows j n c i me counts (i.counts != 0) src
  | 5, _ =>
    let xs := elemsOf f src (leafElements c.decl i.rows)
    s.giveData j n c i me fun p => pieceOfRows (rowLength c.decl) i.rows p xs
  | _, _ => s

/-- A sequencer's instance begins: messages that came early for it are due after it. -/
def State.collBegin (s : State) (j n : Nat) (i : CollInstance) : State :=
  s.setColl j n fun c => { c with
    started := c.started + 1, inStep := (i.step, i.ordinal + 1), active := c.active ++ [i] }

/-! ## Messages arriving -/

/-- A message that fits no instance (R219). -/
def State.collMisfit (s : State) (p j : Nat) (h : Header) : State := (s.protocolError p j h).faultStop j stBadParam true

/-- Bits [63:58] of a collective address. -/
def collNumber (h : Header) : Nat := bitsOf h.address.toNat 58 6

/-- Bits [57:56]. -/
def collKind (h : Header) : Nat := bitsOf h.address.toNat 56 2

/-- Whether a TERM or DATA message is one that a member of the table can send (R219, R226). -/
def fitsTable (d : CollDecl) (kind index : Nat) (m : MemberEntry) : Bool :=
  if kind = 0 then
    let lo := index / 65536
    let n := index % 65536 + 1 - lo
    reduces d && (if isUnordered d then lo == m.firstLeaf && n == m.leafCount
      else (localNodes treeDepth 0 d.width m.firstLeaf (m.firstLeaf + m.leafCount)).contains (lo, n))
  else if d.op = 4 then (d.members[index]?).any fun x => x.device == m.device
  else match d.pieces[index]? with
    | some q => q.count != 0 && (((pieceSource d q).bind fun k => d.members[k]?).any fun x => x.device == m.device)
    | none => false

/-- A TERM or DATA message lands in its instance. -/
def State.collLand (s : State) (p j n : Nat) (c : Coll) (i : CollInstance) (d : Nat) (m : Msg) : State :=
  let index := bitsOf m.hdr.address.toNat 24 32
  let kind := collKind m.hdr
  match c.decl.members[d]? with
  | none => s.collMisfit p j m.hdr
  | some e =>
    if !fitsTable c.decl kind index e || m.content.isEmpty then s.collMisfit p j m.hdr
    else if !m.bad.isEmpty then s.faultStop j stUncorrectable true
    else
      let lo := if kind = 0 then index / 65536 else index
      let last := if kind = 0 then index % 65536 else 0
      let x : Landed := { member := d, kind := kind, lo := lo, last := last, block := bitsOf m.hdr.address.toNat 0 24
                          after := m.hdr.reason == 1, content := m.content }
      let s := s.setInst j n i.number fun y =>
        let k := countsOf y.gets d
        { y.land x with gets := setCounts y.gets d (k.1 + 1, k.2) }
      (s.giveCredit j n i.number false).collProgress j n i.number

/-- A CONTROL message: credit, or the rows that a sender gives (R226, R230). -/
def State.collControl (s : State) (j n : Nat) (i : CollInstance) (d : Nat) (m : Msg) : State :=
  let block := bitsOf m.hdr.address.toNat 0 24
  if block / 2 ^ 22 = 0 then
    (s.setInst j n i.number fun y => let k := countsOf y.sends d; { y with sends := setCounts y.sends d (k.1, k.2 + block % 2 ^ 22) }).collProgress
      j n i.number
  else
    (s.setInst j n i.number fun y => { y with gotCounts := (y.gotCounts.filter fun x => x.1 != d) ++ [(d, fieldN m.content 0 4)] }).collProgress
      j n i.number

/-- A collective message whose epoch and membership are this module's (R219, R226 to R228). -/
def State.collDeliver (s : State) (p : Nat) (m : Msg) : State :=
  let j := m.hdr.job
  let n := collNumber m.hdr
  match s.coll j n with
  | none => s.collMisfit p j m.hdr
  | some c =>
    match memberIndex c.decl m.hdr.source with
    | some d =>
      match c.active.find? fun i => i.number % 8192 == m.hdr.tag with
      | some i => if collKind m.hdr = 3 then s.collControl j n i d m else s.collLand p j n c i d m
      | none =>
        if m.hdr.tag = c.started % 8192 ∨ m.hdr.tag = (c.started + 1) % 8192 then
          s.setColl j n fun c => { c with early := c.early ++ [(p, m)] }
        else if collKind m.hdr = 3 then s
        else if isGradient c.decl then
          match c.decl.members[d]? with
          | none => s
          | some e => match s.send 2 { hdr := { headerOf s e.device 0x10 j m.hdr.tag (n * 2 ^ 58 + 3 * 2 ^ 56 + 1) 0 with membership := m.hdr.membership }
                                       content := [], bad := [] } with
            | some (_, s) => s
            | none => s
        else s.collMisfit p j m.hdr
    | none => s.collMisfit p j m.hdr

/-- A collective message by its epoch (R152, R228). -/
def State.collEpoch (s : State) (p : Nat) (m : Msg) : State :=
  let j := m.hdr.job
  match (s.job j).epochCase m.hdr with
  | .committed | .prov none => s.collDeliver p m
  | .prov (some e) => (s.openEpoch j e true).collDeliver p m
  | .dropped => s
  | .held => s.setColl j (collNumber m.hdr) fun c => { c with early := c.early ++ [(p, m)] }
  | .bad => s.protocolError p j m.hdr

/-- Early messages of a collective tried again, in the order of arrival. -/
def State.collRetry (s : State) (j n : Nat) : State :=
  match s.coll j n with
  | none => s
  | some c => c.early.foldl (fun s x => s.collEpoch x.1 x.2) (s.setColl j n fun c => { c with early := [] })

/-- A COLLECTIVE message at its target (R202, R249). -/
def State.admitColl (s : State) (p : Nat) (m : Msg) : State :=
  if !s.inDeviceSet m.hdr.source then s.wardDrop p
  else if m.hdr.job ≥ 64 ∨ !(s.job m.hdr.job).loaded then s.protocolError p m.hdr.job m.hdr
  else match (s.job m.hdr.job).turnover m.hdr.membership with
    | .stale => s.countStale p
    | .early => s.protocolError p m.hdr.job m.hdr
    | .held => s.setMember m.hdr.job fun x => { x with held := x.held ++ [(p, m)] }
    | .now => s.collEpoch p m

/-- A COLLECTIVE row of one kind. -/
def collRow (p : Nat) (m : Msg) (kind : Nat) (s : State) : State :=
  if s.arrived p m 0x10 ∧ collKind m.hdr = kind then (s.takeRx p m).admitColl p m else s

/-- TERM (R221, R226, R260). -/
def execTerm (port : Nat) (m : Msg) (s : State) : Host.Outcome State Fault Refusal := s.become (collRow port m 0 s)

/-- COLLECTIVE_CREDIT (R227). -/
def doCollectiveCredit (p : Nat) (m : Msg) (s : State) : State := if bitsOf m.hdr.address.toNat 22 2 = 0 then collRow p m 3 s else s

/-- COLLECTIVE_CREDIT. -/
def execCollectiveCredit (port : Nat) (m : Msg) (s : State) : Host.Outcome State Fault Refusal := s.become (doCollectiveCredit port m s)

/-- COLLECTIVE_COUNTS (R230). -/
def doCollectiveCounts (p : Nat) (m : Msg) (s : State) : State := if bitsOf m.hdr.address.toNat 22 2 = 1 then collRow p m 3 s else s

/-- COLLECTIVE_COUNTS. -/
def execCollectiveCounts (port : Nat) (m : Msg) (s : State) : Host.Outcome State Fault Refusal := s.become (doCollectiveCounts port m s)

/-- SUMMARY (R224, R227): consumed on arrival; `contributor` 0xFFFFFFFF stands for the reduced elements of an owner. -/
def doSummary (p : Nat) (m : Msg) (v : Nat) (finite : Bool) (acc : SquareAcc) (s0 : State) : State :=
  if !s0.arrived p m 0x10 ∨ collKind m.hdr ≠ 2 then s0
  else
    let s := s0.takeRx p m
    let j := m.hdr.job
    if !s.inDeviceSet m.hdr.source then s.wardDrop p
    else if j ≥ 64 ∨ !(s.job j).loaded then s.protocolError p j m.hdr
    else if (s.job j).turnover m.hdr.membership = .stale then s.countStale p
    else
      let step := (s.job j).train.judged
      if v = 0xFFFFFFFF then s.setStrag j fun y => { y with reducedSq := sqPlus y.reducedSq acc }
      else
        let s := if finite then s else s.markNonFinite j step v
        s.setStrag j fun y => { y with scanned := addScanned y.scanned step v acc }

/-- SUMMARY. -/
def execSummary (port : Nat) (m : Msg) (contributor : Nat) (finite : Bool) (acc : SquareAcc) (s : State) : Host.Outcome State Fault Refusal :=
  s.become (doSummary port m contributor finite acc s)

/-! ## Rows of the core -/

/-- COLLSTART (R217 to R219): the next instance of a collective, behind at most one other in progress. -/
def doCollstart (t : TaskRef) (off : Nat) (s0 : State) : State :=
  match s0.issue t with
  | none => s0
  | some (k, s) =>
    if off % 32 ≠ 0 then s0
    else match s.readWs t k off 32 with
      | .ok call s =>
        let j := t.job
        let n := fieldN call 0 2
        match s.coll j n with
        | none => s0
        | some c =>
          match memberIndex c.decl s.ident.device with
          | none => s0
          | some me =>
            if c.decl.op = 6 then s0
            else if c.active.length ≥ 2 then (s0.hold (.task t) (.collstart t off)).setTask t fun x => { x with block := some .collective }
            else
              let step := (s.job j).train.step
              let rows := fieldN call 4 4
              let i : CollInstance :=
                { number := c.started, signal := bitOf (fieldN call 2 1) 0, line := fieldN call 3 1, rows := rows
                  src := fieldN call 8 8, dst := fieldN call 0x10 8, counts := fieldN call 0x18 8, step := step, prov := k.prov
                  written := rows == 0, ordinal := if c.inStep.1 = step then c.inStep.2 else 0 }
              if rows = 0 then s.collBegin j n i
              else
                let w := c.decl.members.length
                let g := if c.decl.op = 4 ∧ i.counts ≠ 0 then s.readDev j k.prov i.counts (4 * w) else .ok [] s
                match g with
                | .ok cb s =>
                  let counts := if c.decl.op = 4 ∧ i.counts = 0 then (List.range w).map (staticRows c.decl)
                    else (List.range w).map fun d => fieldN cb (4 * d) 4
                  (match s.readDev j k.prov i.src (srcBytes c.decl me rows counts) with
                    | .ok src s =>
                      let s := (s.collBegin j n i).collEnter j n c i me counts src
                      (s.collProgress j n i.number).collRetry j n
                    | .wait => s0.hold (.task t) (.collstart t off)
                    | g => s.collFail j g)
                | .wait => s0.hold (.task t) (.collstart t off)
                | g => s.collFail j g
      | g => s0.unitFail t (.collstart t off) g

/-- COLLSTART. -/
def execCollstart (t : TaskRef) (off : Nat) (s : State) : Host.Outcome State Fault Refusal := s.become (doCollstart t off s)

/-- Whether an instance is complete: results written, every send taken, and INCLUDE known to a GRADIENT one (R219, R262). -/
def State.instDone (s : State) (j : Nat) (c : Coll) (i : CollInstance) : Bool :=
  i.written && i.outbox.isEmpty && (i.sends.all fun x => decide (x.2.1 ≤ 16 * x.2.2)) &&
    (!isGradient c.decl || i.rows == 0 || ((s.job j).strag.knows i.step).isSome || decide (i.step < (s.job j).train.judged))

/-- COLLECTIVE_INSTANCE_DONE (R219): the oldest instance of a collective is complete; its line is pulsed with SIGNAL, and a
COLLSTART that waited can go on. -/
def doCollectiveInstanceDone (j n : Nat) (s : State) : State :=
  match s.coll j n with
  | none => s
  | some c =>
    match c.active.head? with
    | none => s
    | some i0 =>
      let s := s.collProgress j n i0.number
      match s.inst j n i0.number with
      | none => s
      | some (c, i) =>
        if !s.instDone j c i then s
        else
          let s := s.setColl j n fun c => { c with active := c.active.drop 1 }
          let wake := fun (k : Task) => if k.block = some Block.collective then { k with block := none } else k
          let s := s.setJob j fun b => { b with tasks := b.tasks.map wake }
          if i.signal then s.pulse j (dieOf c.decl.reducingCore) i.line 1 else s

/-- COLLECTIVE_INSTANCE_DONE. -/
def execCollectiveInstanceDone (job coll : Nat) (s : State) : Host.Outcome State Fault Refusal := s.become (doCollectiveInstanceDone job coll s)

end Sys2Proof.Machine
end

