-- ==== Sys2Proof/Machine/Stop.lean ====
section
/-! DEFINITION. Stopping and starting a job, and lending its cores: the restart at skip entries (R154 to R156), JOB_STOP, JOB_START
and JOB_UNLOAD (R53, R87, R156, R312, R313, R319), LEND and RECLAIM (R326 to R328). -/

namespace Sys2Proof.Machine

/-! ## Provisional agents restarted (R154, R155) -/

/-- What of a job is in provisional mode: tasks, channels, instances of collectives. -/
structure ProvSet where
  tasks : List Nat
  chans : List ChanRef
  insts : List (Nat × Nat)
  deriving DecidableEq, Repr

/-- The provisional agents of a job, or under NO_SPEC the tasks that wait for the verdict of their own step (R173). -/
def Job.provSet (b : Job) (j : Nat) : ProvSet :=
  { tasks := (List.range b.tasks.length).filter fun i => (b.tasks[i]?).any fun k => k.prov || (b.train.noSpecAt.isSome && k.atEpoch)
    chans := (b.chans.filter fun c => c.prov).map fun c => c.ref j
    insts := b.colls.flatMap fun c => (c.active.filter fun i => i.prov).map fun i => (c.decl.num, i.number) }

/-- A step channel restarted at its skip entry, or left idle without one (R154). -/
def Job.restartChan (b : Job) (c : Chan) : Chan :=
  let c := { c with loops := [], writes := 0, reads := 0, remote := [], issued := false, wrote := false, prov := false }
  let home := if c.decl.die then c.home else ((b.tasks[c.owner]?).map (·.home)).getD 0
  match c.decl.skipEntry with
  | some p => { c with pc := b.placeAddr home p, state := if c.state = 4 then 4 else 1, savedState := 1 }
  | none => { c with state := 0 }

/-- A core's task restarted at its skip entry; its tiles and open phases are gone (R154, R155). -/
def Task.restart (k : Task) : Task :=
  { k with prov := false, atEpoch := false, tiles := [], phases := [], resume := some k.skipEntry, block := none, atPoint := true }

/-- Agents restarted at their skip entries (R154). -/
def State.restart (s : State) (j : Nat) (ps : ProvSet) : State :=
  let s := s.leaveLines fun a => match a with
    | .task t => t.job == j && ps.tasks.contains t.task
    | .chan r => ps.chans.contains r
  let s := ps.chans.foldl (fun s r => s.dropChan r) s
  let s := s.dropWaiting fun w => match w.1 with
    | .task t => t.job == j && ps.tasks.contains t.task
    | _ => (chanOfRow w.2).any fun r => ps.chans.contains r
  s.setJob j fun b =>
    let redo := fun (c : Chan) => if ps.chans.contains (c.ref j) then b.restartChan c else c
    let cut := fun (c : Coll) => { c with
      active := c.active.filter fun i => !ps.insts.contains (c.decl.num, i.number)
      started := if c.active.any fun i => ps.insts.contains (c.decl.num, i.number) then c.startedAtOpen else c.started }
    { b with tasks := b.tasks.mapIdx fun i (k : Task) => if ps.tasks.contains i then k.restart else k, chans := b.chans.map redo
             colls := b.colls.map cut }

/-! ## Stopping -/

/-- A job leaves its cores with its channels stopped exactly and is STOPPED (R111, R156). -/
def State.stopNow (s : State) (j : Nat) : State :=
  let s := (s.offCores j).setJob j fun b => { b with
    chans := b.chans.map Chan.save, tasks := b.tasks.map fun (k : Task) => { k with pace := none }, stopper := none, faultStatus := 0 }
  s.enter j 2

/-- A job leaves the running state by command: it is STOPPING, and JOB_WAIT is answered OK (R305, R312). -/
def State.leaveRunning (s : State) (j : Nat) : State := (s.enter j 4).answerWaits j stOk

/-- A job that has been stopped by command. -/
def State.stopDone (s : State) (j : Nat) : State := (s.stopNow j).fillAll

/-- JOB_STOP (R156, R313): at once at a committed boundary, else after the open epoch's verdict. -/
def doJobStop (r : CmdRef) (c : Cmd) (s : State) : State :=
  let j := c.job
  let b := s.job j
  s.checked r [c.beyond 0, b.stateCheck 0x0105] fun s =>
    if b.state ≠ 3 then s.reply r stOk 0 0
    else if b.train.openEpoch.isSome then (s.setJob j fun b => { b with stopper := some { cmd := r, cast := false } }).leaveRunning j
    else ((s.leaveRunning j).stopDone j).reply r stOk 0 0

/-- JOB_STOP. -/
def execJobStop (r : CmdRef) (s : State) : Host.Outcome State Fault Refusal := s.become (cmdRow r 0x0105 (.jobStop r) (doJobStop r) s)

/-! ## Starting -/

/-- The chunk length of a row setting (R52, R53). -/
def chunkOf (rows : Nat) : Nat := if rows = 2 then 128 else if rows = 1 then 32 else 64

/-- Every channel that names a program begins at its first instruction, at the first start since JOB_LOAD; saved channels resume
(R87, R111). -/
def Job.startChans (b : Job) : List Chan :=
  b.chans.map fun (c : Chan) =>
    if b.started then (if c.decl.die then c.resume else c)
    else match c.decl.entry with
      | some p =>
        let home := if c.decl.die then c.home else ((b.tasks[c.owner]?).map (·.home)).getD 0
        { c with pc := b.placeAddr home p, skip := c.decl.skip, loops := [], savedState := 1, state := if c.decl.die then 1 else 4 }
      | none => c

/-- A job is set running (R53, R87, R277, R312). -/
def State.startJob (s : State) (j : Nat) : State :=
  let rows := s.power.rows
  let s := s.setJob j fun b => { b with
    chans := b.startChans, started := true, chunk := if b.classF then 32 else chunkOf rows, seed := fieldN (b.block 3) 0 8, faultStatus := 0
    train := { b.train with fresh := false } }
  (s.enter j 3).startTasks j

/-- JOB_START (R53, R303, R312). -/
def doJobStart (r : CmdRef) (c : Cmd) (s : State) : State :=
  let b := s.job c.job
  s.checked r [c.beyond 0, b.stateCheck 0x0104] fun s => (s.startJob c.job).reply r stOk 0 0

/-- JOB_START. -/
def execJobStart (r : CmdRef) (s : State) : Host.Outcome State Fault Refusal := s.become (cmdRow r 0x0104 (.jobStart r) (doJobStart r) s)

/-! ## Lending (R326 to R328) -/

/-- The tasks of a borrower spread onto a core that it takes: each task of the die moves while the core holds fewer of its tasks
(R315, R327; log entry 28). -/
def State.spread (s : State) (j core : Nat) : State :=
  (List.range (s.job j).tasks.length).foldl (fun s i =>
    let count := fun (c : Nat) => ((s.job j).tasks.filter fun k => k.core == c).length
    let t : TaskRef := { job := j, task := i }
    match s.task t with
    | none => s
    | some k =>
      if dieOf k.core = dieOf core ∧ k.core ≠ core ∧ count core + 1 < count k.core ∧ !s.isRunning t then
        ((s.dequeue t).setTask t fun x => { x with core := core, inSlot := true }).enqueue t
      else s) s

/-- A core passes from its lender to the borrower at a preemption point; none while it cannot yet (R327). -/
def State.passCore (s : State) (j core kind borrower : Nat) : Option State :=
  if !s.atGap core then none
  else
    let s := s.applyMargins core
    let s := if kind = 3 then ((List.range (s.job j).tasks.length).foldl (fun s i =>
        let t : TaskRef := { job := j, task := i }
        if (s.task t).any fun k => k.core == core then (s.dequeue t).setTask t fun x => { x with inSlot := true } else s) s)
      else (s.moveOff j core).getD s
    let s := s.setJob j fun b => { b with lent := b.lent ++ [(core, kind, borrower)] }
    let s := s.setJob borrower fun b => { b with borrowed := b.borrowed ++ [(core, j)] }
    some (s.spread borrower core).fillAll

/-- A lent core returns to its lender at the borrower's preemption point, with the tasks whose home it is (R327). -/
def State.returnCore (s : State) (j core : Nat) : Option State :=
  match (s.job j).lent.find? fun l => l.1 == core && l.2.1 != 2 with
  | none => some s
  | some l =>
    if !s.atGap core then none
    else
      let s := s.applyMargins core
      let s := s.setJob l.2.2 fun b => { b with borrowed := b.borrowed.filter fun x => x.1 != core }
      let s := (s.moveOff l.2.2 core).getD s
      let s := s.setJob j fun b => { b with lent := b.lent.filter fun x => !(x.1 == core && x.2.1 != 2) }
      let s := (List.range (s.job j).tasks.length).foldl (fun s i =>
        let t : TaskRef := { job := j, task := i }
        match s.task t with
        | some k => if k.home = core then ((s.dequeue t).saveChans t |>.setTask t fun x => { x with core := core, inSlot := true }).enqueue t else s
        | none => s) s
      some s.fillAll

/-- The cores that a LEND or RECLAIM under way can pass now; the reply follows the last one (R327). -/
def State.lendProgress (s : State) (j : Nat) : State :=
  match (s.job j).lending with
  | none => s
  | some (r, cores) =>
    match s.cmd r with
    | none => s.setJob j fun b => { b with lending := none }
    | some c =>
      let kind := c.p 0 1
      let step := fun (acc : State × List Nat) (core : Nat) =>
        match (if c.opcode = 0x0108 then acc.1.passCore j core kind (c.p 2 2) else acc.1.returnCore j core) with
        | some s => (s, acc.2)
        | none => (acc.1, acc.2 ++ [core])
      let x := cores.foldl step (s, [])
      if x.2.isEmpty then (x.1.setJob j fun b => { b with lending := none }).reply r stOk 0 0
      else x.1.setJob j fun b => { b with lending := some (r, x.2) }

/-- The cores that the parameters name. -/
def Cmd.namedCores (c : Cmd) : List Nat := coresOf (c.p 8 24)

/-- A loan of vector engines comes into force (R328). -/
def State.vecInForce (s : State) (j borrower : Nat) (cores : List Nat) : State :=
  (cores.foldl (fun s c => s.spread borrower c) (s.setJob j fun b => { b with lent := b.lent ++ cores.map fun c => (c, 2, borrower), vecLoan := none })).fillAll

/-- LEND (R326 to R328). -/
def doLend (r : CmdRef) (c : Cmd) (s : State) : State :=
  let j := c.job
  let b := s.job j
  let kind := c.p 0 1
  let borrower := c.p 2 2
  let cores := if kind = 3 then b.cores else c.namedCores
  let dies := (b.tasks.map fun k => dieOf k.home).dedup
  let bare := dies.any fun d => !(b.cores.any fun x => dieOf x == d && !cores.contains x)
  s.checked r [(cores.any s.coreInReset, stFenced, 0), (kind == 0 || decide (kind > 3), stBadParam, 0), c.reserved 1 1,
      (decide (borrower ≥ 64) || borrower == j || !(s.job borrower).loaded, stBadParam, 2), c.reserved 4 4,
      (cores.any fun x => !b.cores.contains x || b.lent.any fun l => l.1 == x, stBadParam, 8), (kind == 1 && !cores.isEmpty && bare, stBadParam, 8),
      (kind == 2 && (s.job borrower).bestEffort, stBadParam, 2), c.beyond 32, b.stateCheck 0x0108,
      (kind == 3 && b.state != 2, stBadState, b.state)] fun s =>
    if cores.isEmpty then s.reply r stOk 0 0
    else if kind ≠ 2 then (s.setJob j fun b => { b with lending := some (r, cores) }).lendProgress j
    else
      let s := s.setTrain j fun t => { t with lendDue := true }
      if b.train.openEpoch.isSome then s.setJob j fun b => { b with vecLoan := some (cores, borrower, r) }
      else (s.vecInForce j borrower cores).reply r stOk 0 0

/-- LEND. -/
def execLend (r : CmdRef) (s : State) : Host.Outcome State Fault Refusal := s.become (cmdRow r 0x0108 (.lend r) (doLend r) s)

/-- RECLAIM (R326 to R328). -/
def doReclaim (r : CmdRef) (c : Cmd) (s : State) : State :=
  let j := c.job
  let b := s.job j
  let kind := c.p 0 1
  let ofKind := fun (l : Nat × Nat × Nat) => if kind = 2 then l.2.1 == 2 else l.2.1 != 2
  let held := match b.vecLoan with
    | some v => if kind = 2 then v.1 else []
    | none => []
  let lent := (b.lent.filter ofKind).map (·.1) ++ held
  let cores := if kind = 3 then lent else c.namedCores
  s.checked r [(cores.any s.coreInReset, stFenced, 0), (kind == 0 || decide (kind > 3), stBadParam, 0), c.reserved 1 1, c.reserved 4 4,
      (cores.any fun x => !lent.contains x, stBadParam, 8), c.beyond 32, b.stateCheck 0x0109] fun s =>
    if cores.isEmpty then s.reply r stOk 0 0
    else if kind ≠ 2 then (s.setJob j fun b => { b with lending := some (r, cores) }).lendProgress j
    else
      let s := match b.vecLoan with
        | some v => if v.1.all fun x => cores.contains x then s.reply v.2.2 stOk 0 0 else s
        | none => s
      (s.setJob j fun b => { b with
        lent := b.lent.filter fun l => !(l.2.1 == 2 && cores.contains l.1)
        vecLoan := b.vecLoan.filter fun v => !v.1.all fun x => cores.contains x
        train := { b.train with reclaimDue := true, lendDue := false } }).reply r stOk 0 0

/-- RECLAIM. -/
def execReclaim (r : CmdRef) (s : State) : Host.Outcome State Fault Refusal := s.become (cmdRow r 0x0109 (.reclaim r) (doReclaim r) s)

/-! ## Unloading -/

/-- Everything a job holds is released and its context is EMPTY (R319). -/
def State.release (s : State) (j : Nat) : State :=
  let b := s.job j
  let s := (s.offCores j).leaveLines fun a => a.ofJob j
  let s := b.chans.foldl (fun s c => s.dropChan (c.ref j)) s
  let s := b.borrowed.foldl (fun s x => s.setJob x.2 fun l => { l with lent := l.lent.filter fun y => !(y.1 == x.1 && y.2.2 == j) }) s
  let s := { s with hbm := s.hbm.map fun (h : Stack) => { h with queue := h.queue.filter fun q => q.task.job != j } }
  let s := s.dropWaiting fun w => match w.1 with
    | .task t => t.job == j
    | _ => (chanOfRow w.2).any fun r => r.job == j
  (s.setJob j fun _ => {}).touchShadow

/-- JOB_UNLOAD (R319). -/
def doJobUnload (r : CmdRef) (c : Cmd) (s : State) : State :=
  let b := s.job c.job
  s.checked r [c.beyond 0, b.stateCheck 0x0102, (!b.lent.isEmpty, stBadState, b.state)] fun s =>
    let s := s.answerWaits c.job stOk
    (s.release c.job).fillAll.reply r stOk 0 0

/-- JOB_UNLOAD. -/
def execJobUnload (r : CmdRef) (s : State) : Host.Outcome State Fault Refusal := s.become (cmdRow r 0x0102 (.jobUnload r) (doJobUnload r) s)

end Sys2Proof.Machine
end

