-- ==== Sys2Proof/Machine/Transcend.lean ====
section
/-! DEFINITION. The transcendental units (R66, R67). The manual bounds each result and fixes the special values; it does
not say which of the FP32 values inside the bound a unit returns. The value is a free choice among exactly those
(`Config.transChoice`, log entry 2), the same for equal function and input bits (R67). -/

namespace Sys2Proof.Machine

/-- The six functions of R66. -/
inductive TransFn where
  | exp | log | rsqrt | tanh | erf | sigmoid
  deriving DecidableEq, Repr

/-- The function's number in `Config.transChoice`: its opcode of R65. -/
def TransFn.code : TransFn → Nat
  | .exp => 0x50 | .log => 0x51 | .rsqrt => 0x52 | .tanh => 0x53 | .erf => 0x54 | .sigmoid => 0x55

/-- The bound in units in the last place (R66). -/
def TransFn.bound : TransFn → Nat
  | .exp | .log | .rsqrt => 1
  | .tanh | .erf | .sigmoid => 2

/-- Fraction bits of the fixed-point work below; far more than the bounds need. -/
def fxBits : Nat := 200

/-- 1.0 in fixed point. -/
def fxOne : Int := (2 ^ 200 : Nat)

/-- ln 2 × 2^200. -/
def fxLn2 : Int := 0xb17217f7d1cf79abc9e3b39803f2f6af40f343267298b62d8a

/-- 2 ÷ √π × 2^200. -/
def fxErf : Int := 0x120dd750429b6d11ae3a914fed7fd8688281341d7587cea2e73

/-- A finite number in fixed point, cut off below. -/
def fxOf (n : Bool) (m : Nat) (e : Int) : Int :=
  let k := e + fxBits
  let v : Int := if k ≥ 0 then ((m * 2 ^ k.toNat : Nat) : Int) else ((m / 2 ^ (-k).toNat : Nat) : Int)
  if n then -v else v

/-- Fixed-point product. -/
def fxMul (a b : Int) : Int := a * b / fxOne

/-- e^r by `n` terms of its series in Horner form: 1 + r/k × (…). -/
def fxExpSeries : Nat → Nat → Int → Int
  | 0, _, _ => fxOne
  | n + 1, k, r => fxOne + fxMul r (fxExpSeries n (k + 1) r) / (k : Int)

/-- e^x for a fixed-point x, as significand × 2^exponent. -/
def fxExp (x : Int) : Num :=
  let k := x / fxLn2
  .fin false (fxExpSeries 60 1 (x - k * fxLn2)).toNat (k - fxBits)

/-- Sum of z^(2i+1)/(2i+1) for `n` terms, given the power z^(2i+1). -/
def fxAtanhSeries : Nat → Nat → Int → Int → Int
  | 0, _, _, _ => 0
  | n + 1, i, p, z2 => p / ((2 * i + 1 : Nat) : Int) + fxAtanhSeries n (i + 1) (fxMul p z2) z2

/-- log of m × 2^e, m positive. -/
def fxLog (m : Nat) (e : Int) : Int :=
  let l : Int := (bitLen m : Int) - 1
  -- f in [1, 2), halved when above 4/3
  let f := fxOf false m (-l)
  let (f, k) := if 3 * f > 4 * fxOne then (f / 2, e + l + 1) else (f, e + l)
  let z := (f - fxOne) * fxOne / (f + fxOne)
  2 * fxAtanhSeries 60 0 z (fxMul z z) + k * fxLn2

/-- Sum of (−1)^i x^(2i+1) / (i! (2i+1)), given t = (−1)^i x^(2i+1) / i!. -/
def fxErfSeries : Nat → Nat → Int → Int → Int
  | 0, _, _, _ => 0
  | n + 1, i, t, x2 =>
    t / ((2 * i + 1 : Nat) : Int) + fxErfSeries n (i + 1) (-(fxMul t x2) / ((i + 1 : Nat) : Int)) x2

/-- A fixed-point value as a number. -/
def fxNum (v : Int) : Num := .fin (decide (v < 0)) v.natAbs (-(fxBits : Int))

/-- A number within 2^-100 of its size of the exact value of the function at a positive or negative non-zero finite number,
where the exact value is not special. -/
def transApprox (fn : TransFn) (n : Bool) (m : Nat) (e : Int) : Num :=
  let x := fxOf n m e
  let big : Int := 200 * fxOne
  let xc := max (-big) (min big x)
  let one : Num := .fin false 1 0
  match fn with
  | .exp => fxExp xc
  | .log => fxNum (fxLog m e)
  | .rsqrt => (one.div 200 (.fin n m e)).sqrt 150
  | .tanh =>
    if scaledGt 1 (-20) m e then
      -- x − x³/3 + 2x⁵/15
      let a : Num := .fin n m e
      let a3 := (a.mul a).mul a
      let a5 := (a3.mul a).mul a
      (a.sub (a3.div 120 (.fin false 3 0))).add ((a5.mul (.fin false 2 0)).div 120 (.fin false 15 0))
    else
      let q := fxExp (-2 * (if xc < 0 then -xc else xc))
      let t := (one.sub q).div 200 (one.add q)
      if n then t.negate else t
  | .erf =>
    let ax := if x < 0 then -x else x
    let v := if ax ≥ 6 * fxOne then fxOne - (2 ^ 140 : Nat) else fxMul fxErf (fxErfSeries 260 0 ax (fxMul ax ax))
    fxNum (if n then -v else v)
  | .sigmoid =>
    if n then
      let q := fxExp xc
      q.div 300 (one.add q)
    else one.div 300 (one.add (fxExp (-xc)))

/-- The special and exact values of R66; none where only the bound holds. -/
def transSpecial (fn : TransFn) (x : Num) : Option Nat :=
  match fn, x with
  | _, .nan => some Fmt.fp32.nanBits
  | .exp, .inf n => some (if n then 0 else 0x7F800000)
  | .exp, .fin _ 0 _ => some 0x3F800000
  | .log, .inf n => some (if n then Fmt.fp32.nanBits else 0x7F800000)
  | .log, .fin _ 0 _ => some 0xFF800000
  | .log, .fin n m e =>
    if n then some Fmt.fp32.nanBits
    else if scaledGt m e 1 0 || scaledGt 1 0 m e then none else some 0
  | .rsqrt, .inf n => some (if n then Fmt.fp32.nanBits else 0)
  | .rsqrt, .fin n 0 _ => some (if n then 0xFF800000 else 0x7F800000)
  | .rsqrt, .fin n _ _ => if n then some Fmt.fp32.nanBits else none
  | .tanh, .inf n | .erf, .inf n => some (if n then 0xBF800000 else 0x3F800000)
  | .tanh, .fin n 0 _ | .erf, .fin n 0 _ => some (if n then 0x80000000 else 0)
  | .sigmoid, .inf n => some (if n then 0 else 0x3F800000)
  | .sigmoid, .fin _ 0 _ => some 0x3F000000
  | _, .fin .. => none

/-- Whether the positive FP32 code c lies within `b` units in its last place of the number y (R66). -/
def withinUlps (b c : Nat) (y : Num) : Bool :=
  match (decodeFloat .fp32 c).sub y with
  | .fin _ m e => !scaledGt m e b ((max (bitsOf c 23 8) 1 : Nat) - 150 : Int)
  | _ => false

/-- The FP32 codes inside the bound of R66 around a positive number, in ascending order. -/
def transCandidates (b : Nat) (y : Num) : List Nat :=
  let t := encodeNum .fp32 true y
  ((List.range 9).map fun i => t + i - 4).filter fun c => decide (c < 0x7F800000) && withinUlps b c y

/-- A transcendental function on FP32 bits (R66, R67). -/
def transcend (fn : TransFn) (bits : Nat) : Nat :=
  match transSpecial fn (decodeFloat .fp32 bits), decodeFloat .fp32 bits with
  | some v, _ => v
  | none, .fin n m e =>
    let y := transApprox fn n m e
    let a := if y.neg then y.negate else y
    match a with
    | .fin _ my ey =>
      if fn = .exp ∧ scaledGt my ey Fmt.fp32.maxFin.1 Fmt.fp32.maxFin.2 then 0x7F800000
      else
        let cs := (transCandidates fn.bound a).dedup
        let c := cs.getD (Config.transChoice fn.code (BitVec.ofNat 32 bits) % max cs.length 1) (encodeNum .fp32 true a)
        if y.neg then c + 2 ^ 31 else c
    | _ => Fmt.fp32.nanBits
  | none, _ => Fmt.fp32.nanBits

/-- The function in a format: BF16 and FP16 are widened exactly and the FP32 result rounded back (R66). -/
def transIn (fn : TransFn) (f : Fmt) (bits : Nat) : Nat :=
  if f = .fp32 then transcend fn bits else fCast .fp32 f (transcend fn (fCast f .fp32 bits))

end Sys2Proof.Machine
end

