-- ==== Sys2Proof/Machine/Vector.lean ====
section
/-! DEFINITION. The vector engine (R63 to R73, R429) and the scalar operations of the core controller (R64). -/

namespace Sys2Proof.Machine

/-- The first `n` elements from register `r` upwards, packed at the format's width (R65, R429). -/
def Task.vget (k : Task) (r : Nat) (f : Fmt) (n : Nat) : List Nat :=
  elemsOf f (cellRead k.vregs (2048 * r) (f.bytesOf n)) n

/-- Elements written from register `r` upwards; every bit beyond the last element keeps its value (R429). -/
def Task.vput (k : Task) (r : Nat) (f : Fmt) (xs : List Nat) : Task :=
  let xs := if f.width = 4 ∧ xs.length % 2 = 1 then xs ++ [elemAt f (cellRead k.vregs (2048 * r) (f.bytesOf (xs.length + 1))) xs.length]
    else xs
  { k with vregs := cellWrite k.vregs (2048 * r) (packElems f xs) }

/-- The element format of most vector instructions (R65). -/
def vecFmt (c : Nat) : Option Fmt := (Fmt.ofCode c).filter fun f => f.isFloat && f != .e4m3 && f != .e5m2

/-- Results put in dst and SIGNAL pulsed (R65). -/
def State.vecDone (s : State) (t : TaskRef) (w : VecWord) (f : Fmt) (xs : List Nat) : State :=
  match s.task t with
  | none => s
  | some k => (s.setTask t fun x => x.vput w.dst f xs).signalLine t k (bitOf w.flags 0) w.line

/-- A vector instruction whose results depend on registers alone: opcode, element format, and the results from the task and
the word. -/
def vecRun (t : TaskRef) (word : Bytes) (op : Nat) (res : Task → VecWord → Fmt → List Nat) (s0 : State) : State :=
  match s0.issueUnit t with
  | none => s0
  | some (k, s) =>
    let w := VecWord.ofBytes word
    if w.op ≠ op then s0
    else match vecFmt w.fmt with
      | some f => s.vecDone t w f (res k w f)
      | none => s0

/-- Element-wise with one source. -/
def vec1 (g : Fmt → Nat → Nat) (k : Task) (w : VecWord) (f : Fmt) : List Nat := (k.vget w.a f w.count).map (g f)

/-- Element-wise with two sources. -/
def vec2 (g : Fmt → Nat → Nat → Nat) (k : Task) (w : VecWord) (f : Fmt) : List Nat :=
  List.zipWith (g f) (k.vget w.a f w.count) (k.vget w.b f w.count)

/-- Element-wise with three sources. -/
def vec3 (g : Fmt → Nat → Nat → Nat → Nat) (k : Task) (w : VecWord) (f : Fmt) : List Nat :=
  List.zipWith (fun (x : Nat × Nat) c => g f x.1 x.2 c) (List.zip (k.vget w.a f w.count) (k.vget w.b f w.count))
    (k.vget w.c f w.count)

/-- A reduction across lanes to element 0 over the canonical pairing tree (R68); empty with no element. -/
def vecFold (g : Fmt → Nat → Nat → Nat) (k : Task) (w : VecWord) (f : Fmt) : List Nat :=
  (treeOf (g f) (k.vget w.a f w.count)).toList

/-- A reduction to a maximum or minimum; a single NaN element gives the canonical NaN too (R68). -/
def vecPick (g : Fmt → Nat → Nat → Nat) (k : Task) (w : VecWord) (f : Fmt) : List Nat :=
  if (k.vget w.a f w.count).any fun x => decodeFloat f x = .nan then [f.nanBits] else vecFold g k w f

/-- VADD (R63). -/
def execVadd (t : TaskRef) (w : Bytes) (s : State) : Host.Outcome State Fault Refusal := s.become (vecRun t w 0x40 (vec2 fAdd) s)

/-- VSUB (R63). -/
def execVsub (t : TaskRef) (w : Bytes) (s : State) : Host.Outcome State Fault Refusal := s.become (vecRun t w 0x41 (vec2 fSub) s)

/-- VMUL (R63). -/
def execVmul (t : TaskRef) (w : Bytes) (s : State) : Host.Outcome State Fault Refusal := s.become (vecRun t w 0x42 (vec2 fMul) s)

/-- VFMA (R63). -/
def execVfma (t : TaskRef) (w : Bytes) (s : State) : Host.Outcome State Fault Refusal := s.become (vecRun t w 0x43 (vec3 fFma) s)

/-- VDIV (R63). -/
def execVdiv (t : TaskRef) (w : Bytes) (s : State) : Host.Outcome State Fault Refusal := s.become (vecRun t w 0x44 (vec2 fDiv) s)

/-- VSQRT (R63). -/
def execVsqrt (t : TaskRef) (w : Bytes) (s : State) : Host.Outcome State Fault Refusal := s.become (vecRun t w 0x45 (vec1 fSqrt) s)

/-- VMAX (R68). -/
def execVmax (t : TaskRef) (w : Bytes) (s : State) : Host.Outcome State Fault Refusal := s.become (vecRun t w 0x46 (vec2 fMax) s)

/-- VMIN (R68). -/
def execVmin (t : TaskRef) (w : Bytes) (s : State) : Host.Outcome State Fault Refusal := s.become (vecRun t w 0x47 (vec2 fMin) s)

/-- The partner format and direction of VCVT (R429): source and destination formats. -/
def vcvtPair (w : VecWord) : Option (Fmt × Fmt) :=
  match vecFmt w.fmt, Fmt.ofCode (w.imm % 256) with
  | some f, some p =>
    if p = .raw ∨ p = .t4 ∨ p.isM8 then none
    else
      let pair := if bitOf w.imm 8 then (p, f) else (f, p)
      if (convKind pair.1 pair.2).isSome then some pair else none
  | _, _ => none

/-- VCVT (R429): SAT clear, scale 1.0, zero point 0. -/
def doVcvt (t : TaskRef) (word : Bytes) (s0 : State) : State :=
  match s0.issueUnit t with
  | none => s0
  | some (k, s) =>
    let w := VecWord.ofBytes word
    if w.op ≠ 0x48 then s0
    else match vcvtPair w with
      | some (src, dst) => s.vecDone t w dst ((k.vget w.a src w.count).map (convElem src dst .plain))
      | none => s0

/-- VCVT. -/
def execVcvt (t : TaskRef) (w : Bytes) (s : State) : Host.Outcome State Fault Refusal := s.become (doVcvt t w s)

/-- VEXP (R66). -/
def execVexp (t : TaskRef) (w : Bytes) (s : State) : Host.Outcome State Fault Refusal :=
  s.become (if vecFmt (VecWord.ofBytes w).fmt = some .fp64 then s else vecRun t w 0x50 (vec1 (transIn .exp)) s)

/-- VLOG (R66). -/
def execVlog (t : TaskRef) (w : Bytes) (s : State) : Host.Outcome State Fault Refusal :=
  s.become (if vecFmt (VecWord.ofBytes w).fmt = some .fp64 then s else vecRun t w 0x51 (vec1 (transIn .log)) s)

/-- VRSQRT (R66). -/
def execVrsqrt (t : TaskRef) (w : Bytes) (s : State) : Host.Outcome State Fault Refusal :=
  s.become (if vecFmt (VecWord.ofBytes w).fmt = some .fp64 then s else vecRun t w 0x52 (vec1 (transIn .rsqrt)) s)

/-- VTANH (R66). -/
def execVtanh (t : TaskRef) (w : Bytes) (s : State) : Host.Outcome State Fault Refusal :=
  s.become (if vecFmt (VecWord.ofBytes w).fmt = some .fp64 then s else vecRun t w 0x53 (vec1 (transIn .tanh)) s)

/-- VERF (R66). -/
def execVerf (t : TaskRef) (w : Bytes) (s : State) : Host.Outcome State Fault Refusal :=
  s.become (if vecFmt (VecWord.ofBytes w).fmt = some .fp64 then s else vecRun t w 0x54 (vec1 (transIn .erf)) s)

/-- VSIGM (R66). -/
def execVsigm (t : TaskRef) (w : Bytes) (s : State) : Host.Outcome State Fault Refusal :=
  s.become (if vecFmt (VecWord.ofBytes w).fmt = some .fp64 then s else vecRun t w 0x55 (vec1 (transIn .sigmoid)) s)

/-- VRSUM (R68). -/
def execVrsum (t : TaskRef) (w : Bytes) (s : State) : Host.Outcome State Fault Refusal := s.become (vecRun t w 0x58 (vecFold fAdd) s)

/-- VRMAX (R68). -/
def execVrmax (t : TaskRef) (w : Bytes) (s : State) : Host.Outcome State Fault Refusal := s.become (vecRun t w 0x59 (vecPick fMax) s)

/-- VRMIN (R68). -/
def execVrmin (t : TaskRef) (w : Bytes) (s : State) : Host.Outcome State Fault Refusal := s.become (vecRun t w 0x5A (vecPick fMin) s)

/-- VPERM's results (R69). -/
def vecPerm (k : Task) (w : VecWord) (f : Fmt) : List Nat :=
  let a := k.vget w.a f w.count
  (k.vget w.c f w.count).map fun i => if i < w.count then a.getD i 0 else 0

/-- VPERM (R69). -/
def execVperm (t : TaskRef) (w : Bytes) (s : State) : Host.Outcome State Fault Refusal := s.become (vecRun t w 0x5C vecPerm s)

/-- The chunk sums of a list of products (R44, R45); fuel at least the products. -/
def chunkSums (len : Nat) : Nat → List Num → List Nat
  | 0, _ => []
  | n + 1, ps => if ps.isEmpty then [] else chunkSum (ps.take len) :: chunkSums len n (ps.drop len)

/-- VWSUM (R70). -/
def doVwsum (t : TaskRef) (word : Bytes) (s0 : State) : State :=
  match s0.issueUnit t with
  | none => s0
  | some (k, s) =>
    let w := VecWord.ofBytes word
    let len := w.imm % 256
    if w.op ≠ 0x60 ∨ !(len = 32 ∨ len = 64 ∨ len = 128) then s0
    else match Fmt.ofCode w.fmt, Fmt.ofCode (bitsOf w.imm 8 8) with
      | some fa, some fb =>
        if pairOk fa fb then
          let ps := List.zipWith Num.mul ((k.vget w.a fa w.count).map (decodeFloat fa)) ((k.vget w.b fb w.count).map (decodeFloat fb))
          s.vecDone t w .fp32 (chunkSums len ps.length ps)
        else s0
      | _, _ => s0

/-- VWSUM. -/
def execVwsum (t : TaskRef) (w : Bytes) (s : State) : Host.Outcome State Fault Refusal := s.become (doVwsum t w s)

/-- Partial vectors read one after another (R71). -/
def State.readPartials (t : TaskRef) (k : Task) (len pitch : Nat) : Nat → Nat → State → List Bytes → Got × List Bytes
  | 0, _, s, acc => (.ok [] s, acc)
  | n + 1, off, s, acc =>
    match s.readWs t k off len with
    | .ok b s => State.readPartials t k len pitch n (off + pitch) s (acc ++ [b])
    | g => (g, [])

/-- VPTREE (R71, R72). -/
def doVptree (t : TaskRef) (word : Bytes) (s0 : State) : State :=
  match s0.issueUnit t with
  | none => s0
  | some (k, s) =>
    let w := VecWord.ofBytes word
    if w.op ≠ 0x61 then s0
    else match Fmt.ofCode w.fmt with
      | some f =>
        if f = .fp32 ∨ f = .fp64 then
          let len := w.count * f.size
          let pitch := if w.stride = 0 then roundUp len 64 else 64 * w.stride
          match State.readPartials t k len pitch w.imm w.addr s [] with
          | (.ok _ s, ps) =>
            let roots := if ps.isEmpty then [] else
              (List.range w.count).map fun e => (treeOf (fAdd f) (ps.map fun b => elemAt f b e)).getD 0
            s.vecDone t w f roots
          | (g, _) => s0.unitFail t (.vptree t word) g
        else s0
      | none => s0

/-- VPTREE. -/
def execVptree (t : TaskRef) (w : Bytes) (s : State) : Host.Outcome State Fault Refusal := s.become (doVptree t w s)

/-- VRAND (R73): seeded words by R40. -/
def doVrand (t : TaskRef) (word : Bytes) (s0 : State) : State :=
  match s0.issueUnit t with
  | none => s0
  | some (_, s) =>
    let w := VecWord.ofBytes word
    let b := s.job t.job
    if w.op ≠ 0x68 ∨ !(Fmt.ofCode w.fmt = some .fp32 ∨ Fmt.ofCode w.fmt = some .int32) then s0
    else s.vecDone t w .int32 ((List.range w.count).map fun i =>
      (randomWord b.seed ((w.aux + i) % 2 ^ 64) b.train.step (w.imm % 65536)).toNat)

/-- VRAND. -/
def execVrand (t : TaskRef) (w : Bytes) (s : State) : Host.Outcome State Fault Refusal := s.become (doVrand t w s)

/-- VRNDU (R73): words of the entropy source, a free value each. -/
def doVrndu (t : TaskRef) (word : Bytes) (s0 : State) : State :=
  match s0.issueUnit t with
  | none => s0
  | some (_, s) =>
    let w := VecWord.ofBytes word
    if w.op ≠ 0x69 ∨ !(Fmt.ofCode w.fmt = some .fp32 ∨ Fmt.ofCode w.fmt = some .int32) then s0
    else
      let words := (List.range w.count).map fun i => (Config.entropy (s.draws + i)).toNat
      { s.vecDone t w .int32 words with draws := s.draws + w.count }

/-- VRNDU. -/
def execVrndu (t : TaskRef) (w : Bytes) (s : State) : Host.Outcome State Fault Refusal := s.become (doVrndu t w s)

/-- VLD (R65): loads without conversion. -/
def doVld (t : TaskRef) (word : Bytes) (s0 : State) : State :=
  match s0.issueUnit t with
  | none => s0
  | some (k, s) =>
    let w := VecWord.ofBytes word
    if w.op ≠ 0x70 then s0
    else match vecFmt w.fmt with
      | some f => match s.readWs t k w.addr (f.bytesOf w.count) with
        | .ok b s => s.vecDone t w f (elemsOf f b w.count)
        | g => s0.unitFail t (.vld t word) g
      | none => s0

/-- VLD. -/
def execVld (t : TaskRef) (w : Bytes) (s : State) : Host.Outcome State Fault Refusal := s.become (doVld t w s)

/-- VST (R65): stores without conversion and ignores dst. -/
def doVst (t : TaskRef) (word : Bytes) (s0 : State) : State :=
  match s0.issueUnit t with
  | none => s0
  | some (k, s) =>
    let w := VecWord.ofBytes word
    if w.op ≠ 0x71 then s0
    else match vecFmt w.fmt with
      | some f => match s.writeWs t k w.addr (packElems f (k.vget w.a f w.count)) with
        | .ok _ s => s.signalLine t k (bitOf w.flags 0) w.line
        | g => s0.unitFail t (.vst t word) g
      | none => s0

/-- VST. -/
def execVst (t : TaskRef) (w : Bytes) (s : State) : Host.Outcome State Fault Refusal := s.become (doVst t w s)

/-- The scalar operation of a vector opcode on one element of each source (R64). -/
def scalarOp (op : Nat) (f : Fmt) (a b c : Nat) : Option Nat :=
  let m := 2 ^ f.width
  let a := a % m
  let b := b % m
  let c := c % m
  let trans := fun fn => if f = .fp64 then none else some (transIn fn f a)
  match op with
  | 0x40 => some (fAdd f a b)
  | 0x41 => some (fSub f a b)
  | 0x42 => some (fMul f a b)
  | 0x43 => some (fFma f a b c)
  | 0x44 => some (fDiv f a b)
  | 0x45 => some (fSqrt f a)
  | 0x46 => some (fMax f a b)
  | 0x47 => some (fMin f a b)
  | 0x50 => trans .exp
  | 0x51 => trans .log
  | 0x52 => trans .rsqrt
  | 0x53 => trans .tanh
  | 0x54 => trans .erf
  | 0x55 => trans .sigmoid
  | _ => none

/-- SCALAR_OPERATION (R64). -/
def doScalar (t : TaskRef) (op fmt : Byte) (a b c : U64) (s0 : State) : State :=
  match s0.issue t with
  | none => s0
  | some (_, s) =>
    match vecFmt fmt.toNat with
    | some f => match scalarOp op.toNat f a.toNat b.toNat c.toNat with
      | some v => s.setTask t fun x => { x with scalar := BitVec.ofNat 64 v }
      | none => s0
    | none => s0

/-- SCALAR_OPERATION. -/
def execScalarOperation (t : TaskRef) (op fmt : Byte) (a b c : U64) (s : State) : Host.Outcome State Fault Refusal :=
  s.become (doScalar t op fmt a b c s)

end Sys2Proof.Machine
end

