-- ==== Sys2Proof/Machine/Load.lean ====
section
/-! DEFINITION. JOB_LOAD: the checks of a program binary (R42, R54 to R58, R65 to R73, R89, R97, R129, R164, R165, R212 to R216, R227,
R277, R429, R430), the demands on the module (R120, R125 to R128, R149, R315, R317) and the loaded job (R83, R120, R134, R318). The
encoding of a binary belongs to the Denzer documentation: the command carries it in structured form (log entry 32). -/

namespace Sys2Proof.Machine

/-! ## Array instructions (R42, R54 to R58) -/

/-- A tile that a program has in progress: array, slot, shape, total, accumulator offset. -/
structure OpenTile where
  array : Nat
  slot : Nat
  shape : Nat
  total : Nat
  acc : Nat
  deriving DecidableEq, Repr

/-- First and end accumulator byte of a tile (R56). -/
def OpenTile.range (t : OpenTile) : Nat × Nat :=
  let a := 4096 * t.acc
  (a, a + shapeM t.shape * shapeN t.shape * (if t.total = 1 then 8 else 4))

/-- Whether a tile breaks the second or third condition of R56 beside the tiles in progress. -/
def OpenTile.clash (t : OpenTile) (others : List OpenTile) : Bool :=
  decide (t.range.2 > 524288) || others.any fun o =>
    o.array == t.array && decide (o.range.1 < t.range.2) && decide (t.range.1 < o.range.2)

/-- What the array instructions of a task show: a zero count, a broken rule, the array whose accumulators do not hold. -/
structure Trace where
  tiles : List OpenTile := []
  zero : Bool := false
  bad : Bool := false
  clash : Option Nat := none
  deriving DecidableEq, Repr

/-- A byte extent inside the 8 MiB workspace. -/
def inWs (a n : Nat) : Bool := decide (a + n ≤ wsBytes)

/-- The operand rows, slices and drained tile of an array instruction lie in workspace, aligned (R58). -/
def ArrayWord.placed (w : ArrayWord) : Bool :=
  match w.pair with
  | none => false
  | some (fa, fb) =>
    let m := shapeM w.shape
    let n := shapeN w.shape
    w.aAddr % 16 == 0 && w.bAddr % 16 == 0 && inWs w.aAddr ((m - 1) * w.rowA fa + w.kCount * fa.size) &&
      inWs w.bAddr ((w.kCount - 1) * w.rowB fb + n * fb.size) &&
      (!w.closes || (w.outAddr % 64 == 0 && inWs w.outAddr (m * n * (if w.wide then 8 else 4))))

/-- One array instruction of a task in program order (R54, R56 to R58). -/
def Trace.step (classF : Bool) (x : Trace) (b : Bytes) : Trace :=
  let w := ArrayWord.ofBytes b
  let t : OpenTile := { array := w.unit, slot := w.slot, shape := w.shape, total := w.total, acc := w.acc }
  let here := x.tiles.find? fun o => o.array == t.array && o.slot == t.slot
  let order := if w.opens then here.isNone else here == some t
  let form := w.op == 0x31 && decide (w.unit ≤ 1) && decide (w.total ≤ 1) && w.shape % 4 != 3 && w.shape / 4 % 4 != 3 &&
    decide (w.shape < 16) && decide (w.flags < 8) && decide (w.slot < 32) && decide (w.acc < 128) && fieldN b 0xE 2 == 0
  let rules := (w.closes || w.kCount % 128 == 0) && (!w.signals || w.closes) && (!w.wide || !classF)
  let others := x.tiles.filter fun o => !(o.array == t.array && o.slot == t.slot)
  { tiles := if w.closes then others else others ++ [t]
    zero := x.zero || w.kCount == 0
    bad := x.bad || !(form && order && rules && w.placed)
    clash := if x.clash.isNone && w.opens && t.clash others then some w.unit else x.clash }

/-- The trace of a task's array instructions. -/
def traceOf (classF : Bool) (d : TaskDecl) : Trace := d.arrays.foldl (Trace.step classF) {}

/-! ## Vector instructions (R65 to R73, R79, R429) -/

/-- Opcodes of R65. -/
def vecOps : List Nat :=
  [0x40, 0x41, 0x42, 0x43, 0x44, 0x45, 0x46, 0x47, 0x48, 0x50, 0x51, 0x52, 0x53, 0x54, 0x55, 0x58, 0x59, 0x5A, 0x5C, 0x60, 0x61, 0x68,
   0x69, 0x70, 0x71]

/-- The most elements one instruction may process (R65, R71, R73, R429); none when its formats are not allowed. -/
def VecWord.limit (w : VecWord) : Option Nat :=
  if w.op = 0x48 then (vcvtPair w).map fun p => min (perReg p.1) (perReg p.2)
  else if w.op = 0x60 then
    match Fmt.ofCode w.fmt, Fmt.ofCode (bitsOf w.imm 8 8) with
    | some a, some b => if pairOk a b then some (min (perReg a) (perReg b)) else none
    | _, _ => none
  else if w.op = 0x61 then
    match Fmt.ofCode w.fmt with
    | some f => if f = .fp32 ∨ f = .fp64 then some ((256 - w.dst) * perReg f) else none
    | none => none
  else if w.op = 0x68 ∨ w.op = 0x69 then
    (if Fmt.ofCode w.fmt = some .fp32 ∨ Fmt.ofCode w.fmt = some .int32 then some 512 else none)
  else match vecFmt w.fmt with
    | some f => if 0x50 ≤ w.op ∧ w.op ≤ 0x55 ∧ f = .fp64 then none else some (perReg f)
    | none => none

/-- The workspace bytes of a load, a store or VPTREE lie inside the 8 MiB (R65). -/
def VecWord.placed (w : VecWord) : Bool :=
  match Fmt.ofCode w.fmt with
  | none => true
  | some f =>
    let len := f.bytesOf w.count
    if w.op = 0x70 ∨ w.op = 0x71 then w.addr % 16 == 0 && inWs w.addr len
    else if w.op = 0x61 then
      w.addr % 16 == 0 && (w.imm == 0 || inWs w.addr ((w.imm - 1) * (if w.stride = 0 then roundUp len 64 else 64 * w.stride) + len))
    else true

/-- A vector instruction that JOB_LOAD refuses with BAD_PARAM. -/
def vecBad (b : Bytes) : Bool :=
  let w := VecWord.ofBytes b
  let count := match w.limit with
    | some n => decide (w.count ≤ n)
    | none => false
  !(vecOps.contains w.op && decide (w.flags ≤ 1) && (w.op == 0x68 || w.aux == 0) && count && w.placed &&
    (w.op != 0x48 || decide (w.imm < 512)) && (w.op != 0x60 || [32, 64, 128].contains (w.imm % 256)) &&
    (w.op != 0x68 || decide (w.imm % 65536 ≥ 0x100)))

/-- The vector registers that an instruction names (R65, R71). -/
def VecWord.named (w : VecWord) : List Nat :=
  if w.op = 0x71 then [w.a]
  else if w.op = 0x68 ∨ w.op = 0x69 ∨ w.op = 0x70 then [w.dst]
  else if w.op = 0x61 then
    match Fmt.ofCode w.fmt with
    | some f => (List.range (ceilDiv w.count (perReg f))).map fun i => w.dst + i
    | none => []
  else if w.op = 0x43 then [w.dst, w.a, w.b, w.c]
  else if w.op = 0x5C then [w.dst, w.a, w.c]
  else if w.op = 0x45 ∨ w.op = 0x48 ∨ (0x50 ≤ w.op ∧ w.op ≤ 0x5A) then [w.dst, w.a]
  else [w.dst, w.a, w.b]

/-- The lowest register from v192 upwards that a task names (R79; log entry 33). -/
def highReg (d : TaskDecl) : Option Nat :=
  ((d.vectors.flatMap fun b => (VecWord.ofBytes b).named).filter fun r => decide (192 ≤ r)).min?

/-! ## DMA programs and channels (R89, R97, R430) -/

/-- LOOPs nest at most four deep and no body crosses the end of an enclosing one (R97): instruction index, ends of open bodies. -/
def nestBad : Nat → List Nat → List Bytes → Bool
  | _, _, [] => false
  | i, ends, b :: r =>
    let ends := ends.filter fun e => decide (i < e)
    if fieldN b 0 1 = 2 ∧ fieldN b 2 2 ≠ 0 then
      let stop := i + 1 + fieldN b 2 2
      (ends.any fun e => decide (e < stop)) || decide (ends.length ≥ 4) || nestBad (i + 1) (stop :: ends) r
    else nestBad (i + 1) ends r

/-- A DMA program in the binary that breaks R89 or R97. -/
def programBad (p : List Bytes) : Bool := (p.any dmaBad) || nestBad 0 [] p

/-- CHGO, CHSTAT or CHCLR of a channel that the task does not declare (R430). -/
def chanOpsBad (d : TaskDecl) : Bool := d.chanOps.any fun x => !d.chans.any fun c => c.die == x.1 && c.num == x.2

/-! ## Collective contexts (R212 to R216, R227) -/

/-- A place lies in a declared region with room for `n` bytes. -/
def placeOk (rs : List RegionDecl) (n : Nat) : Place → Bool
  | .region r off => rs.any fun x => x.number == r && decide (off + n ≤ x.blocks * blockBytes)
  | .workspace _ => false

/-- Members that send TERM or DATA to a member (R221, R226, R227). -/
def sendersTo (d : CollDecl) (me : Nat) : List Nat :=
  let others := (List.range d.members.length).filter fun m => m != me
  let owners := others.filter fun m => ownedLength d m != 0
  let toOwner := if ownedLength d me != 0 then others else []
  match d.op with
  | 1 => (toOwner ++ owners).dedup
  | 2 => toOwner
  | 3 => owners
  | 4 => others
  | 5 => others.filter fun m => (d.members[m]?).any fun e => decide (e.firstLeaf ≤ d.param) && decide (d.param < e.firstLeaf + e.leafCount)
  | _ => []

/-- Entries that each begin where the one before ends. -/
def contiguous : Nat → List (Nat × Nat) → Bool
  | _, [] => true
  | a, (f, n) :: r => f == a && contiguous (a + n) r

/-- The member table of R215. -/
def membersBad (d : CollDecl) (dev : U32) : Bool :=
  d.members.length != d.memberCount || decide (d.memberCount > 16384) ||
    !contiguous 0 (d.members.map fun m => (m.firstLeaf, m.leafCount)) || (d.members.foldl (fun n m => n + m.leafCount) 0) != d.width ||
    !(d.members.map fun m => m.device).Nodup || !(d.members.any fun m => m.device == dev)

/-- The shard table of R216; with M8 moments its boundaries lie on multiples of 64 (R165; log entry 34). -/
def piecesBad (d : CollDecl) (m8 : Bool) : Bool :=
  d.pieces.length != d.pieceCount || !contiguous 0 (d.pieces.map fun p => (p.first, p.count)) ||
    (d.pieces.any fun p => decide (p.member ≥ d.memberCount)) || (m8 && isGradient d && d.pieces.any fun p => p.first % 64 != 0)

/-- The zero that R213 and R215 refuse. -/
def collZero (d : CollDecl) : Bool :=
  d.op != 6 && (d.width == 0 || d.memberCount == 0 || d.pieceCount == 0 || d.members.any fun m => m.leafCount == 0)

/-- A PERMUTE context with every other field zero (R214). -/
def permuteBad (d : CollDecl) : Bool :=
  !(d.flags == 0 && d.sendFormat == 0 && d.recvFormat == 0 && d.width == 0 && d.memberCount == 0 && d.reducingCore == 0 &&
    d.ringDepth == 0 && d.reservedZero && d.param == 0 && d.pieceCount == 0 && d.landingBytes == 0)

/-- A context descriptor that R214 refuses: `strict` is DET_STRICT of job or device, `held` the cores of the job. -/
def collBad (x : Binary) (dev : U32) (strict : Bool) (held : List Nat) (d : CollDecl) : Bool :=
  if d.op = 6 then permuteBad d || x.tasks.any fun t => t.collectives.contains d.num
  else
    let formats := if reduces d then d.sendFormat == d.recvFormat && (sendFmt d == .fp32 || sendFmt d == .fp64)
      else match Fmt.ofCode d.sendFormat.toNat, Fmt.ofCode d.recvFormat.toNat with
        | some a, some b => convKind a b == some .identity || convKind a b == some .widen
        | _, _ => false
    let m8 := x.tasks.any fun t => t.optUpdates.any fun b => fieldN b 0x23 1 % 4 != 3
    let need := 65536 * ringDepth d * (sendersTo d ((memberIndex d dev).getD 0)).length
    decide (d.op = 0) || decide (d.op > 6) || decide (d.flags.toNat > 3) || !d.reservedZero || decide (d.width > 65536) ||
      (isUnordered d && (!reduces d || strict)) || (isGradient d && !reduces d) || !formats || membersBad d dev || piecesBad d m8 ||
      !held.contains d.reducingCore || !placeOk x.regions (16 * d.memberCount) d.memberTable ||
      !placeOk x.regions (16 * d.pieceCount) d.shardTable || !placeOk x.regions d.landingBytes d.landing || decide (d.landingBytes < need)

/-! ## The binary -/

/-- A task of the binary that is refused with BAD_PARAM. -/
def taskBad (x : Binary) (strict : Bool) (d : TaskDecl) : Bool :=
  (traceOf x.classF d).bad || d.vectors.any vecBad || (strict && d.vectors.any fun b => fieldN b 0 1 == 0x69) ||
    d.programs.any programBad || chanOpsBad d || (d.optUpdates.any fun b => (OptDesc.ofOpt b).bad) || decide (d.workspaceKib > 8192)

/-- Checks of the binary that need no room: zeros first (R298). -/
def binaryChecks (x : Binary) (dev : U32) (strict : Bool) (held : List Nat) : Checks :=
  [(!x.malformed && ((x.tasks.any fun d => (traceOf x.classF d).zero) || x.collectives.any collZero), stZero, 0),
   (x.malformed || decide (x.tasks.length = 0) || decide (x.tasks.length > 192) || decide (x.fpClasses.length > 16384) ||
     x.tasks.any (taskBad x strict) || x.collectives.any (collBad x dev strict held) || x.collectives.any (fun d => decide (d.num > 63)) ||
     decide ((x.collectives.filter fun d => d.op == 6).length > 1), stBadParam, 0)]

/-! ## Home cores (R315) -/

/-- Bytes of workspace that a task reserves, both halves of its epoch regions counted (R149). -/
def taskNeed (d : TaskDecl) : Nat := 1024 * d.workspaceKib + d.epochWorkspace.foldl (fun n e => n + e.2) 0

/-- Workspace reserved at a core by the loaded jobs. -/
def State.wsReserved (s : State) (c : Nat) : Nat :=
  s.jobs.foldl (fun n b => b.tasks.foldl (fun n k => if k.home == c then n + taskNeed k.decl else n) n) 0

/-- Cores that may be home cores. -/
def State.homeCores (s : State) (mask : Nat) : List Nat :=
  (List.range Config.coreSlots).filter fun c => (mask == 0 || bitOf mask c) && s.enabled c && !(s.core c).fenced && !s.coreFenced c

/-- Bytes of a task's regions on the stacks of a die. -/
def dieBytes (x : Binary) (t : TaskDecl) (die : Nat) : Nat :=
  (x.regions.filter fun r => t.regions.contains r.number && r.stack / 3 == die).foldl (fun n r => n + r.bytes) 0

/-- Free workspace of a core after the placements so far: core and need of each. -/
def State.wsFree (s : State) (placed : List (Nat × Nat)) (c : Nat) : Nat :=
  wsBytes - (s.wsReserved c + (placed.filter fun p => p.1 == c).foldl (fun n p => n + p.2) 0)

/-- The home core of a task by the preferences of R315. -/
def State.homeOf (s : State) (x : Binary) (cores : List Nat) (placed : List (Nat × Nat)) (t : TaskDecl) : Option Nat :=
  let fits := cores.filter fun c => decide (taskNeed t ≤ s.wsFree placed c)
  let most := fits.foldl (fun n c => max n (dieBytes x t (dieOf c))) 0
  leastBy (fun c => s.tasksOn c + (placed.filter fun p => p.1 == c).length) (fits.filter fun c => dieBytes x t (dieOf c) == most)

/-- Home cores of the tasks in the binary's order, or the first task that cannot be placed with the cores' room then. -/
def State.placeTasks (s : State) (x : Binary) (cores : List Nat) : List TaskDecl → List (Nat × Nat) → Except (TaskDecl × List (Nat × Nat)) (List Nat)
  | [], placed => .ok (placed.map (·.1))
  | t :: ts, placed =>
    match s.homeOf x cores placed t with
    | some c => State.placeTasks s x cores ts (placed ++ [(c, taskNeed t)])
    | none => .error (t, placed)

/-! ## HBM (R117, R120, R317) -/

/-- Blocks of a stack that jobs may be granted: H0 holds the dump region (R117). -/
def stackBlocks (h : Nat) : Nat := if h = 0 then 252 else 256

/-- Blocks granted on a stack: first and number. -/
def State.usedBlocks (s : State) (h : Nat) : List (Nat × Nat) :=
  let base := h * 0x10_0000_0000
  s.jobs.flatMap fun b =>
    ((b.grants.map fun g => (g.addr, g.blocks)) ++ b.tasks.map fun k => (k.slotAddr, k.slotBlocks)).filterMap fun x =>
      if base ≤ x.1 ∧ x.1 < base + 0x10_0000_0000 ∧ x.2 ≠ 0 then some ((x.1 - base) / blockBytes, x.2) else none

/-- Starts that a run of free blocks can have, ascending. -/
def runStarts (used : List (Nat × Nat)) : List Nat := (0 :: used.map fun u => u.1 + u.2).insertionSort (· ≤ ·)

/-- The lowest run of `n` free blocks (R120). -/
def firstFit (used : List (Nat × Nat)) (cap n : Nat) : Option Nat :=
  (runStarts used).find? fun b => decide (b + n ≤ cap) && used.all fun u => decide (u.1 + u.2 ≤ b) || decide (b + n ≤ u.1)

/-- The longest run of free blocks. -/
def longestRun (used : List (Nat × Nat)) (cap : Nat) : Nat :=
  (runStarts used).foldl (fun m b =>
    if used.any fun u => decide (u.1 ≤ b) && decide (b < u.1 + u.2) then m
    else max m ((((used.map (·.1)).filter fun a => decide (b ≤ a)).foldl min cap) - b)) 0

/-- Blocks placed so far on each stack and what did not fit: stack and shortfall. -/
structure Blocks where
  used : List (List (Nat × Nat))
  short : List (Nat × Nat)
  deriving DecidableEq, Repr

/-- A run of blocks taken on a stack: its device address. -/
def Blocks.take (x : Blocks) (h n : Nat) : Blocks × Nat :=
  let used := x.used.getD h []
  match firstFit used (stackBlocks h) n with
  | some b => ({ x with used := x.used.set h (if n = 0 then used else used ++ [(b, n)]) }, h * 0x10_0000_0000 + b * blockBytes)
  | none => ({ x with short := x.short ++ [(h, n - longestRun used (stackBlocks h))] }, 0)

/-- Blocks of a region: both halves of an epoch region (R149). -/
def regionBlocks (r : RegionDecl) : Nat := if r.role = .epoch then 2 * r.blocks else r.blocks

/-- Grants of the regions in order. -/
def Blocks.regions (x : Blocks) : List RegionDecl → List Grant → Blocks × List Grant
  | [], gs => (x, gs)
  | r :: rs, gs =>
    let y := x.take r.stack (regionBlocks r)
    y.1.regions rs (gs ++ [{ decl := r, addr := y.2, blocks := regionBlocks r }])

/-- Blocks of a task slot (R317). -/
def slotBlocksOf (d : TaskDecl) : Nat := ceilDiv (taskNeed d + 0x20_0000) blockBytes

/-- The stack of a die that takes a task slot: the longest free run, the lowest on a tie (log entry 35). -/
def Blocks.slotStack (x : Blocks) (die : Nat) : Nat :=
  (leastBy (fun h => 256 - longestRun (x.used.getD h []) (stackBlocks h)) [3 * die, 3 * die + 1, 3 * die + 2]).getD (3 * die)

/-- Task slots: address of each. -/
def Blocks.slots (x : Blocks) : List (TaskDecl × Nat) → List Nat → Blocks × List Nat
  | [], as => (x, as)
  | (d, home) :: r, as =>
    let y := x.take (x.slotStack (dieOf home)) (slotBlocksOf d)
    y.1.slots r (as ++ [y.2])

/-! ## Rates (R124 to R126) -/

/-- Rate budget of a tier in bytes per second: a stack's, or the far tier's at number 12 (R124, R126). -/
def State.rateBudget (s : State) (tier : Nat) : Nat :=
  if tier < 12 then 2880000000000 else min 200000000000 (s.host.farRate * 1000000) * 9 / 10

/-- What a binary claims of a tier. -/
def claimOf (x : Binary) (tier : Nat) : Nat := ((x.claims.filter fun c => c.1 == tier).map (·.2)).foldl (· + ·) 0

/-- What the loaded jobs claim of a tier. -/
def State.claimed (s : State) (tier : Nat) : Nat := s.jobs.foldl (fun n b => n + (b.bin.map fun x => claimOf x tier).getD 0) 0

/-- A streamed layer that does not fit its tier at a pace ceiling of 1.02 × the target (R125, R398). -/
def layerMisfit (x : Binary) (targetMhz : Nat) (l : LayerDecl) : Bool :=
  decide (l.bytes * (1020000 * targetMhz) > l.steps * claimOf x l.tier)

/-- The first layer of a tier that does not fit, as numbered in the binary; when the claims together pass the budget, the first layer
of the tier (R126, R128). -/
def tierShort (x : Binary) (targetMhz : Nat) (over_ : Bool) (tier : Nat) : Option Nat :=
  match x.layers.find? fun l => l.tier == tier && (over_ || layerMisfit x targetMhz l) with
  | some l => some l.number
  | none => if over_ && claimOf x tier != 0 then some 0 else none

/-! ## Demands (R127, R128) -/

/-- A NO_FIT detail word (R128). -/
def fitWord (resource where_ item : Nat) : Nat := resource * 2 ^ 24 + where_ * 2 ^ 16 + min item 0xFFFF

/-- The entry with the lowest WHERE. -/
def lowestOf (xs : List (Nat × Nat)) : Option (Nat × Nat) :=
  xs.foldl (fun o x => match o with
    | some y => if x.1 < y.1 then some x else some y
    | none => some x) none

/-- The room that a load takes: home cores, grants, task slots. -/
structure LoadPlan where
  homes : List Nat
  grants : List Grant
  slots : List Nat
  deriving DecidableEq, Repr

/-- Physical channels in use at a core, or on a die. -/
def State.usedChans (s : State) (die : Bool) (n : Nat) : List Nat :=
  s.jobs.flatMap fun b => (b.chans.filter fun c => c.decl.die == die && (if die then c.owner == n else
    ((b.tasks[c.owner]?).map (·.home)) == some n)).map (·.phys)

/-- Die of a binary's first weight slot, whose die channels the hinge uses (R139; log entry 35). -/
def hingeDie (x : Binary) : Option Nat := if x.hingeSlotBytes.isNone then none else (x.regions.find? fun r => r.role == .slot0).map fun r => r.stack / 3

/-- Die channels held back on a die for hinges. -/
def State.hingeChans (s : State) (d : Nat) : Nat :=
  s.jobs.foldl (fun n b => n + (match b.bin with
    | some x => if hingeDie x = some d then x.hingeChannels else 0
    | none => 0)) 0

/-- Physical event lines of a die in use. -/
def State.usedLines (s : State) (d : Nat) : List Nat := s.jobs.flatMap fun b => (b.lines[d]?).getD []

/-- Collective contexts of an I/O die in use. -/
def State.usedContexts (s : State) (io : Nat) : List Nat := s.jobs.flatMap fun b => (b.colls.filter fun c => c.decl.ioDie == io).map (·.context)

/-- Distinct die channels that a binary declares on a die: kind and number (R430). -/
def dieChansOf (x : Binary) (homes : List Nat) (d : Nat) : List Nat :=
  ((x.tasks.zip homes).flatMap fun t => if dieOf t.2 = d then (t.1.chans.filter fun c => c.die).map (·.num) else []).dedup

/-- Core channels that a binary declares at a home core. -/
def coreChansOf (x : Binary) (homes : List Nat) (c : Nat) : Nat :=
  (x.tasks.zip homes).foldl (fun n t => if t.2 = c then n + (t.1.chans.filter fun c => !c.die).length else n) 0

/-- The first demand that is not met, in the order of the resource codes (R127, R128, R149). -/
def State.shortfall (s : State) (x : Binary) (cores : List Nat) (bindBytes : Nat) : Except Nat LoadPlan :=
  let placed := s.placeTasks x cores x.tasks []
  let homes := match placed with
    | .ok hs => hs
    | .error _ => []
  let b0 : Blocks := { used := (List.range 12).map s.usedBlocks, short := [] }
  let r := b0.regions x.regions []
  let sl := r.1.slots (x.tasks.zip homes) []
  let wide := (List.range 12).filterMap fun h =>
    let n := (x.regions.filter fun g => g.role == .epoch && g.stack == h).foldl (fun n g => n + g.blocks) 0
    if n > 128 then some (h, n - 128) else none
  let epochWs := x.tasks.find? fun t => decide ((t.epochWorkspace.foldl (fun n e => n + e.2) 0) > 0x40_0000)
  let rate := (List.range 12).filterMap fun h =>
    (tierShort x s.power.target (decide (s.claimed h + claimOf x h > s.rateBudget h)) h).map fun n => (h, n)
  let far := tierShort x s.power.target (decide (s.claimed 12 + claimOf x 12 > s.rateBudget 12)) 12
  let withHome := x.tasks.zip homes
  let accs := withHome.filterMap fun t => (traceOf x.classF t.1).clash.map fun a => (t.2, a)
  let regs := withHome.filterMap fun t => (highReg t.1).map fun n => (t.2, n)
  let coreCh := homes.dedup.filterMap fun c =>
    let n := (s.usedChans false c).length + coreChansOf x homes c
    if n > 16 then some (c, n - 16) else none
  let dieCh := (List.range 4).filterMap fun d =>
    let n := (s.usedChans true d).length + s.hingeChans d + (dieChansOf x homes d).length + (if hingeDie x = some d then x.hingeChannels else 0)
    if n > 32 then some (0xF0 + d, n - 32) else none
  let lines := (List.range 4).filterMap fun d =>
    let n := (s.usedLines d).length + x.eventLines
    if n > 256 then some (d, n - 256) else none
  let streams := s.jobs.foldl (fun n b => n + b.serving.streams.length) ((x.serve.map (·.contexts)).getD 0)
  let ctxs := (List.range 2).filterMap fun io =>
    let n := (s.usedContexts io).length + (x.collectives.filter fun d => d.ioDie == io).length
    if n > 32 then some (io, n - 32) else none
  match lowestOf (wide ++ sl.1.short), lowestOf rate with
  | some w, _ => .error (fitWord 1 w.1 w.2)
  | none, some w => .error (fitWord 2 w.1 w.2)
  | none, none =>
    if x.farWindowBytes > bindBytes then .error (fitWord 3 0xFF (ceilDiv (x.farWindowBytes - bindBytes) 0x4000_0000))
    else match far, placed, epochWs with
      | some n, _, _ => .error (fitWord 4 0xFF n)
      | none, .error (t, p), _ =>
        match leastBy (fun c => wsBytes - s.wsFree p c) cores with
        | some c => .error (fitWord 5 c (ceilDiv (taskNeed t - s.wsFree p c) 1024))
        | none => .error (fitWord 5 0 (ceilDiv (taskNeed t) 1024))
      | none, .ok _, some t => .error (fitWord 5 ((withHome.find? fun u => u.1 == t).map (·.2) |>.getD 0)
          (ceilDiv ((t.epochWorkspace.foldl (fun n e => n + e.2) 0) - 0x40_0000) 1024))
      | none, .ok hs, none =>
        match lowestOf accs, lowestOf regs, lowestOf (coreCh ++ dieCh), lowestOf lines with
        | some w, _, _, _ => .error (fitWord 6 w.1 w.2)
        | none, some w, _, _ => .error (fitWord 7 w.1 w.2)
        | none, none, some w, _ => .error (fitWord 8 w.1 w.2)
        | none, none, none, some w => .error (fitWord 9 w.1 w.2)
        | none, none, none, none =>
          if streams > 16384 then .error (fitWord 0xA 0xFF (streams - 16384))
          else match lowestOf ctxs with
            | some w => .error (fitWord 0xB w.1 w.2)
            | none => .ok { homes := hs, grants := r.2, slots := sl.2 }

/-! ## The loaded job -/

/-- The lowest `n` numbers below `cap` that are not in use. -/
def freeNumbers (used : List Nat) (cap n : Nat) : List Nat := ((List.range cap).filter fun i => !used.contains i).take n

/-- Channels of a loaded binary, each with a free physical number (R86, R430). -/
def State.loadChans (s : State) (x : Binary) (homes : List Nat) : List Chan :=
  let all := ((List.range x.tasks.length).zip (x.tasks.zip homes)).flatMap fun t => t.2.1.chans.map fun c => (t.1, t.2.2, c)
  all.foldl (fun (cs : List Chan) u =>
    let c := u.2.2
    let owner := if c.die then dieOf u.2.1 else u.1
    if c.die && cs.any fun y => y.decl.die && y.owner == owner && y.decl.num == c.num then cs
    else
      let mine := (cs.filter fun y => y.decl.die == c.die && (if c.die then y.owner == owner else y.home == u.2.1)).map (·.phys)
      let used := s.usedChans c.die (if c.die then owner else u.2.1) ++ mine
      cs ++ [{ decl := c, owner := owner, phys := (freeNumbers used (if c.die then 32 else 16) 1).headD 0, task := u.1, home := u.2.1
               skip := c.skip }]) []

/-- Bytes written into memory one by one. -/
def Memory.scatter (m : Memory) (base : Nat) (bs : List (Nat × Byte)) : Memory := bs.foldl (fun m b => m.write (base + b.1) [b.2]) m

/-- Memory of a job at its load: grants, task slots and workspace read zero in both halves (R83, R120), then the images. -/
def State.loadMemory (s : State) (j : Nat) (b : Job) : State :=
  let zero := fun (m : Memory) (a n : Nat) => (m.zero a n).zero (a + halfShift) n
  let s := b.grants.foldl (fun s g => s.setMem fun m => zero m g.addr (g.decl.blocks * blockBytes)) s
  let s := b.tasks.foldl (fun s k => s.setMem fun m => zero m k.slotAddr (k.slotBlocks * blockBytes)) s
  let s := s.setMem fun m => zero m (2 ^ 52 * (j + 1)) (2 ^ 52)
  let s := b.grants.foldl (fun s g => s.setMem fun m => m.scatter g.addr g.decl.image) s
  b.tasks.foldl (fun s k => s.setMem fun m =>
    k.decl.relocs.foldl (fun m r => m.write (wsKey j k.home r.off) (toLe 8 (b.placeAddr k.home r.place)))
      (m.scatter (wsKey j k.home 0) k.decl.image)) s

/-- The job that a load makes (R100, R134, R180, R212, R312, R318). -/
def State.loadedJob (s : State) (x : Binary) (best : Bool) (mask : Nat) (binds : List Binding) (p : LoadPlan) : Job :=
  let tasks := ((x.tasks.zip p.homes).zip p.slots).map fun t =>
    ({ decl := t.1.1, home := t.1.2, core := t.1.2, slotAddr := t.2, slotBlocks := slotBlocksOf t.1.1 } : Task)
  let ctx := fun (io : Nat) => freeNumbers (s.usedContexts io) 32 32
  let colls := x.collectives.foldl (fun (cs : List Coll) d =>
    cs ++ [{ decl := d, context := (ctx d.ioDie).getD (cs.filter fun c => c.decl.ioDie == d.ioDie).length 0 }]) []
  { state := 2, bestEffort := best, bin := some x, layout := x.layout, mask := mask, grants := p.grants, bindings := binds
    tasks := tasks, chans := s.loadChans x p.homes
    lines := (List.range 4).map fun d => freeNumbers (s.usedLines d) 256 x.eventLines
    hinge := x.hingeSlotBytes.map fun n => { slotBytes := n }
    serving := { streams := List.replicate ((x.serve.map (·.contexts)).getD 0) {} }
    colls := colls }

/-- Counters of a job's event lines set to zero (R100). -/
def State.clearLines (s : State) (b : Job) : State :=
  { s with dies := s.dies.mapIdx fun d (x : Die) => { x with
    lines := x.lines.mapIdx fun l (e : EventLine) => if ((b.lines[d]?).getD []).contains l then {} else e } }

/-! ## JOB_LOAD -/

/-- The bindings of the parameters (R314). -/
def Cmd.bindings (c : Cmd) : List Binding :=
  (List.range (c.p 0x30 4)).map fun i =>
    let o := 0x40 + 24 * i
    { kind := c.p o 1, device := BitVec.ofNat 32 (c.p (o + 4) 4), first := c.p (o + 8) 8, size := c.p (o + 0x10) 8 }

/-- Checks of the bindings (R119, R122, R127, R314). -/
def State.bindChecks (s : State) (c : Cmd) : Checks :=
  (List.range (c.p 0x30 4)).flatMap fun i =>
    let o := 0x40 + 24 * i
    let kind := c.p o 1
    let first := c.p (o + 8) 8
    let size := c.p (o + 0x10) 8
    [(kind != 1 && kind != 2, stBadParam, o), c.reserved (o + 1) 3, (kind == 2 && c.p (o + 4) 4 != 0, stBadParam, o + 4),
     ((kind == 1 && decide (first > 4063)) || (kind == 2 && first % 4096 != 0), stBadParam, o + 8),
     ((kind == 1 && size != 0x0100_0000_0000) || (kind == 2 && (size % 4096 != 0 || (size != 0 && !s.farOk first size))), stBadParam, o + 0x10)]

/-- JOB_LOAD (R314, R315, R318). -/
def doJobLoad (r : CmdRef) (x : Binary) (c : Cmd) (s : State) : State :=
  let j := c.job
  let n := c.p 0x30 4
  let mask := c.p 0x18 24
  let strict := x.detStrict || s.keeper.detEnforced
  let cores := s.homeCores mask
  let held := match s.placeTasks x cores x.tasks [] with
    | .ok hs => hs
    | .error _ => x.collectives.map (·.reducingCore)
  let tooMany := decide (0x40 + 24 * n > c.params.length)
  let binds := if tooMany then [] else c.bindings
  let head : Checks := [(!s.farOk (c.p 0 8) (c.p 8 8), stBadParam, 0), (c.p 8 8 == 0, stBadParam, 8), (decide (c.p 0x10 1 > 1), stBadParam, 0x10),
    c.reserved 0x11 7, (n != 0 && tooMany, stBadParam, 0x30), c.reserved 0x34 12]
  let tail : Checks := [c.beyond (0x40 + 24 * n), (s.job j).stateCheck 0x0101]
  s.checked r (head ++ (if tooMany then [] else s.bindChecks c) ++ tail ++ binaryChecks x s.ident.device strict held) fun s =>
    match s.shortfall x cores ((binds.filter fun b => b.kind == 2).foldl (fun n b => n + b.size) 0) with
    | .error d => s.reply r stNoFit d 0
    | .ok p =>
      let b := s.loadedJob x (c.p 0x10 1 == 1) mask (binds.filter fun b => b.size != 0) p
      let bad := x.tasks.any fun t => t.updates.any fun u => b.updateBad u.1 (OptDesc.ofUpdate u.2)
      if bad then s.reply r stBadParam 0 0
      else (((s.setJob j fun _ => b).loadMemory j b).clearLines b).touchShadow.reply r stOk 0 x.layout.toNat

/-- JOB_LOAD. -/
def execJobLoad (r : CmdRef) (bin : Binary) (s : State) : Host.Outcome State Fault Refusal :=
  s.become (cmdRow r 0x0101 (.jobLoad r bin) (doJobLoad r bin) s)

end Sys2Proof.Machine
end

