-- ==== Sys2Proof/Machine/Cast.lean ====
section
/-! DEFINITION. CAST and RECAST (R156, R282, R329 to R333). The manual gives the sections of an image and not how a task's saved
state is encoded in its section: that encoding is the model's (log entry 36). -/

namespace Sys2Proof.Machine

/-! ## The saved state of a task as words (log entry 36) -/

/-- A device address of a program as a place of its job: 1 a region and an offset, 2 a task's workspace and an offset. -/
def Job.placeCode (b : Job) (a : Nat) : List Nat :=
  match b.grantAt a with
  | some g => [1, g.decl.number, a - g.addr]
  | none =>
    match b.tasks.findIdx? fun k => k.home == (a - wsBase) / 0x0100_0000 with
    | some i => [2, i, (a - wsBase) % 0x0100_0000]
    | none => [0, 0, a]

/-- The device address of a coded place. -/
def Job.placeOf (b : Job) (kind n off : Nat) : Nat :=
  if kind = 1 then b.placeAddr 0 (.region n off) else if kind = 2 then wsAddr ((b.tasks[n]?).map (·.home) |>.getD 0) off else off

/-- Where an agent waits on a line of the job: 1, die, job-relative line, place in the line's order, count; zeros when nowhere. -/
def State.waitCode (s : State) (b : Job) (a : WaitAgent) : List Nat :=
  let at_ := (List.range 4).flatMap fun d => ((List.range ((b.lines[d]?).getD []).length).zip ((b.lines[d]?).getD [])).filterMap fun x =>
    let ws := ((s.die d).lines.getD x.2 {}).waiters
    (ws.findIdx? fun w => w.agent == a).map fun i => [1, d, x.1, i, ((ws[i]?).map (·.count)).getD 0]
  at_.headD [0, 0, 0, 0, 0]

/-- A Boolean as a word. -/
def flagWord (b : Bool) : Nat := if b then 1 else 0

/-- A tile in progress. -/
def Tile.code (x : Tile) : List Nat :=
  [x.array, x.slot, x.shape, flagWord x.wide, x.accOffset, x.chunk, x.key.toNat, flagWord x.selected, x.totals.length] ++ x.totals

/-- A channel's saved position (R111). -/
def State.chanCode (s : State) (j : Nat) (c : Chan) : List Nat :=
  let b := s.job j
  [flagWord c.decl.die, c.decl.num, if c.state = 4 then 4 + c.savedState else c.state, flagWord c.skip, flagWord c.skipped, flagWord c.markFail,
    c.cause, flagWord c.failDir, c.failAddr, ((b.tasks.findIdx? fun k => k.home == c.home).getD 0), flagWord c.wrote] ++ b.placeCode c.pc ++
    s.waitCode b (.chan (c.ref j)) ++ [c.loops.length] ++ c.loops.flatMap fun l =>
      b.placeCode l.start ++ b.placeCode l.stop ++ [l.index, l.count, wrapInt l.src 64, wrapInt l.dst 64]

/-- Words of a task's saved state; the first task also carries where deferred rows lie in the reserve. -/
def State.taskCode (s : State) (j i : Nat) (k : Task) : List Nat :=
  let b := s.job j
  let chans := b.chans.filter fun c => c.task == i
  let kept := if i = 0 then b.strag.kept else []
  [k.scalar.toNat, k.scalar2.toNat, k.tileKey.toNat, k.skipEntry.toNat, flagWord k.resume.isSome, (k.resume.getD 0).toNat, flagWord k.atPoint] ++
    s.waitCode b (.task { job := j, task := i }) ++ [k.phases.length] ++ (k.phases.flatMap fun p => [p.1, p.2]) ++
    [k.tiles.length] ++ k.tiles.flatMap Tile.code ++ [kept.length] ++
    (kept.flatMap fun e => [e.1, e.2.1, e.2.2.1, e.2.2.2.1, e.2.2.2.2.1, e.2.2.2.2.2]) ++ [chans.length] ++ chans.flatMap (s.chanCode j)

/-- Committed bytes of a stretch of the job's memory (R150, R331). -/
def State.committedBytes (s : State) (j key n : Nat) : Bytes :=
  (List.range n).map fun i => cellGet s.mem.cells ((s.job j).readHalf false (key + i))

/-- A task's section: its words with their number before them, vector registers, workspace, counters of its die's event lines. -/
def State.taskSection (s : State) (j i : Nat) (k : Task) : Bytes :=
  let code := s.taskCode j i k
  let lines := ((s.job j).lines[dieOf k.home]?).getD []
  toLe 8 code.length ++ (code.map (toLe 8)).flatten ++ cellRead k.vregs 0 524288 ++
    s.committedBytes j (wsKey j k.home 0) (1024 * k.decl.workspaceKib) ++
    (lines.map fun l => toLe 2 ((s.die (dieOf k.home)).lines.getD l {}).count).flatten

/-! ## The image (R331) -/

/-- A ledger entry (R263). -/
def decisionBytes (d : Decision) : Bytes := toLe 4 d.contributor ++ toLe 1 d.code ++ toLe 3 0 ++ toLe 8 d.origin

/-- Pool pages a stream holds, table pages and root page included (R335). -/
def Stream.pages (x : Stream) : Nat := (if x.root.isSome then 1 else 0) + x.tables.length + x.data.length

/-- A stream context (R334). -/
def Stream.bytes (x : Stream) (i : Nat) : Bytes :=
  layRecord 32 [(0, 4, i), (4, 1, x.state), (5, 1, x.cls), (6, 1, x.policy), (7, 1, x.endReason), (8, 4, x.position), (0xC, 4, x.generation),
    (0x10, 4, x.root.getD 0), (0x14, 4, x.pages), (0x18, 4, x.tag.toNat), (0x1C, 4, x.admittedStep)]

/-- Stream contexts in use with their indices. -/
def Serving.inUse (x : Serving) : List (Nat × Stream) := ((List.range x.streams.length).zip x.streams).filter fun y => y.2.state != 0

/-- Regions of a manifest: every one that is not scratch, the deferral reserve last (R331). -/
def Job.manifestGrants (b : Job) : List Grant :=
  (b.grants.filter fun g => g.decl.role != .scratch && g.decl.role != .reshard && g.decl.role != .deferral) ++
    b.grants.filter fun g => g.decl.role == .deferral

/-- Region number of a manifest entry. -/
def Grant.manifestNumber (g : Grant) : Nat := if g.decl.role == .deferral then 0xFFFF else g.decl.number

/-- A manifest entry. -/
def manifestBytes (number source bytes address fingerprint : Nat) : Bytes :=
  layRecord 32 [(0, 2, number), (2, 1, source), (8, 8, bytes), (0x10, 8, address), (0x18, 8, fingerprint)]

/-- The settings in force in the block format of R304. -/
def Job.settingsBytes (b : Job) : Bytes :=
  let budget := (6, toLe 4 b.budget ++ toLe 4 0)
  ((b.settings.filter fun x => x.1 != 6) ++ [budget]).flatMap fun x => toLe 2 x.1 ++ toLe 2 0 ++ toLe 4 x.2.length ++ x.2

/-- Generation of a slot as the header gives it: a BUILDING slot is cast as EMPTY. -/
def WeightSlot.castGeneration (w : WeightSlot) : Nat := if w.state = 0 ∨ w.state = 1 then 0 else w.generation

/-- Sections one after another, each aligned to 64 bytes. -/
def alignedSections (xs : List Bytes) : Bytes := (xs.map (padTo 64)).flatten

/-- An image and what is copied after it: far-tier device address and bytes of each region. -/
structure CastImage where
  bytes : Bytes
  copies : List (Nat × Bytes)

/-- The image of a job at a far-tier address (R331). -/
def State.castImage (s : State) (j image : Nat) (copy : Bool) : CastImage :=
  let b := s.job j
  let tasks := ((List.range b.tasks.length).zip b.tasks).map fun t => s.taskSection j t.1 t.2
  let colls := ((List.range 64).map fun n => toLe 8 (((b.colls.find? fun c => c.decl.num == n).map (·.started)).getD 0)).flatten
  let defer := (b.strag.deferred.map decisionBytes).flatten
  let streams := (b.serving.inUse.map fun x => x.2.bytes x.1).flatten
  let gs := b.manifestGrants
  let body := alignedSections ([b.settingsBytes] ++ tasks ++ [colls, defer, streams])
  let length := 128 + body.length + roundUp (32 * gs.length) 64
  let places := gs.foldl (fun (acc : List Nat × Nat) g => (acc.1 ++ [acc.2], acc.2 + roundUp g.decl.bytes 64)) ([], image + length)
  let contents := gs.map fun g => s.committedBytes j g.addr g.decl.bytes
  let manifest := ((gs.zip places.1).zip contents).map fun x =>
    manifestBytes x.1.1.manifestNumber (if copy then 1 else 0) x.1.1.decl.bytes (if copy then x.1.2 else x.1.1.addr) (fingerprintBytes x.2).toNat
  let t := b.train
  let hinge := b.hinge.getD {}
  let head := layRecord 128 [(0, 2, 1), (2, 1, flagWord (!b.classF) + 2 * flagWord b.strict + 4 * flagWord t.raise + 8 * flagWord b.hinge.isSome),
    (3, 1, wrapInt t.loss 8), (4, 4, s.ident.signature.toNat), (8, 8, t.step), (0x10, 8, t.updates), (0x18, 8, b.layout.toNat), (0x20, 4, t.clean),
    (0x24, 4, b.tasks.length), (0x28, 4, b.serving.inUse.length), (0x2C, 4, b.strag.deferred.length), (0x30, 4, gs.length),
    (0x34, 4, if b.hinge.isSome then hinge.slot0.castGeneration else 0), (0x38, 4, if b.hinge.isSome then hinge.slot1.castGeneration else 0),
    (0x3C, 4, if b.hinge.isSome && hinge.slot1.state == 3 then 1 else 0), (0x70, 8, length)]
  let digest := sliceZ ((b.bin.map (·.digest)).getD []) 0 48
  { bytes := layBytes head 0x40 digest ++ body ++ alignedSections [manifest.flatten], copies := if copy then places.1.zip contents else [] }

/-- A word of the job's memory that CAST reads holds an uncorrectable error. -/
def State.castBad (s : State) (j : Nat) : Bool :=
  let b := s.job j
  (b.tasks.any fun k => s.mem.bad (wsKey j k.home 0) (1024 * k.decl.workspaceKib)) || b.manifestGrants.any fun g => s.mem.bad g.addr g.decl.bytes

/-! ## CAST (R329, R330) -/

/-- The work of a job that CAST waits for: instances of collectives, transactions, far-tier accesses of its channels (R330). -/
def State.castWaits (s : State) (j : Nat) : Bool :=
  ((s.job j).colls.any fun c => !c.active.isEmpty) ||
    (s.fabric.txns.any fun t => match t.use with
      | .chan r => r.job == j
      | .dropped => false) ||
    s.host.far.any fun q => match q.use with
      | .chanWrite r | .chanRead r _ => r.job == j
      | _ => false

/-- The image is written: a buffer too small is refused with the bytes needed in units of 4 KiB (R330). -/
def State.writeCast (s : State) (j : Nat) (r : CmdRef) (c : Cmd) : State :=
  let x := s.castImage j (c.p 0 8) (bitOf (c.p 0x10 1) 1)
  let need := x.copies.foldl (fun n y => n + roundUp y.2.length 64) x.bytes.length
  let stopped := (s.setJob j fun b => { b with stopper := none }).enter j 2
  if s.castBad j then stopped.reply r stUncorrectable 0 0
  else if need > c.p 8 8 then stopped.reply r stBadParam (min (ceilDiv need 4096) 0xFFFFFFFF) 0
  else
    let s := (s.setJob j fun b => { b with stopper := some { cmd := r, cast := true, length := x.bytes.length } }).enter j 5
    let s := s.farPut (c.p 0 8 - farBase) x.bytes 0 (.image j)
    x.copies.foldl (fun s y => s.farPut (y.1 - farBase) y.2 0 (.image j)) s

/-- A CAST that waits goes on once nothing of the job is under way (R330). -/
def State.castProgress (s : State) (j : Nat) : State :=
  let b := s.job j
  match b.stopper with
  | none => s
  | some x =>
    if !x.cast || b.state != 4 || b.train.openEpoch.isSome || s.castWaits j then s
    else match s.cmd x.cmd with
      | some c => s.writeCast j x.cmd c
      | none => (s.setJob j fun b => { b with stopper := none }).enter j 2

/-- The image has reached the far tier: the reply, and with CONTINUE the job runs again (R330). -/
def State.castEnd (s : State) (j status : Nat) : State :=
  let b := s.job j
  match b.stopper with
  | none => s
  | some x =>
    if b.state ≠ 5 ∨ (s.host.far.any fun q => q.use == .image j) then s
    else
      let cont := match s.cmd x.cmd with
        | some c => bitOf (c.p 0x10 1) 0
        | none => false
      let s := ((s.setJob j fun b => { b with stopper := none }).enter j 2).reply x.cmd status 0 (if status = stOk then x.length else 0)
      if cont && status == stOk then s.startJob j else s

/-- CAST (R156, R329, R330). -/
def doCast (r : CmdRef) (c : Cmd) (s : State) : State :=
  let j := c.job
  let b := s.job j
  s.checked r [(c.p 0 8 % 64 != 0 || !b.inWindow (c.p 0 8) (c.p 8 8), stBadParam, 0), (c.p 8 8 == 0, stBadParam, 8),
      (decide (c.p 0x10 1 > 3), stBadParam, 0x10), c.reserved 0x11 15, c.beyond 32, b.stateCheck 0x0106] fun s =>
    let stop : Stopper := { cmd := r, cast := true }
    if b.state = 3 ∧ b.train.openEpoch.isSome then (s.setJob j fun b => { b with stopper := some stop }).leaveRunning j
    else
      let s := if b.state = 3 then (s.leaveRunning j).stopDone j else s
      ((s.setJob j fun b => { b with stopper := some stop }).enter j 4).castProgress j

/-- CAST. -/
def execCast (r : CmdRef) (s : State) : Host.Outcome State Fault Refusal := s.become (cmdRow r 0x0106 (.cast r) (doCast r) s)

/-! ## Reading an image back -/

/-- The first `n` words of bytes. -/
def wordsIn (n : Nat) (b : Bytes) : List Nat := (List.range n).map fun i => fieldN b (8 * i) 8

/-- `n` records read one after another from words. -/
def readMany {α : Type} (one : List Nat → Option (α × List Nat)) : Nat → List Nat → Option (List α × List Nat)
  | 0, ws => some ([], ws)
  | n + 1, ws => match one ws with
    | none => none
    | some (x, ws) => (readMany one n ws).map fun r => (x :: r.1, r.2)

/-- A counted list of records. -/
def readList {α : Type} (one : List Nat → Option (α × List Nat)) : List Nat → Option (List α × List Nat)
  | n :: ws => if n ≤ ws.length then readMany one n ws else none
  | [] => none

/-- A tile. -/
def readTile : List Nat → Option (Tile × List Nat)
  | array :: slot :: shape :: wide :: acc :: chunk :: key :: sel :: n :: ws =>
    if n ≤ ws.length then
      some ({ array := array, slot := slot, shape := shape, wide := wide == 1, accOffset := acc, chunk := chunk, totals := ws.take n
              key := BitVec.ofNat 64 key, selected := sel == 1 }, ws.drop n)
    else none
  | _ => none

/-- A place on a line: die, line, order, count. -/
abbrev WaitPlace := Option (Nat × Nat × Nat × Nat)

/-- A place on a line from its words. -/
def readWait (on d l i n : Nat) : WaitPlace := if on = 1 then some (d, l, i, n) else none

/-- A loop of a channel. -/
def Job.readLoop (b : Job) : List Nat → Option (Loop × List Nat)
  | k1 :: n1 :: o1 :: k2 :: n2 :: o2 :: i :: count :: src :: dst :: ws =>
    some ({ start := b.placeOf k1 n1 o1, stop := b.placeOf k2 n2 o2, index := i, count := count, src := signedOf src 64, dst := signedOf dst 64 }, ws)
  | _ => none

/-- A channel's position: kind, number, the channel's fields, its place on a line. -/
def Job.readChan (b : Job) : List Nat → Option ((Bool × Nat × (Chan → Chan) × WaitPlace) × List Nat)
  | die :: num :: st :: skip :: skipped :: mark :: cause :: dir :: addr :: home :: wrote :: k :: n :: o :: w0 :: w1 :: w2 :: w3 :: w4 :: ws =>
    (readList b.readLoop ws).map fun l =>
      ((die == 1, num, fun (c : Chan) => { c with
          state := if st ≥ 4 then 4 else st, savedState := st % 4, skip := skip == 1, skipped := skipped == 1, markFail := mark == 1
          cause := cause, failDir := dir == 1, failAddr := addr, home := ((b.tasks[home]?).map (·.home)).getD c.home, wrote := wrote == 1
          pc := b.placeOf k n o, loops := l.1, writes := 0, reads := 0, remote := [], issued := false, prov := false },
        readWait w0 w1 w2 w3 w4), l.2)
  | _ => none

/-- A phase. -/
def readPhase : List Nat → Option ((Nat × Nat) × List Nat)
  | n :: t :: ws => some ((n, t), ws)
  | _ => none

/-- Deferred rows in the reserve. -/
def readKeptRow : List Nat → Option ((Nat × Nat × Nat × Nat × Nat × Nat) × List Nat)
  | a :: b :: c :: d :: e :: f :: ws => some ((a, b, c, d, e, f), ws)
  | _ => none

/-- What a task's section says. -/
structure TaskImage where
  task : Task
  wait : WaitPlace
  kept : List (Nat × Nat × Nat × Nat × Nat × Nat)
  chans : List (Bool × Nat × (Chan → Chan) × WaitPlace)
  workspace : Bytes
  counters : List Nat

/-- A task's section read for the task of a job; none when it does not fit the task (R332). -/
def Job.readTask (b : Job) (k : Task) (sec : Bytes) : Option TaskImage :=
  let n := fieldN sec 0 8
  let wsLen := 1024 * k.decl.workspaceKib
  let lines := ((b.lines[dieOf k.home]?).getD []).length
  if 8 * n > sec.length ∨ sec.length < 8 + 8 * n + 524288 + wsLen + 2 * lines then none
  else match wordsIn n (sec.drop 8) with
    | scalar :: scalar2 :: key :: skip :: hasResume :: resume :: point :: w0 :: w1 :: w2 :: w3 :: w4 :: ws =>
      match readList readPhase ws with
      | none => none
      | some (phases, ws) => match readList readTile ws with
        | none => none
        | some (tiles, ws) => match readList readKeptRow ws with
          | none => none
          | some (kept, ws) => match readList b.readChan ws with
            | none => none
            | some (chans, _) =>
              let rest := sec.drop (8 + 8 * n)
              some {
                task := { k with
                  scalar := BitVec.ofNat 64 scalar, scalar2 := BitVec.ofNat 64 scalar2, tileKey := BitVec.ofNat 64 key
                  skipEntry := BitVec.ofNat 64 skip, resume := if hasResume = 1 then some (BitVec.ofNat 64 resume) else none
                  atPoint := point == 1, phases := phases, tiles := tiles, inSlot := true, block := none, prov := false, atEpoch := false
                  pace := none, vregs := cellWrite [] 0 (rest.take 524288) }
                wait := readWait w0 w1 w2 w3 w4, kept := kept, chans := chans
                workspace := (rest.drop 524288).take wsLen
                counters := (List.range lines).map fun i => fieldN rest (524288 + wsLen + 2 * i) 2 }
    | _ => none

/-! ## RECAST (R332, R333) -/

/-- Bytes laid into the committed halves of a job's memory, page by page. -/
def State.layCommitted (s : State) (j key : Nat) (b : Bytes) : State :=
  (List.range ((key % 4096 + b.length + 4095) / 4096)).foldl (fun s i =>
    let p := key / 4096 + i
    let a := max key (4096 * p)
    s.setMem fun m => m.write ((s.job j).readHalf false a) (sliceZ b (a - key) (min (key + b.length) (4096 * p + 4096) - a))) s

/-- Regions read from their sources in manifest order; the status of the first that fails (R332, R333). -/
def State.readRegions (j : Nat) (img : Image) : List (Grant × Bytes) → State → Except Nat State
  | [], s => .ok s
  | (g, e) :: r, s =>
    let source := fieldN e 2 1
    let got : Option Bytes := if source = 0 then some (s.committedBytes j g.addr g.decl.bytes)
      else (img.regionBytes.find? fun x => x.1 == g.manifestNumber).map (·.2)
    match got with
    | none => .error (if source = 2 then stUnreachable else stUncorrectable)
    | some b =>
      if source = 0 ∧ s.mem.bad g.addr g.decl.bytes then .error stUncorrectable
      else if (fingerprintBytes (b.take g.decl.bytes)).toNat ≠ fieldN e 0x18 8 then .error stUncorrectable
      else State.readRegions j img r (if source = 0 then s else s.layCommitted j g.addr (b.take g.decl.bytes))

/-- Page lists of a stream read back from its root page and table pages in the KV pool (R335). -/
def State.pagesOf (s : State) (j pool root pages : Nat) : List Nat × List Nat :=
  let tables := ceilDiv (pages - 1) 16385
  let data := pages - 1 - tables
  let word := fun (page i : Nat) => leNat (s.committedBytes j (pool + 65536 * page + 4 * i) 4)
  let ts := (List.range tables).map fun i => word root i
  (ts, (List.range data).map fun k => word (ts.getD (k / 16384) 0) (k % 16384))

/-- A stream context read back. -/
def State.readStream (s : State) (j pool : Nat) (e : Bytes) : Stream :=
  let pages := fieldN e 0x14 4
  let x := if pages = 0 then ([], []) else s.pagesOf j pool (fieldN e 0x10 4) pages
  { state := fieldN e 4 1, cls := fieldN e 5 1, policy := fieldN e 6 1, endReason := fieldN e 7 1, position := fieldN e 8 4
    generation := fieldN e 0xC 4, root := if pages = 0 then none else some (fieldN e 0x10 4), tables := x.1, data := x.2
    tag := BitVec.ofNat 32 (fieldN e 0x18 4), admittedStep := fieldN e 0x1C 4, order := fieldN e 0x1C 4 }

/-- The clamp of R162. -/
def clampLoss (l : Int) : Int := max (-64) (min 64 l)

/-- A weight slot as the header gives it: the inactive one is DRAINING when a stream holds its generation, else READY (R134). -/
def slotOfImage (active held : Bool) (generation : Nat) : WeightSlot :=
  { state := if active then 3 else if generation = 0 then 0 else if held then 4 else 2, generation := generation }

/-- Address of the KV pool. -/
def Job.poolAddr (b : Job) : Nat :=
  match b.bin.bind (·.serve) with
  | some v => b.placeAddr 0 (.region v.kvRegion 0)
  | none => 0

/-- Tasks, counters, instance counts, deferrals, streams, slots and settings installed (R332). -/
def State.install (s : State) (j : Nat) (img : Image) (ts : List TaskImage) (blocks : List Block304) : State :=
  let h := img.header
  let loss := signedOf (fieldN h 3 1) 8
  let active := fieldN h 0x3C 4
  let s := (s.offCores j).leaveLines fun a => a.ofJob j
  let s := (s.job j).chans.foldl (fun s c => s.dropChan (c.ref j)) s
  let s := s.dropWaiting fun w => match w.1 with
    | .task t => t.job == j
    | _ => (chanOfRow w.2).any fun r => r.job == j
  let s := s.setJob j fun b => b.configured blocks
  let streams := img.streams.map fun e => (fieldN e 0 4, s.readStream j (s.job j).poolAddr e)
  let s := s.setJob j fun b => { b with
    tasks := ts.map (·.task)
    chans := b.chans.map fun (c : Chan) =>
      match (ts[c.task]?).bind fun t => t.chans.find? fun x => x.1 == c.decl.die && x.2.1 == c.decl.num with
      | some x => x.2.2.1 c
      | none => c
    started := true
    colls := b.colls.map fun (c : Coll) => { c with
      started := img.instances.getD c.decl.num 0, startedAtOpen := img.instances.getD c.decl.num 0, active := [], early := [], inStep := (0, 0) }
    strag := { deferred := img.deferrals, kept := (ts.head?.map (·.kept)).getD []
               removed := b.strag.removed, replayPos := b.strag.replayPos }
    serving := { b.serving with
      streams := (List.range b.serving.streams.length).map fun i => ((streams.find? fun x => x.1 == i).map (·.2)).getD {}
      nextOrder := streams.foldl (fun n x => max n (x.2.order + 1)) b.serving.nextOrder, changes := [] }
    hinge := b.hinge.map fun (y : Hinge) => { y with
      slot0 := slotOfImage (active == 0) (streams.any fun x => x.2.generation == fieldN h 0x34 4) (fieldN h 0x34 4)
      slot1 := slotOfImage (active == 1) (streams.any fun x => x.2.generation == fieldN h 0x38 4) (fieldN h 0x38 4)
      view := active, passes := [], copy := none, switch := none, maxTag := max y.maxTag (max (fieldN h 0x34 4) (fieldN h 0x38 4)) }
    train := { b.train with
      step := fieldN h 8 8, updates := fieldN h 0x10 8, judged := fieldN h 8 8, loss := loss, lossPrev := loss
      lossNext := if bitOf (fieldN h 2 1) 2 then clampLoss (loss + b.up) else loss
      clean := fieldN h 0x20 4, raise := bitOf (fieldN h 2 1) 2, fresh := false, openEpoch := none, resolved := none, noSpecAt := none
      dirty := [], tagged := [], heldMsgs := [], sums := [], paths := [], fingerprints := [], sumsDone := [], pathsDone := []
      fingerprintsDone := [], ratioStep := none, ratioHigh := [] } }
  let b := s.job j
  let s := ts.foldl (fun s t => (s.layCommitted j (wsKey j t.task.home 0) t.workspace)) s
  let s := ts.foldl (fun s t =>
    let ls := (b.lines[dieOf t.task.home]?).getD []
    (ls.zip t.counters).foldl (fun s x => s.setDie (dieOf t.task.home) fun d => { d with
      lines := d.lines.modify x.1 fun e => { e with count := x.2 } }) s) s
  let waits := ((List.range ts.length).zip ts).flatMap fun t =>
    let own := t.2.wait.toList.map fun w => (w, WaitAgent.task { job := j, task := t.1 })
    own ++ t.2.chans.flatMap fun c => c.2.2.2.toList.map fun w =>
      (w, WaitAgent.chan { job := j, die := c.1, owner := if c.1 then dieOf t.2.task.home else t.1, num := c.2.1 })
  (waits.insertionSort fun x y => x.1.2.2.1 ≤ y.1.2.2.1).foldl (fun s x =>
    match b.line x.1.1 x.1.2.1 with
    | none => s
    | some l =>
      let s := match x.2 with
        | .task t => s.setTask t fun k => { k with block := some (.line x.1.1 l) }
        | .chan _ => s
      s.joinLine x.1.1 l x.1.2.2.2 x.2) s

/-- Whether an image fits the job's reservations (R332). -/
def Job.imageFits (b : Job) (img : Image) : Bool :=
  let h := img.header
  fieldN h 0x24 4 == b.tasks.length && img.taskBytes.length == b.tasks.length && fieldN h 0x28 4 == img.streams.length &&
    decide (img.streams.length ≤ b.serving.streams.length) && (img.streams.all fun e => decide (fieldN e 0 4 < b.serving.streams.length)) &&
    fieldN h 0x2C 4 == img.deferrals.length && fieldN h 0x30 4 == b.manifestGrants.length && img.manifest.length == b.manifestGrants.length &&
    ((b.manifestGrants.zip img.manifest).all fun x => fieldN x.2 0 2 == x.1.manifestNumber && fieldN x.2 8 8 == x.1.decl.bytes && decide (fieldN x.2 2 1 ≤ 2)) &&
    bitOf (fieldN h 2 1) 3 == b.hinge.isSome

/-- RECAST (R332, R333). -/
def doRecast (r : CmdRef) (img : Image) (c : Cmd) (s : State) : State :=
  let j := c.job
  let b := s.job j
  let h := img.header
  let flags := c.p 0x10 1
  let ts := (b.tasks.zip img.taskBytes).filterMap fun x => b.readTask x.1 x.2
  let blocks := parseBlocks (img.settings.length + 1) 0 img.settings []
  let okBlocks := match blocks with
    | .ok _ => true
    | .error _ => false
  s.checked r [(c.p 0 8 % 64 != 0 || !b.inWindow (c.p 0 8) (c.p 8 8), stBadParam, 0), (c.p 8 8 == 0, stBadParam, 8),
      (decide (flags > 3), stBadParam, 0x10), c.reserved 0x11 15, c.beyond 32,
      (sliceZ h 0x40 48 != sliceZ ((b.bin.map (·.digest)).getD []) 0 48 || fieldN h 0x18 8 != b.layout.toNat || !b.imageFits img ||
        ts.length != b.tasks.length || !okBlocks || fieldN h 0 2 != 1 ||
        (fieldN h 4 4 != s.ident.signature.toNat && !bitOf flags 0), stBadParam, 0), b.stateCheck 0x0107] fun s =>
    let s := s.enter j 6
    match State.readRegions j img (b.manifestGrants.zip img.manifest) s with
    | .error st => (s.faultStop j st true).reply r st 0 0
    | .ok s =>
      let s := (b.grants.filter fun g => g.decl.role == .scratch || g.decl.role == .reshard).foldl
        (fun s g => s.setMem fun m => m.zero g.addr (g.decl.blocks * blockBytes)) s
      let xs := match blocks with
        | .ok xs => xs
        | .error _ => []
      let s := ((s.install j img ts xs).setJob j fun b => { b with faultStatus := 0 }).enter j 2
      (if bitOf flags 1 then s.startJob j else s).reply r stOk 0 0

/-- RECAST. -/
def execRecast (r : CmdRef) (image : Image) (s : State) : Host.Outcome State Fault Refusal :=
  s.become (cmdRow r 0x0107 (.recast r image) (doRecast r image) s)

end Sys2Proof.Machine
end

