-- ==== Sys2Proof/Machine/Controller.lean ====
section
/-! DEFINITION. The core controller: phases, tile keys, pacing timer 0, waits on event lines, and the channel registers
(R76, R77, R99, R102, R108 to R110, R430). -/

namespace Sys2Proof.Machine

/-- The largest duration of a phase over the job's cores (R76). -/
def notePhase (ps : List (Nat × Option Nat)) (n d : Nat) : List (Nat × Option Nat) :=
  let d := match (ps.find? fun p => p.1 == n).map (·.2) with
    | some (some e) => max d e
    | _ => d
  ps.filter (fun p => p.1 != n) ++ [(n, some d)]

/-- PHASE (R76): opens a phase at pacing timer 1, or closes it and reports its duration. -/
def doPhase (t : TaskRef) (opens : Bool) (number timer : Nat) (s0 : State) : State :=
  match s0.issue t with
  | none => s0
  | some (k, s) =>
    if number > 255 then s0
    else if opens then s.setTask t fun x => { x with phases := x.phases.filter (fun p => p.1 != number) ++ [(number, timer % 2 ^ 32)] }
    else match k.phases.find? fun p => p.1 == number with
      | none => s
      | some p =>
        let d := (timer + 2 ^ 32 - p.2) % 2 ^ 32
        (s.setTask t fun x => { x with phases := x.phases.filter fun p => p.1 != number }).setTrain t.job
          fun x => { x with phaseTimes := notePhase x.phaseTimes number d }

/-- PHASE. -/
def execPhase (t : TaskRef) (opens : Bool) (number timer1Ns : Nat) (s : State) : Host.Outcome State Fault Refusal :=
  s.become (doPhase t opens number timer1Ns s)

/-- TILEKEY (R77). -/
def doTilekey (t : TaskRef) (key : U64) (s0 : State) : State :=
  match s0.issue t with
  | none => s0
  | some (_, s) => s.setTask t fun x => { x with tileKey := key }

/-- TILEKEY. -/
def execTilekey (t : TaskRef) (key : U64) (s : State) : Host.Outcome State Fault Refusal := s.become (doTilekey t key s)

/-- The period that pacing timer 0 runs with: none for zero, at least 1,000 ns (R102). -/
def paceOf (line period : Nat) : Option (Nat × Nat) := if period = 0 then none else some (line, max 1000 period)

/-- PACE (R102). -/
def doPace (t : TaskRef) (line : Nat) (period : U32) (s0 : State) : State :=
  match s0.issue t with
  | none => s0
  | some (_, s) => s.setTask t fun x => { x with pace := paceOf line period.toNat }

/-- PACE. -/
def execPace (t : TaskRef) (line : Nat) (period : U32) (s : State) : Host.Outcome State Fault Refusal := s.become (doPace t line period s)

/-- PACING_PULSE (R102): timer 0 of a task pulses its line, whether or not the task is on its core. -/
def doPacingPulse (t : TaskRef) (s : State) : State :=
  match s.task t with
  | none => s
  | some k => match k.pace with
    | none => s
    | some p => s.pulse t.job (dieOf k.home) p.1 1

/-- PACING_PULSE. -/
def execPacingPulse (t : TaskRef) (s : State) : Host.Outcome State Fault Refusal := s.become (doPacingPulse t s)

/-- CONTROLLER_WAIT (R99): the task waits in the line's order; a zero count completes at once. -/
def doControllerWait (t : TaskRef) (line count : Nat) (s0 : State) : State :=
  match s0.issue t with
  | none => s0
  | some (k, s) =>
    if count = 0 then s
    else match (s.job t.job).line (dieOf k.home) line with
      | none => s0
      | some l => (s.setTask t fun x => { x with block := some (.line (dieOf k.home) l) }).joinLine (dieOf k.home) l count (.task t)

/-- CONTROLLER_WAIT. -/
def execControllerWait (t : TaskRef) (line count : Nat) (s : State) : Host.Outcome State Fault Refusal :=
  s.become (doControllerWait t line count s)

/-! ## Channel registers -/

/-- The channel that CHGO, CHSTAT and CHCLR name by kind and number (R430). -/
def Task.chanRef (k : Task) (t : TaskRef) (die : Bool) (num : Nat) : ChanRef :=
  { job := t.job, die := die, owner := if die then dieOf k.home else t.task, num := num }

/-- PROG of a CH_GO value (R110). -/
def goProg (v : Nat) : Nat := bitsOf v 12 52

/-- ACTION of a CH_GO value (R110). -/
def goAction (v : Nat) : Nat := bitsOf v 8 2

/-- An accepted action takes MODE, and HOME for a die channel (R110). -/
def Chan.taken (c : Chan) (v : Nat) : Chan :=
  { c with skip := bitOf v 11, home := if c.decl.die then bitsOf v 0 8 else c.home }

/-- What an action does to its channel (R110); none when it does not match the channel's state. -/
def Chan.go (c : Chan) (v : Nat) : Option Chan :=
  if bitOf v 10 then none
  else match goAction v with
    | 0 => if c.state = 0 then
        some { c.taken v with state := 1, pc := goProg v, loops := [], issued := false, remote := [], wrote := false } else none
    | 1 => if c.state = 3 then some { c.taken v with state := 1, issued := false, remote := [], wrote := false } else none
    | 2 => if c.state = 3 then some { (c.taken v).advance with state := 1 } else none
    | _ => if c.state = 3 then some { c.taken v with state := 0, loops := [], issued := false, remote := [], wrote := false } else none

/-- CHGO with the action of its row (R110): a mismatch has no effect and writes CHGO_MISMATCH (R341). -/
def doChgo (t : TaskRef) (die : Bool) (num : Nat) (value : U64) (action : Nat) (s0 : State) : State :=
  match s0.issue t with
  | none => s0
  | some (k, s) =>
    let r := k.chanRef t die num
    if goAction value.toNat ≠ action then s0
    else match s.chan r with
      | none => s0
      | some c => match c.go value.toNat with
        | some c' => s.setChan r fun _ => c'
        | none => s.log 0x0104 2 ((s.job t.job).chanDomain c) t.job c.phys value.toNat 0

/-- CHGO_START. -/
def execChgoStart (t : TaskRef) (die : Bool) (num : Nat) (value : U64) (s : State) : Host.Outcome State Fault Refusal :=
  s.become (doChgo t die num value 0 s)

/-- CHGO_RETRY. -/
def execChgoRetry (t : TaskRef) (die : Bool) (num : Nat) (value : U64) (s : State) : Host.Outcome State Fault Refusal :=
  s.become (doChgo t die num value 1 s)

/-- CHGO_NEXT. -/
def execChgoNext (t : TaskRef) (die : Bool) (num : Nat) (value : U64) (s : State) : Host.Outcome State Fault Refusal :=
  s.become (doChgo t die num value 2 s)

/-- CHGO_ABORT. -/
def execChgoAbort (t : TaskRef) (die : Bool) (num : Nat) (value : U64) (s : State) : Host.Outcome State Fault Refusal :=
  s.become (doChgo t die num value 3 s)

/-- CHSTAT (R108, R109): CH_STATUS and CH_PC are the controller's results. -/
def doChstat (t : TaskRef) (die : Bool) (num : Nat) (s0 : State) : State :=
  match s0.issue t with
  | none => s0
  | some (k, s) => match s.chan (k.chanRef t die num) with
    | none => s0
    | some c => s.setTask t fun x => { x with scalar := BitVec.ofNat 64 c.status, scalar2 := BitVec.ofNat 64 c.pcReg }

/-- CHSTAT. -/
def execChstat (t : TaskRef) (die : Bool) (num : Nat) (s : State) : Host.Outcome State Fault Refusal := s.become (doChstat t die num s)

/-- The W1C bits of CH_STATUS (R108). -/
def Chan.clear (c : Chan) (mask : Nat) : Chan :=
  { c with skipped := c.skipped && !bitOf mask 3, markFail := c.markFail && !bitOf mask 2 }

/-- CHCLR (R108). -/
def doChclr (t : TaskRef) (die : Bool) (num : Nat) (mask : U64) (s0 : State) : State :=
  match s0.issue t with
  | none => s0
  | some (k, s) => s.setChan (k.chanRef t die num) fun c => c.clear mask.toNat

/-- CHCLR. -/
def execChclr (t : TaskRef) (die : Bool) (num : Nat) (mask : U64) (s : State) : Host.Outcome State Fault Refusal :=
  s.become (doChclr t die num mask s)

end Sys2Proof.Machine
end

