-- ==== Sys2Proof/Machine/Membership.lean ====
section
/-! DEFINITION. Membership (R237 to R255, R268 to R270): the job tree, heartbeats, suspicion, proposals and turns, eviction and
isolation, and the membership commands. -/

namespace Sys2Proof.Machine

/-! ## The proposed tree (R239) -/

/-- The nearest surviving ancestor of a device; none when the chain ends at a removed root. -/
def ancestorIn (ms : List TreeEntry) (removed : List U32) : Nat → U32 → Option U32
  | 0, _ => none
  | n + 1, d =>
    match ms.find? fun e => e.device == d with
    | none => none
    | some e =>
      if e.parent = d then none
      else if removed.contains e.parent then ancestorIn ms removed n e.parent else some e.parent

/-- The coordinator after a change: the root, else the surviving deputy of lowest rank. -/
def Membership.rootAfter (m : Membership) (removed : List U32) : Option U32 :=
  match m.root with
  | none => none
  | some r =>
    if !removed.contains r then some r
    else [1, 2, 3].findSome? fun k =>
      (m.members.find? fun e => e.deputy == k && !removed.contains e.device).map (·.device)

/-- The tree after a change (R239); empty without a coordinator. -/
def Membership.treeAfter (m : Membership) (removed : List U32) (added : List TreeEntry) : List TreeEntry :=
  match m.rootAfter removed with
  | none => []
  | some r =>
    ((m.members.filter fun e => !removed.contains e.device).map fun (e : TreeEntry) =>
      if e.device = r then { e with parent := r }
      else if m.root = some e.parent ∧ removed.contains e.parent then { e with parent := r }
      else if removed.contains e.parent then { e with parent := (ancestorIn m.members removed 20 e.device).getD r }
      else e) ++ added

/-- Children of a device in a tree. -/
def childrenIn (ms : List TreeEntry) (d : U32) : List U32 := (ms.filter fun e => e.parent == d && e.device != d).map (·.device)

/-- Parent of a device in a tree, none for its root. -/
def parentIn (ms : List TreeEntry) (d : U32) : Option U32 := (ms.find? fun e => e.device == d && e.parent != d).map (·.parent)

/-- The tree that a proposal gives. -/
def Membership.proposed (m : Membership) (q : Proposal) : List TreeEntry := m.treeAfter q.removed q.added

/-! ## Control messages at their receiver (R244) -/

/-- Whether a device is a member of the job at the current epoch, or at one that this module has lined up for. -/
def Job.knowsMember (b : Job) (d : U32) : Bool :=
  (b.member.any fun m => (m.members.any fun e => e.device == d) || m.proposal.any fun q => q.added.any fun e => e.device == d) ||
    (b.reshard.any fun x => x.plan.oldMembers.contains d || x.plan.newMembers.any fun e => e.device == d)

/-- The kind of a CONTROL message (R247). -/
def controlKind (h : Header) : Nat := bitsOf h.address.toNat 56 8

/-- A CONTROL message of a kind that passes R244, else discarded and counted. -/
def controlRow (p : Nat) (m : Msg) (kind : Nat) (act : Nat → State → State) (s0 : State) : State :=
  if !s0.arrived p m 0x20 ∨ controlKind m.hdr ≠ kind then s0
  else
    let s := s0.takeRx p m
    let j := m.hdr.job
    if j < 64 ∧ s.inDeviceSet m.hdr.source ∧ (s.job j).knowsMember m.hdr.source then act j s else s.wardDrop p

/-- Whether a device is a parent or child of this module in some job tree (R240). -/
def State.treeNeighbour (s : State) (d : U32) : Bool :=
  s.jobs.any fun b => b.member.any fun m => m.parent s.ident.device == some d || (m.children s.ident.device).contains d

/-- A HEARTBEAT or GOODBYE that passes R244. -/
def neighbourRow (p : Nat) (m : Msg) (kind : Nat) (act : State → State) (s0 : State) : State :=
  if !s0.arrived p m 0x20 ∨ controlKind m.hdr ≠ kind then s0
  else
    let s := s0.takeRx p m
    if (s.port p).neighbour = m.hdr.source ∨ s.treeNeighbour m.hdr.source then act s else s.wardDrop p

/-! ## Heartbeats -/

/-- The route word that leads one hop out of a port. -/
def Port.oneHop (x : Port) : U64 :=
  match x.role with
  | 1 | 2 => BitVec.ofNat 64 ((if x.chain then 2 else 1) * 2 ^ 62 + x.ring * 2 ^ 59 + (if x.role = 2 then 2 ^ 58 else 0) + 2 ^ 45)
  | 4 => BitVec.ofNat 64 (3 * 2 ^ 62 + 2 ^ 37 + 2 ^ 33)
  | _ => BitVec.ofNat 64 (3 * 2 ^ 62)

/-- A CONTROL message sent to the far end of a port. -/
def State.controlPort (s : State) (p kind low : Nat) (content : Bytes) : State :=
  let x := s.port p
  let h := { headerOf s x.neighbour 0x20 0 0 (kind * 2 ^ 56 + low) content.length with membership := 0 }
  s.txPut p 0 x.oneHop { hdr := h, content := content, bad := [] }

/-- A CONTROL message outside any job sent by the route table. -/
def State.controlDev (s : State) (d : U32) (kind low : Nat) (content : Bytes) : State :=
  let h := { headerOf s d 0x20 0 0 (kind * 2 ^ 56 + low) content.length with membership := 0 }
  match s.send 0 { hdr := h, content := content, bad := [] } with
  | some (_, s) => s
  | none => s

/-- The flags of a heartbeat (R241). -/
def State.beatFlags (s : State) : Nat :=
  (if s.health.worn then 1 else 0) + (if s.health.retire then 2 else 0) + (if s.fabric.leaving then 4 else 0)

/-- The 64 bytes of a heartbeat (R241). -/
def State.beatBytes (s : State) : Bytes :=
  layRecord 64 [(0, 4, s.ident.device.toNat), (4, 4, s.fabric.beat), (8, 2, s.health.score), (0xA, 1, s.beatFlags)]

/-- The tree neighbours of every job. -/
def State.neighbours (s : State) : List U32 :=
  (s.jobs.flatMap fun b => match b.member with
    | some m => (m.parent s.ident.device).toList ++ m.children s.ident.device
    | none => []).dedup

/-- HEARTBEAT_PERIOD (R240, R241): one heartbeat to each neighbour device. -/
def doHeartbeatPeriod (s0 : State) : State :=
  if s0.keeper.device ≠ 0 then s0
  else
    let ports := (List.range 16).filter fun p => (s0.port p).state == 2
    let first := ports.filter fun p => !((ports.takeWhile fun q => q != p).any fun q => (s0.port q).neighbour == (s0.port p).neighbour)
    let far := first.map fun p => (s0.port p).neighbour
    let s := first.foldl (fun s p => s.controlPort p 1 s0.fabric.beat s0.beatBytes) s0
    let s := (s0.neighbours.filter fun d => !far.contains d).foldl (fun s d => s.controlDev d 1 s0.fabric.beat s0.beatBytes) s
    s.setFabric fun f => { f with beat := (f.beat + 1) % 2 ^ 32 }

/-- HEARTBEAT_PERIOD. -/
def execHeartbeatPeriod (s : State) : Host.Outcome State Fault Refusal := s.become (doHeartbeatPeriod s)

/-- What a heartbeat tells of its sender (R241, R270). -/
def State.hear (s : State) (d : U32) (body : Bytes) : State :=
  let f := fieldN body 0xA 1
  (List.range 64).foldl (fun s j => s.setMember j fun m =>
    if m.members.any fun e => e.device == d then m.setInfo d fun i => { i with
      patina := some (fieldN body 8 2), worn := i.worn || bitOf f 0, retire := i.retire || bitOf f 1 } else m) s

/-- HEARTBEAT (R241, R244). -/
def doHeartbeat (p : Nat) (m : Msg) (s : State) : State := neighbourRow p m 1 (fun s => s.hear m.hdr.source m.content) s

/-- HEARTBEAT. -/
def execHeartbeat (port : Nat) (m : Msg) (s : State) : Host.Outcome State Fault Refusal := s.become (doHeartbeat port m s)

/-- HEARTBEAT_SILENCE (R242): 520 µs without a heartbeat from a device from which one is expected. -/
def doHeartbeatSilence (d : U32) (s : State) : State :=
  if s.treeNeighbour d ∨ ((List.range 16).any fun p => (s.port p).state == 2 && (s.port p).neighbour == d) then s.suspectAll d 1 else s

/-- HEARTBEAT_SILENCE. -/
def execHeartbeatSilence (device : U32) (s : State) : Host.Outcome State Fault Refusal := s.become (doHeartbeatSilence device s)

/-- GOODBYE (R242, R244). -/
def doGoodbye (p : Nat) (m : Msg) (s : State) : State := neighbourRow p m 2 (fun s => s.suspectAll m.hdr.source 3) s

/-- GOODBYE. -/
def execGoodbye (port : Nat) (m : Msg) (s : State) : Host.Outcome State Fault Refusal := s.become (doGoodbye port m s)

/-- SUSPECT at the coordinator or a deputy (R242 to R245, R251, R269). -/
def doSuspect (p : Nat) (m : Msg) (dev : U32) (reason : Nat) (owns : Bool) (s : State) : State :=
  controlRow p m 3 (fun j s =>
    if (s.job j).member.any fun x => x.root == some s.ident.device || x.deputies.contains s.ident.device then s.noteSuspect j dev reason owns
    else s) s

/-- SUSPECT. -/
def execSuspect (port : Nat) (m : Msg) (device : U32) (reason : Nat) (ownsPiece : Bool) (s : State) : Host.Outcome State Fault Refusal :=
  s.become (doSuspect port m device reason ownsPiece s)

/-! ## Isolation and turns -/

/-- A member isolates: it stops the job on itself with MEMBERSHIP_STALE (R239, R252). -/
def State.isolate (s : State) (j : Nat) : State := (s.setMember j fun m => { m with state := 3, proposal := none, mine := false }).faultStop j stStale false

/-- Contributors of devices: the leaves of their GRADIENT contexts (R261). -/
def Job.contributorsOf (b : Job) (ds : List U32) : List Nat := (ds.flatMap fun d => b.contributors d).dedup

/-- Whether the loss of members fails an instance (R229). -/
def failsInstance (c : Coll) (i : CollInstance) (removed : List U32) : Bool :=
  let gone := (List.range c.decl.members.length).filter fun k => (c.decl.members[k]?).any fun m => removed.contains m.device
  !gone.isEmpty && decide (i.rows ≠ 0) && !(isGradient c.decl && gone.all fun k => ownedPieces c.decl k == [])

/-- A message held for a turn is taken up again (R249). -/
def State.admitAny (s : State) (h : HeldMsg) : State := if h.2.hdr.opcode = 0x10 then s.admitColl h.1 h.2 else s.admitRequest h.1 h.2

/-- MEMBERSHIP_REMOVE commands whose devices have all left are answered (R254). -/
def State.answerRemovals (s : State) (j epoch : Nat) : State :=
  match (s.job j).member with
  | none => s
  | some m =>
    let gone := fun (x : CmdRef × List U32) => x.2.all fun d => !(m.members.any fun e => e.device == d)
    ((m.removals.filter gone).foldl (fun s x => s.reply x.1 stOk (epoch % 2 ^ 32) 0) s).setMember j fun m => { m with
      removals := m.removals.filter fun x => !gone x }

/-- What a turn does to a RESHARD under way (R233, R235). -/
def State.reshardTurn (s : State) (j epoch : Nat) (removed : List U32) : State :=
  match (s.job j).reshard with
  | none => s
  | some x =>
    let planned := fun (d : U32) => !(x.plan.newMembers.any fun e => e.device == d)
    if x.stage ≤ 3 ∧ removed.any fun d => !planned d then s.reshardLost j stUnreachable
    else if epoch ≠ x.epoch then s.reshardLost j stStale
    else if x.stage = 4 then (s.setJob j fun b => { b with reshard := none }).reply x.cmd stOk 0 0
    else s

/-- A member adopts an epoch and its tree (R239, R245, R249, R261). -/
def State.adopt (s : State) (j epoch : Nat) (removed : List U32) (added : List TreeEntry) : State :=
  match (s.job j).member with
  | none => s
  | some m =>
    let tree := match (s.job j).reshard with
      | some x => if x.epoch = epoch ∧ x.plan.membersChange then x.plan.newMembers else m.treeAfter removed added
      | none => m.treeAfter removed added
    let lost := (s.job j).contributorsOf removed
    let s := s.setMember j fun m => { m with
      epoch := epoch, members := tree, state := if m.state = 3 ∨ m.state = 4 then m.state else 1, proposal := none, mine := false
      gather := m.gather.filter fun d => !removed.contains d
      gathering := m.gathering && (m.gather.any fun d => !removed.contains d)
      suspects := [], abandonedRun := 0, turned := m.turned + 1, held := []
      drains := m.drains.filter fun d => !removed.contains d.1
      infos := m.infos.filter fun i => !removed.contains i.device }
    let s := s.setStrag j fun x => { x with removed := (x.removed ++ lost).dedup }
    let s := (s.answerRemovals j epoch).touchShadow.reshardTurn j epoch removed
    let s := if tree.isEmpty then s.isolate j else s
    let s := if (s.job j).colls.any fun c => c.active.any fun i => failsInstance c i removed then s.faultStop j stUnreachable true else s
    m.held.foldl State.admitAny s

/-- The words of a proposal's body (log entry 17). -/
def proposalBody (epoch rank : Nat) (removed : List U32) (added : List TreeEntry) : List Nat :=
  [epoch, rank, removed.length] ++ removed.map (·.toNat) ++ added.flatMap fun e => [e.device.toNat, e.parent.toNat, e.deputy]

/-- A CONTROL message to each of a list of devices. -/
def State.toAll (s : State) (j kind : Nat) (body : List Nat) (ds : List U32) : State := ds.foldl (fun s d => s.control j d kind body) s

/-- The count of members lined up in this module's subtree. -/
def Proposal.total (q : Proposal) : Nat := 1 + q.counts.foldl (fun n c => n + c.2) 0

/-- Whether the count of a proposal meets R246. -/
def Proposal.majority (q : Proposal) (members : Nat) : Bool :=
  if q.rank = 0 then decide (2 * q.total ≥ members) else decide (2 * q.total > members)

/-- Whether every child in the proposed tree has answered. -/
def Membership.allAnswered (m : Membership) (q : Proposal) (me : U32) : Bool :=
  (childrenIn (m.proposed q) me).all fun d => q.counts.any fun c => c.1 == d

/-- The proposer turns the lock: TURN down the proposed tree, its own adoption, EVICT to the removed (R245, R250). -/
def State.turnNow (s : State) (j : Nat) (m : Membership) (q : Proposal) : State :=
  let s := s.toAll j 6 (proposalBody q.epoch q.rank q.removed q.added) (childrenIn (m.proposed q) s.ident.device)
  (s.adopt j q.epoch q.removed q.added).toAll j 8 [q.epoch] q.removed

/-- Progress of a proposal here: TURN by its proposer, LINEUP by another member, once every child has answered or the allowance
has passed (R245). -/
def State.lineUp (s : State) (j : Nat) (allowance : Bool) : State :=
  match (s.job j).member with
  | none => s
  | some m =>
    match m.proposal with
    | none => s
    | some q =>
      if !(allowance || m.allAnswered q s.ident.device) then s
      else if m.mine then (if q.majority m.members.length then s.turnNow j m q else s)
      else if q.answered then s
      else
        let s := s.setMember j fun x => { x with proposal := some { q with answered := true } }
        match parentIn (m.proposed q) s.ident.device with
        | some d => s.control j d 5 [q.epoch, q.total]
        | none => s

/-- A proposal of this module (R245, R246). -/
def State.propose (s : State) (j : Nat) (removed : List U32) (added : List TreeEntry) : State :=
  match (s.job j).member with
  | none => s
  | some m =>
    let me := s.ident.device
    let rank := ((m.members.find? fun e => e.device == me).map (·.deputy)).getD 0
    let rank := if m.root = some me then 0 else rank
    let removed := if m.root = some me then removed else match m.root with
      | some r => if removed.contains r then removed else r :: removed
      | none => removed
    let q : Proposal := { epoch := m.epoch + 1, removed := removed, added := added, rank := rank }
    let s := s.setMember j fun x => { x with proposal := some q, mine := true, state := 2, gathering := false, gather := [] }
    (s.toAll j 4 (proposalBody q.epoch rank removed added) (childrenIn (m.proposed q) me)).lineUp j false

/-- Whether this module may propose: the coordinator, or a deputy that has suspected the coordinator itself (R246). -/
def State.mayPropose (s : State) (m : Membership) : Bool :=
  m.state != 3 && m.state != 4 && m.proposal.isNone &&
    (m.root == some s.ident.device || (m.deputies.contains s.ident.device && m.root.any fun r => m.suspects.contains r))

/-- The change that a RESHARD of this job waits for (R255). -/
def Job.reshardChange (b : Job) (m : Membership) : Option (List U32 × List TreeEntry) :=
  b.reshard.bind fun x => if x.plan.membersChange ∧ x.stage = 4 then
    some ((m.members.filter fun e => !(x.plan.newMembers.any fun n => n.device == e.device)).map (·.device),
      x.plan.newMembers.filter fun n => !(m.members.any fun e => e.device == n.device)) else none

/-- GATHER_WINDOW_CLOSE (R245): every removal reported in the window joins one proposal. -/
def doGatherWindowClose (j : Nat) (s : State) : State :=
  match (s.job j).member with
  | none => s
  | some m => if m.gathering ∧ s.mayPropose m ∧ !m.gather.isEmpty then s.propose j m.gather [] else s

/-- GATHER_WINDOW_CLOSE. -/
def execGatherWindowClose (job : Nat) (s : State) : Host.Outcome State Fault Refusal := s.become (doGatherWindowClose job s)

/-- A joining module's membership while it is asked to line up (R255). -/
def State.joining (s : State) (j epoch : Nat) : State :=
  match (s.job j).member, (s.job j).reshard with
  | none, some x => s.setJob j fun b => { b with member := some { epoch := epoch - 1, members := x.plan.newMembers } }
  | _, _ => s

/-- PROPOSE (R245, R246). -/
def doPropose (p : Nat) (msg : Msg) (epoch : Nat) (removed : List U32) (added : List TreeEntry) (rank : Nat) (s : State) : State :=
  controlRow p msg 4 (fun j s =>
    let s := s.joining j epoch
    match (s.job j).member with
    | none => s
    | some m =>
      if epoch ≠ m.epoch + 1 ∨ m.proposal.isSome ∨ removed.contains s.ident.device ∨ m.state = 3 ∨ m.state = 4 ∨
          (rank ≠ 0 ∧ !(m.root.any fun r => removed.contains r)) then s
      else
        let q : Proposal := { epoch := epoch, removed := removed, added := added, rank := rank }
        let s := s.setMember j fun x => { x with proposal := some q, mine := false, state := 2 }
        (s.toAll j 4 (proposalBody epoch rank removed added) (childrenIn (m.proposed q) s.ident.device)).lineUp j false) s

/-- PROPOSE. -/
def execPropose (port : Nat) (m : Msg) (epoch : Nat) (removed : List U32) (added : List TreeEntry) (rank : Nat) (s : State) :
    Host.Outcome State Fault Refusal := s.become (doPropose port m epoch removed added rank s)

/-- LINEUP (R245). -/
def doLineup (p : Nat) (msg : Msg) (epoch count : Nat) (s : State) : State :=
  controlRow p msg 5 (fun j s =>
    (s.setMember j fun m => match m.proposal with
      | some q => if q.epoch = epoch then
          { m with proposal := some { q with counts := (q.counts.filter fun c => c.1 != msg.hdr.source) ++ [(msg.hdr.source, count)] } } else m
      | none => m).lineUp j false) s

/-- LINEUP. -/
def execLineup (port : Nat) (m : Msg) (epoch count : Nat) (s : State) : Host.Outcome State Fault Refusal := s.become (doLineup port m epoch count s)

/-- LINEUP_ALLOWANCE (R245). -/
def execLineupAllowance (job : Nat) (s : State) : Host.Outcome State Fault Refusal := s.become (s.lineUp job true)

/-- TURN (R245): adopted whether or not this member lined up, and forwarded. -/
def doTurn (p : Nat) (msg : Msg) (epoch : Nat) (removed : List U32) (added : List TreeEntry) (s : State) : State :=
  controlRow p msg 6 (fun j s =>
    match (s.job j).member with
    | none => s
    | some m =>
      if epoch ≠ m.epoch + 1 then s
      else
        let s := s.toAll j 6 (proposalBody epoch 0 removed added) (childrenIn (m.treeAfter removed added) s.ident.device)
        s.adopt j epoch removed added) s

/-- TURN. -/
def execTurn (port : Nat) (m : Msg) (epoch : Nat) (removed : List U32) (added : List TreeEntry) (s : State) : Host.Outcome State Fault Refusal :=
  s.become (doTurn port m epoch removed added s)

/-- A proposal is dropped; messages held for its epoch are looked at again (R245, R249). -/
def State.dropProposal (s : State) (j : Nat) (q : Proposal) : State :=
  let held := ((s.job j).member.map (·.held)).getD []
  let s := s.setMember j fun m => { m with
    proposal := none, mine := false, state := if m.state = 2 then 1 else m.state, abandoned := m.abandoned + 1, held := []
    gather := if m.mine then (m.gather ++ q.removed).dedup else m.gather }
  held.foldl State.admitAny s

/-- ABANDON (R245). -/
def doAbandon (p : Nat) (msg : Msg) (epoch : Nat) (s : State) : State :=
  controlRow p msg 7 (fun j s =>
    match (s.job j).member with
    | none => s
    | some m => match m.proposal with
      | none => s
      | some q => if q.epoch ≠ epoch then s
        else (s.toAll j 7 [epoch] (childrenIn (m.proposed q) s.ident.device)).dropProposal j q) s

/-- ABANDON. -/
def execAbandon (port : Nat) (m : Msg) (epoch : Nat) (s : State) : Host.Outcome State Fault Refusal := s.become (doAbandon port m epoch s)

/-- PROPOSAL_TIMEOUT (R245, R252): no majority within 3 ms. -/
def doProposalTimeout (j : Nat) (s : State) : State :=
  match (s.job j).member with
  | none => s
  | some m => match m.proposal with
    | none => s
    | some q =>
      if !m.mine then s
      else
        let s := (s.toAll j 7 [q.epoch] (childrenIn (m.proposed q) s.ident.device)).dropProposal j q
        let s := s.setMember j fun m => { m with abandonedRun := m.abandonedRun + 1 }
        if q.rank = 0 ∧ m.abandonedRun + 1 ≥ 2 then s.isolate j else s

/-- PROPOSAL_TIMEOUT. -/
def execProposalTimeout (job : Nat) (s : State) : Host.Outcome State Fault Refusal := s.become (doProposalTimeout job s)

/-- REPROPOSE (R245, R255). -/
def doRepropose (j : Nat) (s : State) : State :=
  match (s.job j).member with
  | none => s
  | some m =>
    if !s.mayPropose m then s
    else match (s.job j).reshardChange m with
      | some x => s.propose j x.1 x.2
      | none => if m.gather.isEmpty then s else s.propose j m.gather []

/-- REPROPOSE. -/
def execRepropose (job : Nat) (s : State) : Host.Outcome State Fault Refusal := s.become (doRepropose job s)

/-- EVICT (R250). -/
def doEvict (p : Nat) (m : Msg) (s : State) : State := controlRow p m 8 (fun j s => s.evicted j) s

/-- EVICT. -/
def execEvict (port : Nat) (m : Msg) (s : State) : Host.Outcome State Fault Refusal := s.become (doEvict port m s)

/-- ISOLATE (R252): 5 ms after a SUSPECT without TURN or ABANDON, or with no route left to the coordinator and every deputy. -/
def doIsolate (j : Nat) (s : State) : State :=
  match (s.job j).member with
  | none => s
  | some m =>
    let heads := (m.root.toList ++ m.deputies).filter fun d => d != s.ident.device
    let cut := !heads.isEmpty && heads.all fun d => match s.outPort d with
      | some p => !(s.port p).running
      | none => true
    if m.state ≠ 3 ∧ m.state ≠ 4 ∧ (!m.suspects.isEmpty ∨ cut) then s.isolate j else s

/-- ISOLATE. -/
def execIsolate (job : Nat) (s : State) : Host.Outcome State Fault Refusal := s.become (doIsolate job s)

/-! ## Commands -/

/-- An entry of MEMBERSHIP_SET. -/
def Cmd.treeEntry (c : Cmd) (i : Nat) : TreeEntry :=
  { device := BitVec.ofNat 32 (c.p (0x10 + 16 * i) 4), parent := BitVec.ofNat 32 (c.p (0x14 + 16 * i) 4), deputy := c.p (0x18 + 16 * i) 1 }

/-- Levels from a device down from the root; none when its chain is broken or cyclic. -/
def levelIn (ms : List TreeEntry) : Nat → U32 → Option Nat
  | 0, _ => none
  | n + 1, d =>
    match ms.find? fun e => e.device == d with
    | none => none
    | some e => if e.parent = d then some 0 else (levelIn ms n e.parent).map (· + 1)

/-- Whether a member table breaks R238, but for the epoch. -/
def State.tableBad (s : State) (ms : List TreeEntry) : Bool :=
  let ds := ms.map (·.device)
  let roots := ms.filter fun e => e.parent == e.device
  let deps := ms.filter fun e => e.deputy != 0
  ds.dedup.length != ds.length || !ds.contains s.ident.device || roots.length != 1 ||
    (ms.any fun e => (levelIn ms 16 e.device).all fun n => decide (n > 14)) ||
    (deps.any fun e => decide (e.deputy > 3) || !(roots.any fun r => r.device == e.parent) || e.parent == e.device) ||
    (deps.map (·.deputy)).dedup.length != deps.length ||
    (ds.any fun d => d != s.ident.device && !(s.fabric.routes.any fun r => r.device == d))

/-- MEMBERSHIP_SET (R238). -/
def doMembershipSet (r : CmdRef) (c : Cmd) (s : State) : State :=
  let b := s.job c.job
  let epoch := c.p 0 8
  let n := c.p 8 4
  let fits := decide (n ≤ 16384) && decide (16 + 16 * n ≤ c.params.length)
  let ms := if fits then (List.range n).map c.treeEntry else []
  let old := decide (epoch ≤ b.memberEpoch)
  s.checked r [(n == 0, stZero, 8), (!fits, stBadParam, 8), c.reserved 0xC 4,
      ((List.range (if fits then n else 0)).any fun i => c.p (0x19 + 16 * i) 7 != 0, stBadParam, 0x19),
      (s.tableBad ms, stBadParam, 0x10), (b.member.isSome && old, stBadParam, 0), c.beyond (16 + 16 * n), b.stateCheck 0x0311] fun s =>
    ((s.setJob c.job fun b => { b with member := some { epoch := epoch, members := ms } }).touchShadow).reply r stOk 0 0

/-- MEMBERSHIP_SET. -/
def execMembershipSet (r : CmdRef) (s : State) : Host.Outcome State Fault Refusal := s.become (cmdRow r 0x0311 (.membershipSet r) (doMembershipSet r) s)

/-- Removals that the host asks for join the gather window of the coordinator (R245, R254). -/
def State.askRemoval (s : State) (j : Nat) (ds : List U32) : State :=
  s.setMember j fun m => { m with gather := (m.gather ++ ds).dedup, gathering := true }

/-- MEMBERSHIP_REMOVE (R254). -/
def doMembershipRemove (r : CmdRef) (c : Cmd) (s : State) : State :=
  let j := c.job
  let b := s.job j
  let n := c.p 0 4
  let fits := decide (4 + 4 * n ≤ c.params.length) || n == 0
  let ds := (if fits then (List.range n).map fun i => BitVec.ofNat 32 (c.p (4 + 4 * i) 4) else []).dedup
  let ms := match b.member with
    | some m => m.members
    | none => []
  let off := ((List.range ds.length).find? fun i => !(ms.any fun e => e.device == ds.getD i 0)).getD 0
  s.checked r [(!fits, stBadParam, 0), (ds.any fun d => !(ms.any fun e => e.device == d), stBadParam, 4 + 4 * off),
      (n != 0 && ms.all fun e => ds.contains e.device, stBadParam, 0), c.beyond (4 + 4 * n), b.stateCheck 0x0312] fun s =>
    if n = 0 then s.reply r stOk 0 0
    else
      let s := s.setMember j fun m => { m with removals := m.removals ++ [(r, ds)] }
      if s.isRoot j then s.askRemoval j ds
      else match (s.job j).member.bind (·.root) with
        | some d => s.control j d 0x0D (ds.map (·.toNat))
        | none => s

/-- MEMBERSHIP_REMOVE. -/
def execMembershipRemove (r : CmdRef) (s : State) : Host.Outcome State Fault Refusal :=
  s.become (cmdRow r 0x0312 (.membershipRemove r) (doMembershipRemove r) s)

/-- The membership status record (R270). -/
def State.memberRecord (s : State) (j : Nat) : Bytes :=
  match (s.job j).member with
  | none => layRecord 32 []
  | some m =>
    let flags := (if m.root = some s.ident.device then 1 else 0) + (if m.proposal.isSome then 2 else 0)
    let head := layRecord 32 [(0, 8, m.epoch), (8, 4, (m.root.getD 0).toNat), (0xC, 4, m.members.length), (0x10, 1, m.state), (0x11, 1, flags),
      (0x14, 4, m.abandoned), (0x18, 8, m.turned)]
    head ++ (m.members.map fun e =>
      let i := (m.infos.find? fun i => i.device == e.device).getD { device := e.device }
      let own := e.device == s.ident.device
      let score := if own then s.health.score else i.patina.getD 0xFFFF
      let f := (if i.suspected then 1 else 0) + (if i.worn || (own && s.health.worn) then 2 else 0) +
        (if i.retire || (own && s.health.retire) then 4 else 0) + (if i.blocked then 8 else 0)
      layRecord 16 [(0, 4, e.device.toNat), (4, 4, e.parent.toNat), (8, 2, score), (0xA, 1, f), (0xB, 1, e.deputy)]).flatten

/-- MEMBERSHIP_STATUS (R270, R431). -/
def doMembershipStatus (r : CmdRef) (c : Cmd) (s : State) : State :=
  let rec_ := s.memberRecord c.job
  let a := c.p 0 8
  s.checked r [(!s.farOk a rec_.length, stBadParam, rec_.length), c.beyond 8, (s.job c.job).stateCheck 0x0313] fun s => s.giveRecord r a rec_ 0 0

/-- MEMBERSHIP_STATUS. -/
def execMembershipStatus (r : CmdRef) (s : State) : Host.Outcome State Fault Refusal :=
  s.become (cmdRow r 0x0313 (.membershipStatus r) (doMembershipStatus r) s)

end Sys2Proof.Machine
end

