-- ==== Sys2Proof/Machine/Inclusion.lean ====
section
/-! DEFINITION. Step deadlines and inclusion (R256 to R267): readiness up the job tree, the coordinator's decisions, replay, and
what INCLUDE does to leaves, ledger and deferral reserve. -/

namespace Sys2Proof.Machine

/-! ## Readiness (R257, R258) -/

/-- Whether a contributor's part here is ready for a step: CREADY executed, and no term of the step waits to be sent. -/
def Job.partReady (b : Job) (step v : Nat) : Bool :=
  b.strag.ready.contains (step, v) &&
    !(b.colls.any fun c => isGradient c.decl && c.active.any fun i => i.step == step && !i.outbox.isEmpty)

/-- Contributors with a part here that is not ready. -/
def Job.ownMissing (b : Job) (dev : U32) (step : Nat) : List Nat := (b.contributors dev).filter fun v => !b.partReady step v

/-- Ranges as lists of virtual indices: first and last. -/
def expandRanges (rs : List (Nat × Nat)) : List Nat := rs.flatMap fun r => (List.range (r.2 + 1 - r.1)).map fun i => r.1 + i

/-- Virtual indices as ranges, ascending. -/
def toRanges (vs : List Nat) : List (Nat × Nat) :=
  (vs.insertionSort (· ≤ ·)).foldl (fun acc v => match acc.reverse with
    | (a, b) :: r => if v ≤ b then acc else if v = b + 1 then (r.reverse ++ [(a, v)]) else acc ++ [(v, v)]
    | [] => [(v, v)]) []

/-- Devices in a subtree of the job tree, by levels. -/
def subtree (ms : List TreeEntry) : Nat → List U32 → List U32
  | 0, ds => ds
  | n + 1, ds => ds ++ subtree ms n (ds.flatMap (childrenIn ms))

/-- Contributors reported not ready in the subtrees of the children, every part of a silent child's subtree among them (R258). -/
def Job.childMissing (b : Job) (dev : U32) (step : Nat) : List Nat :=
  match b.member with
  | none => []
  | some m => (m.children dev).flatMap fun d =>
    match b.strag.reports.find? fun r => r.1 == d && r.2.1 == step with
    | some r => expandRanges r.2.2
    | none => b.contributorsOf (subtree m.members 14 [d])

/-- Every child has reported for a step. -/
def Job.childrenDone (b : Job) (dev : U32) (step : Nat) : Bool :=
  match b.member with
  | none => true
  | some m => (m.children dev).all fun d => b.strag.reports.any fun r => r.1 == d && r.2.1 == step

/-- READY sent to the parent once per step: when every part of the subtree is ready, or at the deadline (R258); at most 500 ranges
to a message. -/
def State.sendReady (s : State) (j : Nat) (deadline : Bool) : State :=
  let b := s.job j
  let me := s.ident.device
  let step := b.train.judged
  match b.member.bind fun m => m.parent me with
  | none => s
  | some d =>
    let missing := (b.ownMissing me step ++ b.childMissing me step).dedup
    if b.strag.sentReady = some step ∨ !(deadline || (b.childrenDone me step && missing.isEmpty)) then s
    else
      let rs := toRanges missing
      let parts := (List.range (max 1 (ceilDiv rs.length 500))).map fun k => (rs.drop (500 * k)).take 500
      let s := parts.foldl (fun s rs => s.control j d 9 ([step, rs.length] ++ rs.flatMap fun r => [r.1, r.2])) s
      s.setStrag j fun x => { x with sentReady := some step }

/-- CREADY (R257). -/
def doCready (t : TaskRef) (v : Nat) (s0 : State) : State :=
  match s0.issue t with
  | none => s0
  | some (_, s) =>
    let step := (s.job t.job).train.step
    if v ≥ (s.job t.job).width then s0
    else (s.setStrag t.job fun x => { x with ready := if x.ready.contains (step, v) then x.ready else x.ready ++ [(step, v)] }).sendReady
      t.job false

/-- CREADY. -/
def execCready (t : TaskRef) (contributor : Nat) (s : State) : Host.Outcome State Fault Refusal := s.become (doCready t contributor s)

/-- READY from a child (R258); a further message of the same child and step continues its list. -/
def doReady (p : Nat) (m : Msg) (step : Nat) (notReady : List (Nat × Nat)) (s : State) : State :=
  controlRow p m 9 (fun j s =>
    if step ≠ (s.job j).train.judged then s
    else
      let d := m.hdr.source
      let old := match (s.job j).strag.reports.find? fun r => r.1 == d && r.2.1 == step with
        | some r => r.2.2
        | none => []
      (s.setStrag j fun x => { x with
        reports := (x.reports.filter fun r => r.1 != d && r.2.1 == step) ++ [(d, step, old ++ notReady)] }).sendReady j false) s

/-- READY. -/
def execReady (port : Nat) (m : Msg) (step : Nat) (notReady : List (Nat × Nat)) (s : State) : Host.Outcome State Fault Refusal :=
  s.become (doReady port m step notReady s)

/-- READY_DEADLINE (R258): the deadline of the step plus 100 µs × height has passed on this module. -/
def execReadyDeadline (job : Nat) (s : State) : Host.Outcome State Fault Refusal := s.become (s.sendReady job true)

/-! ## Decisions (R258, R259, R264, R267) -/

/-- Contributors late at a step, as the coordinator knows them. -/
def Job.lateAt (b : Job) (dev : U32) (step : Nat) : List Nat :=
  (((b.ownMissing dev step ++ b.childMissing dev step).dedup).filter fun v => !b.strag.removed.contains v).insertionSort (· ≤ ·)

/-- The code of a late contribution under the policy (R259). -/
def lateCode (policy : Nat) : Nat := if policy = 1 then 1 else if policy = 2 then 3 else 8

/-- Whether the deferred rows of a contributor that this module holds are all in the reserve. -/
def Job.keptHere (b : Job) (dev : U32) (v origin : Nat) : Bool :=
  !(b.contributors dev).contains v || b.strag.kept.any fun k => k.2.2.1 == v && k.2.2.2.2.2 == origin

/-- Whether admitting a deferred contribution would lose bits in the rows held here (R163). -/
def State.keptLoses (s : State) (j v step : Nat) : Bool :=
  let b := s.job j
  match b.reserveAddr with
  | none => false
  | some a => b.strag.kept.any fun k =>
    k.2.2.1 == v && k.2.2.2.2.2 + 1 == step && (match b.colls.find? fun c => c.decl.num == k.1 with
      | some c =>
        let f := sendFmt c.decl
        scaleLoses f (b.train.lossOf step - b.train.lossOf (step - 1)) (elemsOf f (s.mem.read (a + k.2.2.2.1) k.2.2.2.2.1) (k.2.2.2.2.1 / f.size))
      | none => false)

/-- The decision on a contribution deferred from the step before (R259): what this module finds, and what other modules have
reported in `told`. -/
def State.deferredCode (s : State) (j step : Nat) (told : List Decision) (d : Decision) : Nat :=
  let b := s.job j
  let t : Option Nat := (told.find? fun x => x.contributor == d.contributor && x.origin == d.origin).map (·.code)
  if b.strag.removed.contains d.contributor then 9
  else if b.strag.nonFinite.contains (d.origin, d.contributor) ∨ t = some 4 then 4
  else if !b.keptHere s.ident.device d.contributor d.origin ∨ t = some 7 then 7
  else if s.keptLoses j d.contributor step || t == some 6 then 6
  else 2

/-- The coordinator's decisions, in ascending origin and contributor (R258, R259, R263). -/
def State.decide_ (s : State) (j step : Nat) (told : List Decision) : List Decision :=
  let b := s.job j
  let old := (b.strag.deferred.filter fun d => d.origin + 1 == step).map fun (d : Decision) =>
    ({ contributor := d.contributor, code := s.deferredCode j step told d, origin := d.origin } : Decision)
  let gone := b.strag.removed.insertionSort (· ≤ ·) |>.map fun v => ({ contributor := v, code := 9, origin := step } : Decision)
  let late := (b.lateAt s.ident.device step).map fun v => ({ contributor := v, code := lateCode b.policy, origin := step } : Decision)
  old.insertionSort (fun x y => x.contributor ≤ y.contributor) ++ (gone ++ late).insertionSort fun x y => x.contributor ≤ y.contributor

/-- The included count n (R159, R259). -/
def includedBy (v step : Nat) (ds : List Decision) : Nat :=
  v - (ds.filter fun d => excludes d.code && d.origin == step).length + (ds.filter fun d => d.code == 2).length

/-- What the replay list holds for a step (R267): its decisions and the bytes read, or none when it does not parse. -/
def replayStep (b : Bytes) (left v step : Nat) : Option (List Decision × Nat) :=
  if left < 16 ∨ b.length < 16 then some ([], 0)
  else
    let n := fieldN b 0 4
    let origin := fieldN b 8 8
    if fieldN b 4 1 ≠ 0xFF ∨ origin < step ∨ fieldN b 5 3 ≠ 0 then none
    else if origin ≠ step then some ([], 0)
    else if 16 + 16 * n > left ∨ 16 + 16 * n > b.length then none
    else
      let ds := (List.range n).map fun i =>
        ({ contributor := fieldN b (16 + 16 * i) 4, code := fieldN b (20 + 16 * i) 1, origin := fieldN b (24 + 16 * i) 8 } : Decision)
      let ok := (List.range n).all fun i => fieldN b (21 + 16 * i) 3 == 0
      if ok && ds.all fun d => decide (d.contributor < v) && decide (1 ≤ d.code) && decide (d.code ≤ 9) && (d.origin == step || d.origin + 1 == step)
      then some (ds, 16 + 16 * n) else none

/-! ## What INCLUDE does -/

/-- A GRADIENT instance takes up INCLUDE of its step: deferred rows to the reserve, replacement terms (R260, R262). -/
def State.includeInst (s : State) (j n num : Nat) : State :=
  match s.inst j n num with
  | none => s
  | some (c, i) =>
    match memberIndex c.decl s.ident.device with
    | none => s
    | some me =>
      match c.decl.members[me]? with
      | none => s
      | some m =>
        if i.rows = 0 ∨ !isGradient c.decl then s
        else match s.readDev j i.prov i.src (srcBytes c.decl me i.rows []) with
          | .ok src s => ((s.keepRows j n c i m src).giveTerms j n c i me m src true).collProgress j n num
          | .wait => s
          | g => s.collFail j g

/-- INCLUDE taken: the decisions are kept for leaves and ledger, and every instance of the step goes on (R259, R260, R263). -/
def State.takeInclude (s : State) (j step n : Nat) (ds : List Decision) : State :=
  let s := s.setStrag j fun x => { x with included := some (step, n, ds), ledger := ds }
  (s.job j).colls.foldl (fun s c => (c.active.filter fun i => i.step == step).foldl (fun s i => s.includeInst j c.decl.num i.number) s) s

/-- The words of INCLUDE's body (log entry 17). -/
def includeBody (step n : Nat) (ds : List Decision) : List Nat := [step, n, ds.length] ++ ds.flatMap fun d => [d.contributor, d.code, d.origin]

/-- Whether this module decides for a job: it is the coordinator, or the job has no membership. -/
def State.decides (s : State) (j : Nat) : Bool := (s.job j).member.isNone || s.isRoot j

/-- INCLUDE (R258 to R267): the coordinator decides and sends it down the tree; another member takes and forwards it. -/
def doInclusion (j step n : Nat) (given : List Decision) (replayBytes : Bytes) (s : State) : State :=
  let b := s.job j
  if j ≥ 64 ∨ !b.loaded ∨ b.state = 7 ∨ step ≠ b.train.judged ∨ (b.strag.knows step).isSome then s
  else if !s.decides j then (s.toChildren j 0xA (includeBody step n given)).takeInclude j step n given
  else if !b.replay then
    let ds := s.decide_ j step given
    let n := includedBy b.width step ds
    (s.toChildren j 0xA (includeBody step n ds)).takeInclude j step n ds
  else
    match replayStep replayBytes (fieldN (b.block 2) 0x10 8 - b.strag.replayPos) b.width step with
    | none => s.faultStop j stBadParam true
    | some (ds, k) =>
      let s := s.setStrag j fun x => { x with replayPos := x.replayPos + k }
      let named := fun (v : Nat) => ds.any fun d => d.contributor == v && excludes d.code && d.origin == step
      if (b.lateAt s.ident.device step).any fun v => !named v then s.faultStop j stDiverged true
      else
        let n := includedBy b.width step ds
        (s.toChildren j 0xA (includeBody step n ds)).takeInclude j step n ds

/-- INCLUDE. -/
def execInclusion (job step n : Nat) (decisions : List Decision) (replayBytes : Bytes) (s : State) : Host.Outcome State Fault Refusal :=
  s.become (doInclusion job step n decisions replayBytes s)

end Sys2Proof.Machine
end

