-- ==== Sys2Proof/Machine/Reshard.lean ====
section
/-! DEFINITION. RESHARD (R231 to R236): its checks, readiness, rounds of moves through the PERMUTE context, the new tables and program;
and the DATA messages of collectives (R221, R226). A plan's encoding belongs to the Denzer documentation: the command carries it in
structured form (log entry 32). -/

namespace Sys2Proof.Machine

/-! ## Checks (R232, R234) -/

/-- Whether a move's conversions are allowed (R30, R234): the sender narrows on the store path, the receiver takes an identity or an exact
widening. -/
def ReshardMoveOk (m : ReshardMove) : Bool :=
  match Fmt.ofCode m.srcFormat.toNat, Fmt.ofCode m.travelFormat.toNat, Fmt.ofCode m.dstFormat.toNat with
  | some a, some t, some d =>
    (convKind a d).isSome && (convKind a t == some .identity || (convKind a t != some .widen && convMarked .store a t)) &&
      (convKind t d == some .identity || convKind t d == some .widen)
  | _, _, _ => false

/-- Format of a code; RAW for a code that is none. -/
def fmtOf (c : Byte) : Fmt := (Fmt.ofCode c.toNat).getD .raw

/-- Bytes that a move brings onto this module. -/
def moveBytes (dev : U32) (m : ReshardMove) : Nat :=
  if m.peer = dev ∨ m.incoming then (fmtOf m.travelFormat).bytesOf m.elements
  else if m.srcFormat = m.travelFormat then 0 else (fmtOf m.travelFormat).bytesOf m.elements

/-- Bytes of the scratch reserve; none when the binary declares none. -/
def Job.scratchBytes (b : Job) : Option Nat := (b.grants.find? fun g => g.decl.role == .reshard).map fun g => g.decl.bytes

/-- The PERMUTE context of a job. -/
def Job.permute (b : Job) : Option Coll := b.colls.find? fun c => c.decl.op == 6

/-- A plan's collective that changes what must stay (R232). -/
def collChanged (b : Job) (d : CollDecl) : Bool :=
  match b.colls.find? fun c => c.decl.num == d.num with
  | none => true
  | some c => c.decl.op != 6 && (c.decl.op != d.op || c.decl.flags != d.flags || c.decl.sendFormat != d.sendFormat ||
      c.decl.recvFormat != d.recvFormat || c.decl.width != d.width)

/-- A plan that R232 refuses with BAD_PARAM on this module. -/
def Job.planBad (b : Job) (dev : U32) (x : Plan) : Bool :=
  b.scratchBytes.isNone || b.permute.isNone || x.oldLayout != b.layout || x.virtualWidth != b.width || x.collectives.any (collChanged b) ||
    (x.shards.any fun r => !(b.grants.any fun g => g.decl.number == r.1 && decide (r.2 ≤ g.decl.blocks * blockBytes))) ||
    (x.rounds.any fun ms => decide ((ms.foldl (fun n m => n + moveBytes dev m) 0) > b.scratchBytes.getD 0)) ||
    x.rounds.any fun ms => ms.any fun m => !ReshardMoveOk m

/-! ## Moves (R233, R234) -/

/-- Bytes converted from one format to another. -/
def convBytes (f t : Fmt) (b : Bytes) (n : Nat) : Bytes :=
  if f = t then b.take (f.bytesOf n) else packElems t ((elemsOf f b n).map (convElem f t .plain))

/-- A move's bytes as they travel; none at an uncorrectable word. -/
def State.moveRead (s : State) (j : Nat) (m : ReshardMove) : Option Bytes :=
  let f := fmtOf m.srcFormat
  let n := f.bytesOf m.elements
  if s.mem.bad m.src n then none else some (convBytes f (fmtOf m.travelFormat) (s.committedBytes j m.src n) m.elements)

/-- Bytes of a move, or of one 4,096-byte block of it, written at their place. -/
def State.moveWrite (s : State) (j : Nat) (m : ReshardMove) (block : Nat) (b : Bytes) : State :=
  let t := fmtOf m.travelFormat
  let d := fmtOf m.dstFormat
  let n := if t.width = 0 then b.length else b.length * 8 / t.width
  s.layCommitted j (m.dst + d.bytesOf (if t.width = 0 then 4096 * block else 4096 * block * 8 / t.width)) (convBytes t d b n)

/-- Moves of a plan between this module and a peer in one direction, in the plan's order: round and move. -/
def planBetween (x : Plan) (peer : U32) (incoming : Bool) : List (Nat × ReshardMove) :=
  (((List.range x.rounds.length).zip x.rounds).flatMap fun r => r.2.map fun m => (r.1, m)).filter fun m =>
    m.2.peer == peer && m.2.incoming == incoming

/-- Other modules of the old and the new layout. -/
def planOthers (x : Plan) (dev : U32) : List U32 := ((x.oldMembers ++ x.newMembers.map (·.device)).dedup).filter fun d => d != dev

/-- RESHARD ends part-way here, and the other modules are told (R235). -/
def State.reshardFail (s : State) (j status : Nat) : State :=
  match (s.job j).reshard with
  | none => s
  | some x => ((planOthers x.plan s.ident.device).foldl (fun s d => s.control j d 0x10 []) s).reshardLost j status

/-- An outgoing move sent as DATA of the PERMUTE context: its index is its number among the moves to that peer (log entry 37). -/
def State.moveSend (s : State) (j num : Nat) (peer : U32) (index : Nat) (b : Bytes) : State :=
  ((payloadBlocks b).mapIdx fun k x => (k, x)).foldl (fun s x =>
    let h := headerOf s peer 0x10 j 0 (num * 2 ^ 58 + 2 ^ 56 + index * 2 ^ 24 + x.1) x.2.length
    match s.send 2 { hdr := h, content := x.2, bad := [] } with
    | some (_, s) => s
    | none => s) s

/-- Blocks of a move. -/
def moveBlocks (m : ReshardMove) : Nat := ceilDiv ((fmtOf m.travelFormat).bytesOf m.elements) 4096

/-- The new tables, program and layout installed (R233). -/
def State.reshardInstall (s : State) (j : Nat) : State :=
  match (s.job j).reshard with
  | none => s
  | some x =>
    s.setJob j fun b => { b with
      layout := x.plan.newLayout
      colls := b.colls.map fun (c : Coll) => match x.plan.collectives.find? fun d => d.num == c.decl.num && c.decl.op != 6 with
        | some d => { c with decl := d }
        | none => c
      tasks := if x.plan.tasks.length = b.tasks.length then List.zipWith (fun (k : Task) d => { k with decl := d }) b.tasks x.plan.tasks else b.tasks
      grants := b.grants.map fun (g : Grant) => match x.plan.shards.find? fun r => r.1 == g.decl.number with
        | some r => { g with decl := { g.decl with bytes := r.2 } }
        | none => g
      reshard := some { x with stage := 4 } }

/-- A RESHARD whose data is in place answers, or waits for its turn (R233). -/
def State.reshardFinish (s : State) (j : Nat) : State :=
  let s := s.reshardInstall j
  match (s.job j).reshard with
  | none => s
  | some x =>
    if x.epoch = 0 ∨ (s.job j).memberEpoch = x.epoch then (s.setJob j fun b => { b with reshard := none }).reply x.cmd stOk 0 0 else s

/-- Rounds from the present one on, as far as none waits for data (R233); fuel at least the rounds left. -/
def State.reshardRounds : Nat → State → Nat → State
  | 0, s, _ => s
  | fuel + 1, s, j =>
    match (s.job j).reshard, (s.job j).permute with
    | some x, some c =>
      match x.plan.rounds[x.round]? with
      | none => s.reshardFinish j
      | some ms =>
        let me := s.ident.device
        let mine := ms.filter fun m => m.peer == me || !m.incoming
        let got := mine.map fun m => (m, s.moveRead j m)
        if got.any fun g => g.2.isNone then s.reshardFail j stUncorrectable
        else
          let index := fun (m : ReshardMove) =>
            ((planBetween x.plan m.peer false).findIdx? fun y => y.1 == x.round && y.2 == m).getD 0
          let s := got.foldl (fun s g => if g.1.peer = me then s else s.moveSend j c.decl.num g.1.peer (index g.1) (g.2.getD [])) s
          let s := got.foldl (fun s g => if g.1.peer = me then s.moveWrite j g.1 0 (g.2.getD []) else s) s
          let wait := (ms.filter fun m => m.peer != me && m.incoming).foldl (fun n m => n + moveBlocks m) 0
          let s := s.setJob j fun b => { b with reshard := b.reshard.map fun (y : Reshard) => { y with toArrive := wait } }
          if wait > 0 then s
          else State.reshardRounds fuel (s.setJob j fun b => { b with reshard := b.reshard.map fun (y : Reshard) => { y with round := y.round + 1 } }) j
    | _, _ => s

/-- The end of a round: the next one begins. -/
def State.reshardNext (s : State) (j : Nat) : State :=
  match (s.job j).reshard with
  | none => s
  | some x => State.reshardRounds (x.plan.rounds.length + 1)
      (s.setJob j fun b => { b with reshard := some { x with round := x.round + 1, toArrive := 0 } }) j

/-- A DATA message of the PERMUTE context (R226, R233): it lands when its round is under way here and waits before that. -/
def State.permuteData (s : State) (p : Nat) (m : Msg) : State :=
  let j := m.hdr.job
  let n := collNumber m.hdr
  match (s.job j).reshard with
  | none => s.protocolError p j m.hdr
  | some x =>
    match (planBetween x.plan m.hdr.source true)[bitsOf m.hdr.address.toNat 24 32]? with
    | none => s.protocolError p j m.hdr
    | some (round, mv) =>
      if x.stage = 1 ∨ x.round < round then s.setColl j n fun c => { c with early := c.early ++ [(p, m)] }
      else if !m.bad.isEmpty then s.reshardFail j stUncorrectable
      else
        let s := s.moveWrite j mv (bitsOf m.hdr.address.toNat 0 24) m.content
        let s := s.setJob j fun b => { b with reshard := some { x with toArrive := x.toArrive - 1 } }
        if x.toArrive ≤ 1 then s.reshardNext j else s

/-- Messages that came before their round tried again, while rounds go on; fuel at least the messages. -/
def State.permuteAgain : Nat → State → Nat → State
  | 0, s, _ => s
  | n + 1, s, j =>
    match (s.job j).permute with
    | none => s
    | some c => State.permuteAgain n (c.early.foldl (fun s x => s.permuteData x.1 x.2) (s.setColl j c.decl.num fun c => { c with early := [] })) j

/-- Messages that came before their round tried again. -/
def State.permuteRetry (s : State) (j : Nat) : State := State.permuteAgain (((s.job j).permute.map (·.early.length)).getD 0 + 1) s j

/-- Every module is ready: the moves begin (R233). -/
def State.reshardProgress (s : State) (j : Nat) : State :=
  match (s.job j).reshard with
  | none => s
  | some x =>
    if x.stage = 1 ∧ (planOthers x.plan s.ident.device).all fun d => x.readyFrom.contains d then
      let s := s.setJob j fun b => { b with reshard := some { x with
        stage := 2, round := 0, oldColls := b.colls.map (·.decl), oldTasks := b.tasks.map (·.decl), oldBytes := b.grants.map fun g => g.decl.bytes } }
      (State.reshardRounds (x.plan.rounds.length + 1) s j).permuteRetry j
    else s

/-- Readiness of a module (R233): the sender of a report not heard before is told of this module's own. -/
def State.reshardReadyFrom (s : State) (j : Nat) (dev : U32) : State :=
  match (s.job j).reshard with
  | none => s
  | some x =>
    if x.readyFrom.contains dev then s
    else
      let s := s.setJob j fun b => { b with reshard := some { x with readyFrom := x.readyFrom ++ [dev] } }
      (s.control j dev 0xF [s.ident.device.toNat]).reshardProgress j

/-! ## The rows -/

/-- RESHARD (R231 to R235). -/
def doReshard (r : CmdRef) (plan : Plan) (c : Cmd) (s : State) : State :=
  let j := c.job
  let b := s.job j
  let epoch := c.p 0x10 8
  let here := c.p 8 8 == 0 || b.inWindow (c.p 0 8) (c.p 8 8) ||
    (match b.grantAt (c.p 0 8) with
      | some g => decide (c.p 0 8 + c.p 8 8 ≤ g.addr + g.decl.blocks * blockBytes)
      | none => false)
  let empty := c.p 8 8 == 0
  s.checked r [(!here || (!empty && b.planBad s.ident.device plan), stBadParam, 0),
      (!empty && ((b.member.isSome && decide (epoch > b.memberEpoch + 1)) || (epoch == 0 && plan.membersChange)), stBadParam, 0x10),
      c.reserved 0x18 8, c.beyond 32, b.stateCheck 0x0310,
      (!empty && b.member.isSome && epoch != 0 && decide (epoch ≤ b.memberEpoch), stStale, 0)] fun s =>
    if empty then s.reply r stOk 0 0
    else
      let s := s.setJob j fun b => { b with reshard := some { cmd := r, plan := plan, epoch := epoch } }
      ((planOthers plan s.ident.device).foldl (fun s d => s.control j d 0xF [s.ident.device.toNat]) s).reshardProgress j

/-- RESHARD. -/
def execReshard (r : CmdRef) (plan : Plan) (s : State) : Host.Outcome State Fault Refusal :=
  s.become (cmdRow r 0x0310 (.reshard r plan) (doReshard r plan) s)

/-- DATA (R221, R226, R233): of a collective in progress, or of RESHARD's PERMUTE context. -/
def doData (p : Nat) (m : Msg) (s : State) : State :=
  let perm := decide (m.hdr.job < 64) && (s.job m.hdr.job).permute.any fun c => c.decl.num == collNumber m.hdr
  if !perm then collRow p m 1 s
  else if !s.arrived p m 0x10 ∨ collKind m.hdr ≠ 1 then s
  else
    let s := s.takeRx p m
    if !s.inDeviceSet m.hdr.source then s.wardDrop p else (s.permuteData p m).permuteRetry m.hdr.job

/-- DATA. -/
def execData (port : Nat) (m : Msg) (s : State) : Host.Outcome State Fault Refusal := s.become (doData port m s)

end Sys2Proof.Machine
end

