-- ==== Sys2Proof/Machine/Verdict.lean ====
section
/-! DEFINITION. The verdict of a step (R153 to R163, R169, R170, R173 to R180, R224, R264, R265, R269, R328), the comparison of
fingerprints (R361 to R364) and GROUP_SET (R172). -/

namespace Sys2Proof.Machine

/-! ## Combination (R160, R161, R174 to R176) -/

/-- The contributions of their own step that a step includes (R159, R259). -/
def Job.includes (b : Job) (step v : Nat) : Bool :=
  match b.strag.knows step with
  | some ds => !(ds.any fun d => d.contributor == v && excludes d.code && d.origin == step) && !b.strag.removed.contains v
  | none => !b.strag.removed.contains v

/-- The code of R160. -/
def verdictCode (nonFinite short : Bool) : Nat :=
  match nonFinite, short with
  | false, false => 1
  | true, false => 2
  | false, true => 3
  | true, true => 4

/-- Square accumulators by virtual index with those found here added. -/
def mergeSq (xs : List (Nat × SquareAcc)) (v : Nat) (a : SquareAcc) : List (Nat × SquareAcc) :=
  if xs.any fun x => x.1 == v then xs.map fun x => if x.1 = v then (v, sqPlus x.2 a) else x else xs ++ [(v, a)]

/-- Values of fingerprint slots added slot by slot (R362). -/
def addPrints (n : Nat) (xs : List U64) (own : List (Nat × U64)) : List U64 :=
  (List.range n).map fun i => (own.filter fun y => y.1 == i).foldl (fun a y => a + y.2) (xs.getD i 0)

/-- Fingerprint slots of a job (R362). -/
def Job.prints (b : Job) : List Nat := (b.bin.map (·.fpClasses)).getD []

/-- A verdict as it is applied: at the module that decides, the operand's parts of the other modules with its own; elsewhere as it
came (R160, R161). -/
def State.combined (s : State) (j : Nat) (v : VerdictMsg) : VerdictMsg :=
  let b := s.job j
  if !s.decides j then v
  else
    let own := (b.strag.nonFinite.filter fun x => x.1 == v.step).map (·.2)
    let bad := (own ++ v.nonFinite).dedup
    { v with
      code := verdictCode (bad.any fun c => b.includes v.step c) (decide (b.includedCount v.step < b.quorum))
      nonFinite := bad
      contribSq := (b.strag.scanned.filter fun x => x.1 == v.step).foldl (fun xs x => mergeSq xs x.2.1 x.2.2) v.contribSq
      globalSq := sqPlus v.globalSq b.strag.reducedSq
      groupSq := b.train.sumsDone.foldl (fun xs x => addSums xs x.1 x.2.1 x.2.2) v.groupSq
      fingerprints := addPrints b.prints.length v.fingerprints b.train.fingerprintsDone }

/-- The 640 bits of an accumulator and its NON_FINITE bit as words. -/
def sqWords (a : SquareAcc) : List Nat := ((List.range 10).map fun i => a.sum / 2 ^ (64 * i) % 2 ^ 64) ++ [if a.nonFinite then 1 else 0]

/-- The words of VERDICT's body (log entry 17). -/
def verdictBody (v : VerdictMsg) : List Nat :=
  [v.step, v.code, v.nonFinite.length, v.contribSq.length, v.groupSq.length, v.fingerprints.length] ++ v.nonFinite ++
    (v.contribSq.flatMap fun x => x.1 :: sqWords x.2) ++ sqWords v.globalSq ++ (v.groupSq.flatMap fun x => x.1 :: (sqWords x.2.1 ++ sqWords x.2.2)) ++
    (v.fingerprints.map (·.toNat)) ++ (match v.repeated with
      | some xs => xs.map (·.toNat)
      | none => [])

/-! ## Fingerprints (R361 to R364) -/

/-- Values that slots of a class hold. -/
def classValues (classes : List Nat) (values : List U64) (c : Nat) : List U64 :=
  ((classes.zip values).filter fun x => x.1 == c).map (·.2)

/-- Classes whose slots differ, ascending. -/
def differing (classes : List Nat) (values : List U64) : List Nat :=
  (classes.dedup.insertionSort (· ≤ ·)).filter fun c => !((classValues classes values c).dedup.length ≤ 1)

/-- The majority value of a class. -/
def majorityOf (vs : List U64) : Option U64 := vs.dedup.find? fun x => decide (2 * (vs.filter fun y => y == x).length > vs.length)

/-- Slots of the differing classes that hold no majority value. -/
def minoritySlots (classes : List Nat) (values : List U64) : List Nat :=
  (List.range classes.length).filter fun i =>
    let c := classes.getD i 0
    (differing classes values).contains c && majorityOf (classValues classes values c) != some (values.getD i 0)

/-- Slots that tasks of this module feed. -/
def Job.ownSlots (b : Job) : List Nat := (b.tasks.filterMap fun k => k.decl.fpSlot).dedup

/-- A slot's committed masters here, read back and hashed again (R364). -/
def State.rehash (s : State) (j slot : Nat) : U64 :=
  let b := s.job j
  ((b.tasks.filter fun k => k.decl.fpSlot == some slot).flatMap fun k => k.decl.fpRegions).dedup.foldl (fun h r =>
    match b.grants.find? fun g => g.decl.number == r.1 with
    | none => h
    | some g => h + fingerprintFrom r.2 (wordsOf (s.committedBytes j g.addr g.decl.bytes))) 0

/-- What the comparison of R363 and R364 says. -/
inductive PrintCase where
  /-- every class agrees, or there is nothing to compare -/
  | agree
  /-- classes differ and the repeat has not been combined: how many differ -/
  | wait (classes : Nat)
  /-- the repeat found agreement: slots repeated -/
  | hashing (slots : List Nat)
  /-- the job diverged: classes that differ after the repeat, slots that are at fault -/
  | diverged (classes slots : List Nat)
  deriving DecidableEq, Repr

/-- The comparison of a combined verdict (R363, R364). -/
def State.printCase (s : State) (j : Nat) (v : VerdictMsg) : PrintCase :=
  let b := s.job j
  let classes := b.prints
  if b.train.ratioStep.isNone ∨ (differing classes v.fingerprints).isEmpty then .agree
  else match v.repeated with
    | none => .wait (differing classes v.fingerprints).length
    | some vals =>
      let slots := minoritySlots classes v.fingerprints
      let own := fun (i : Nat) => if s.decides j && b.ownSlots.contains i then s.rehash j i else 0
      let again := (List.range classes.length).map fun i => if slots.contains i then vals.getD i 0 + own i else v.fingerprints.getD i 0
      let bad := differing classes again
      if bad.isEmpty then .hashing slots
      else .diverged bad (minoritySlots classes again)

/-! ## The record (R177 to R179) -/

/-- The update ratio (R175). -/
def updateRatio (u w : SquareAcc) : Nat :=
  let a := sqRound u
  let b := sqRound w
  if u.nonFinite ∨ w.nonFinite then Fmt.fp64.infBits false
  else if b = 0 then (if a = 0 then 0 else Fmt.fp64.infBits false)
  else if a = Fmt.fp64.infBits false ∨ b = Fmt.fp64.infBits false then Fmt.fp64.infBits false
  else fSqrt .fp64 (fDiv .fp64 a b)

/-- A ratio exceeds a group's limit (R169). -/
def exceeds (ratio limit : Nat) : Bool :=
  match decodeFloat .fp32 limit with
  | .fin n m e => m != 0 && (Num.fin n m e).lt false (decodeFloat .fp64 ratio)
  | _ => false

/-- U and W of a group. -/
def sumsOf (xs : GroupSums) (g : Nat) : SquareAcc × SquareAcc := ((xs.find? fun x => x.1 == g).map (·.2)).getD (sqZero, sqZero)

/-- Ratios of the groups of the update that a verdict's record describes. -/
def State.ratios (s : State) (j : Nat) (v : VerdictMsg) : List (Nat × Nat) :=
  if (s.job j).train.ratioStep.isNone then []
  else (List.range (s.job j).groupCount).map fun g => let u := sumsOf v.groupSq g; (g, updateRatio u.1 u.2)

/-- A contribution's square sum scaled by 2^(−2L) with one rounding (R176). -/
def contribBits (l : Int) (a : SquareAcc) : Nat := encodeNum .fp64 false ((sqNum a).scale (-2 * l))

/-- The global squared norm (R176; log entry 27 when no contribution is included). -/
def globalBits (l : Int) (n : Nat) (a : SquareAcc) : Nat :=
  if n = 0 then (Config.openSquare a.sum l).toNat
  else encodeNum .fp64 false (((sqNum a).div workBits (.fin false (n * n) 0)).scale (-2 * l))

/-- Ledger entries of a step's record (R263 to R265). -/
def Job.ledgerOf (b : Job) (commit : Bool) : List Decision :=
  if b.ledgerOff then []
  else b.strag.ledger.map fun (d : Decision) => if d.code = 1 ∧ !commit then { d with code := 5 } else d

/-- Sections laid one after another from an offset, each aligned to 64 bytes: bytes and the offset of each. -/
def laySections : Nat → List Bytes → Bytes × List Nat
  | _, [] => ([], [])
  | o, b :: r =>
    let p := padTo 64 b
    let x := laySections (o + p.length) r
    (p ++ x.1, o :: x.2)

/-- Whether some group's path changes at the next opening (R178): what the opening would do to the groups as they stand. -/
def State.pathChange (s : State) (j step : Nat) : Bool := (s.openGroups j step).groupPaths j != (s.job j).train.paths

/-- The step record (R178, R179): `s0` is the state before the verdict, `s` the one after it. -/
def stepRecord (s0 s : State) (j : Nat) (v : VerdictMsg) : Bytes :=
  let b0 := s0.job j
  let t0 := b0.train
  let b := s.job j
  let t := b.train
  let n := b0.includedCount v.step
  let ratios := s0.ratios j v
  let ledger := b0.ledgerOf (v.code == 1)
  let stats := b0.colls.any fun c => isGradient c.decl
  let prints := if t0.ratioStep.isNone then [] else v.fingerprints.take b0.prints.length
  let path := fun (g : Nat) => ((t0.pathsDone.find? fun p => p.1 == g).map (·.2)).getD 0
  let high := fun (x : Nat × Nat) => (s0.group j x.1).flagged || exceeds x.2 (s0.group j x.1).limit
  let contrib := (List.range b0.width).map fun c =>
    if b0.includes v.step c then contribBits t0.loss (((v.contribSq.find? fun x => x.1 == c).map (·.2)).getD sqZero) else 0x7FF8000000000000
  let secs := [(ledger.map decisionBytes).flatten,
    (ratios.map fun x => layRecord 16 [(0, 2, x.1), (2, 1, path x.1), (3, 1, if high x then 1 else 0), (8, 8, x.2)]).flatten,
    (t0.phasesDone.map fun p => layRecord 8 [(0, 1, p.1), (4, 4, p.2)]).flatten,
    if stats then (contrib.map (toLe 8)).flatten else [],
    (prints.map fun p => toLe 8 p.toNat).flatten]
  let laid := laySections 128 secs
  let off := fun (i : Nat) => laid.2.getD i 0
  let flags := (if v.code = 2 ∨ v.code = 4 then 1 else 0) + (if t.raise then 2 else 0) + (if s.pathChange j (v.step + 1) then 4 else 0) +
    (if b0.noSpec then 8 else 0)
  layRecord 128 [(0, 8, v.step), (8, 8, b0.memberEpoch), (0x10, 8, t.updates), (0x18, 4, 128 + laid.1.length), (0x1C, 4, s.ident.device.toNat),
    (0x20, 4, b0.width), (0x24, 4, n), (0x28, 4, b0.quorum), (0x2C, 1, v.code), (0x2D, 1, flags), (0x2E, 1, wrapInt t0.loss 8),
    (0x2F, 1, wrapInt t.loss 8), (0x30, 4, t.clean), (0x34, 2, 1), (0x36, 2, t0.phasesDone.length), (0x38, 4, ledger.length),
    (0x3C, 4, ratios.length), (0x40, 4, if stats then b0.width else 0), (0x44, 4, prints.length), (0x48, 4, t0.countsDone.1),
    (0x4C, 4, t0.countsDone.2), (0x50, 8, globalBits t0.loss n v.globalSq), (0x58, 8, t0.ratioStep.getD ones64), (0x60, 4, off 0),
    (0x64, 4, off 1), (0x68, 4, off 2), (0x6C, 4, off 3), (0x70, 4, off 4)] ++ laid.1

/-- The record written to its slot of the ring, its step field last (R177); the host-window ward refuses one outside the windows that
are granted now (R390, R391). -/
def State.writeRecord (s : State) (j step : Nat) (rec : Bytes) : State :=
  let blk := (s.job j).block 1
  let ring := fieldN blk 0x18 8
  let slots := fieldN blk 0x20 4
  let at_ := ring - farBase + step % slots * fieldN blk 0x24 4
  if ring = 0 ∨ slots = 0 ∨ !s.switrakUp then s
  else if !s.host.granted at_ rec.length then s.wardTrip 3
  else s.farPut (at_ + 8) (rec.drop 8) 0 (.recordBody step)

/-! ## COMMIT and SKIP (R153 to R155, R157, R162, R163) -/

/-- The loss exponents and the clean count after a verdict (R162). -/
def Job.lossAfter (b : Job) (code : Nat) : Training :=
  let t := b.train
  if code = 1 then
    let full := decide (t.clean + 1 ≥ b.cleanLimit)
    { t with lossPrev := t.loss, loss := t.lossNext, lossNext := if full then clampLoss (t.lossNext + b.up) else t.lossNext
             clean := if full then 0 else t.clean + 1, raise := full }
  else if code = 3 then { t with lossPrev := t.loss, loss := t.lossNext, raise := false }
  else
    let l := clampLoss (t.loss - b.down)
    { t with lossPrev := t.loss, loss := l, lossNext := l, clean := 0, raise := false }

/-- What of inclusion outlives a step (R163, R259, R262): readiness and reports of later steps, deferred contributions of a committed
step with their rows. -/
def Straggler.after (x : Straggler) (step : Nat) (commit : Bool) : Straggler :=
  { x with
    ready := x.ready.filter fun r => decide (step < r.1)
    nonFinite := x.nonFinite.filter fun r => decide (step ≤ r.1)
    scanned := x.scanned.filter fun r => decide (step < r.1)
    reports := x.reports.filter fun r => decide (step < r.2.1)
    reducedSq := sqZero
    deferred := if commit then x.ledger.filter fun d => d.code == 1 && d.origin == step else []
    kept := if commit then x.kept.filter fun k => k.2.2.2.2.2 == step else []
    ledger := [] }

/-- FORM set to match PATH for every group (R170). -/
def State.setForms (s : State) (j : Nat) : State :=
  (s.job j).train.paths.foldl (fun s p =>
    let g := s.group j p.1
    s.setGroup j p.1 7 [BitVec.ofNat 8 (groupFlags g.flagged g.lent (p.2 == 1))]) s

/-- The open epoch becomes the committed state (R153, R157, R228); under NO_SPEC nothing is open and the step's update follows
(R173). -/
def State.commitEpoch (s : State) (j step : Nat) : State :=
  let t := (s.job j).train
  let spec := t.noSpecAt.isNone
  let owner := (t.owner.filter fun p => !t.dirty.contains p) ++ t.dirty.filter fun p => !t.owner.contains p
  let s := s.setTrain j fun t => { t with owner := owner, dirty := [], tagged := [] }
  let s := if spec then s.setForms j else s
  let s := { s with hbm := s.hbm.map fun (h : Stack) => { h with
    queue := h.queue.map fun (q : UpdateReq) => if q.task.job = j then { q with prov := false } else q } }
  let s := s.setJob j fun b => { b with
    train := { b.train with
      updates := b.train.updates + 1, committed := some step, resolved := some (step, true), openEpoch := none, noSpecAt := none
      sumsDone := if spec then b.train.sums else [], pathsDone := if spec then b.train.paths else []
      fingerprintsDone := if spec then b.train.fingerprints else [], ratioStep := some step }
    chans := b.chans.map fun (c : Chan) => { c with prov := false }
    tasks := b.tasks.map fun (k : Task) => { k with prov := false, atEpoch := false, block := if k.block = some .verdict then none else k.block }
    colls := b.colls.map fun (c : Coll) => { c with active := c.active.map fun (i : CollInstance) => { i with prov := false } } }
  s.releaseHeld j

/-- The open epoch is discarded and its agents start at their skip entries (R154, R155, R228). -/
def State.skipEpoch (s : State) (j step : Nat) : State :=
  let ps := (s.job j).provSet j
  let s := (s.restart j ps).discard j
  s.setTrain j fun t => { t with
    resolved := some (step, false), noSpecAt := none, sumsDone := [], pathsDone := [], fingerprintsDone := [], ratioStep := none }

/-- Early messages of every collective of a job tried again. -/
def State.collRetryAll (s : State) (j : Nat) : State := (s.job j).colls.foldl (fun s c => s.collRetry j c.decl.num) s

/-- A loan of vector engines whose opening has passed comes into force (R328). -/
def State.vecVerdict (s : State) (j : Nat) : State :=
  match (s.job j).vecLoan with
  | some (cores, borrower, r) => if (s.job j).train.lendDue then s else (s.vecInForce j borrower cores).reply r stOk 0 0
  | none => s

/-- Worn modules drained at a step boundary by the coordinator (R269). -/
def State.drain (s : State) (j : Nat) : State :=
  match (s.job j).member with
  | none => s
  | some m =>
    if m.root != some s.ident.device then s
    else m.drains.foldl (fun s d =>
      let b := s.job j
      let left := b.width - ((b.contributorsOf [d.1]) ++ b.strag.removed).dedup.length
      if !d.2 && decide (b.quorum ≤ left) then (s.askRemoval j [d.1]).setMember j fun m => { m with drains := m.drains.erase d }
      else s.setMember j fun m => { m.setInfo d.1 fun i => { i with blocked := true } with drains := m.drains.erase d }) s

/-- A stop that waited for the verdict (R156, R330): the work begun in the epoch starts again at the skip entries. -/
def State.stopAfter (s : State) (j : Nat) (ps : ProvSet) : State :=
  match (s.job j).stopper with
  | none => s
  | some x =>
    let s := s.restart j ps
    if x.cast then
      (((s.stopDone j).setJob j fun b => { b with stopper := some x }).enter j 4).castProgress j
    else (s.stopDone j).reply x.cmd stOk 0 0

/-- A verdict applied (R153 to R163, R177). -/
def State.applyVerdict (s0 : State) (j : Nat) (v : VerdictMsg) : State :=
  let b := s0.job j
  let commit := v.code == 1
  let ps := b.provSet j
  let high := (s0.ratios j v).filter (fun x => exceeds x.2 (s0.group j x.1).limit) |>.map (·.1)
  let s := if commit then s0.commitEpoch j v.step else s0.skipEpoch j v.step
  let s := s.setJob j fun b => { b with
    strag := b.strag.after v.step commit
    train := { b.lossAfter v.code with judged := v.step + 1, ratioHigh := high } }
  let s := s.writeRecord j v.step (stepRecord s0 s j v)
  let s := (s.collRetryAll j).vecVerdict j
  let s := if commit then s.drain j else s
  (s.stopAfter j (if commit then ps else { tasks := [], chans := [], insts := [] })).touchShadow

/-- The job stops because intact copies differ (R364): faulted where a slot at fault is held, stopped elsewhere. -/
def State.diverge (s : State) (j step : Nat) (classes slots : List Nat) : State :=
  let b := s.job j
  let mine := b.ownSlots.any fun i => slots.contains i
  let cores := (b.tasks.filter fun k => k.decl.fpSlot.any fun i => slots.contains i).map (·.core)
  let s := (s.skipEpoch j step).setTrain j fun t => { t with judged := step + 1 }
  let s := (s.offCores j).setJob j fun b => { b with
    chans := b.chans.map Chan.save, stopper := none, faultStatus := stDiverged, strag := b.strag.after step false
    tasks := b.tasks.map fun (k : Task) => { k with pace := none } }
  let s := s.enter j (if mine then 7 else 2)
  let s := s.log 0x0301 4 devDomain j stDiverged (classes.getD 0 ones64) (classes.getD 1 ones64)
  let s := if mine then cores.dedup.foldl (fun s c => s.setCore c fun x => { x with test := if x.test = 0 then 1 else x.test }) s else s
  let s := match b.stopper with
    | some x => s.reply x.cmd stDiverged 0 0
    | none => s
  (s.answerWaits j stDiverged).fillAll

/-- A transient test failure counted (R364, R371, R373). -/
def State.testTransient (s : State) : State :=
  (s.setHealth fun h => { h with testTransients := sat32 (h.testTransients + 1) }).patina (64 * 1024)

/-- VERDICT (R160, R161): combined where this module decides, and passed down the tree before it is applied. -/
def doVerdict (j : Nat) (v : VerdictMsg) (s : State) : State :=
  let b := s.job j
  let wait := fun (s : State) => if s.waiting.contains (.other, .verdict j v) then s else s.hold .other (.verdict j v)
  if j ≥ 64 ∨ !b.loaded ∨ v.step ≠ b.train.judged ∨ b.state = 7 ∨ b.state = 8 then s
  else if b.train.openEpoch ≠ some v.step ∧ b.train.noSpecAt ≠ some v.step then wait s
  else if b.state ≠ 3 ∧ b.state ≠ 4 then wait s
  else
    let w := s.combined j v
    match s.printCase j w with
    | .wait n => s.setHealth fun h => { h with fingerprint := sat16 (h.fingerprint + n) }
    | .agree => (s.toChildren j 0xB (verdictBody w)).applyVerdict j w
    | .hashing slots =>
      let s := s.toChildren j 0xB (verdictBody w)
      let s := if b.ownSlots.any fun i => slots.contains i then s.testTransient else s
      s.applyVerdict j w
    | .diverged classes slots => (s.toChildren j 0xB (verdictBody w)).diverge j w.step classes slots

/-- VERDICT. -/
def execVerdict (job : Nat) (v : VerdictMsg) (s : State) : Host.Outcome State Fault Refusal := s.become (doVerdict job v s)

/-! ## GROUP_SET -/

/-- The offset of the first reserved value among the entries of a GROUP_SET (R168, R296). -/
def Cmd.entryBad (c : Cmd) (n : Nat) : Option Nat :=
  (List.range n).findSome? fun i =>
    let o := 0x10 + 32 * i
    if c.p (o + 5) 1 > 1 then some (o + 5) else if c.p (o + 6) 1 > 1 then some (o + 6) else if c.p (o + 7) 1 > 7 then some (o + 7)
    else if c.p (o + 0x1C) 4 ≠ 0 then some (o + 0x1C) else none

/-- GROUP_SET (R172): its entries wait for the opening that they name. -/
def doGroupSet (r : CmdRef) (c : Cmd) (s : State) : State :=
  let b := s.job c.job
  let at_ := c.p 0 8
  let first := c.p 8 2
  let n := c.p 0xA 2
  let begun := b.train.openEpoch.isSome || b.train.committed.isSome || b.train.noSpecAt.isSome || b.train.resolved.isSome
  s.checked r [(decide (first + n > 4096), stBadParam, 8), c.reserved 0xC 4, (decide (0x10 + 32 * n > c.params.length) && n != 0, stBadParam, 0xA),
      ((c.entryBad n).isSome, stBadParam, (c.entryBad n).getD 0), c.beyond (0x10 + 32 * n), b.stateCheck 0x0501,
      (at_ != 0 && begun && decide (at_ ≤ b.train.epochReg), stBadState, b.state)] fun s =>
    if n = 0 then s.reply r stOk 0 0
    else (s.setTrain c.job fun t => { t with
      groupSets := t.groupSets ++ [(if at_ = 0 then none else some at_, first, sliceZ c.params 0x10 (32 * n))] }).reply r stOk 0 0

/-- GROUP_SET. -/
def execGroupSet (r : CmdRef) (s : State) : Host.Outcome State Fault Refusal := s.become (cmdRow r 0x0501 (.groupSet r) (doGroupSet r) s)

end Sys2Proof.Machine
end

