-- ==== Sys2Proof/Machine/Serving.lean ====
section
/-! DEFINITION. The hinge (R134 to R145), serving streams and batch boundaries (R334 to R337), and the job-wide commands that travel
on the job tree (R143, R233, R247, R254, R337). -/

namespace Sys2Proof.Machine

/-! ## Small helpers -/

/-- An element put into a list that rises by a key, after those of the same key. -/
def insertBy {α : Type} (key : α → Nat) (x : α) : List α → List α
  | [] => [x]
  | y :: ys => if key x < key y then x :: y :: ys else y :: insertBy key x ys

/-- A list in rising order of a key, equal keys in their order. -/
def sortBy {α : Type} (key : α → Nat) (xs : List α) : List α := xs.foldl (fun acc x => insertBy key x acc) []

/-- A list of streams with their indices. -/
def Serving.indexed (x : Serving) : List (Nat × Stream) := (List.range x.streams.length).zip x.streams

/-- A stream changed. -/
def Serving.set (x : Serving) (i : Nat) (f : Stream → Stream) : Serving := { x with streams := x.streams.modify i f }

/-! ## Weight slots -/

/-- A slot of the hinge. -/
def Hinge.slot (h : Hinge) (i : Nat) : WeightSlot := if i = 0 then h.slot0 else h.slot1

/-- A slot changed. -/
def Hinge.setSlot (h : Hinge) (i : Nat) (w : WeightSlot) : Hinge := if i = 0 then { h with slot0 := w } else { h with slot1 := w }

/-- The ACTIVE slot (R134). -/
def Hinge.active (h : Hinge) : Nat := if h.slot0.state = 3 then 0 else 1

/-- The inactive slot. -/
def Hinge.other (h : Hinge) : Nat := 1 - h.active

/-- The slot that holds a generation for streams: ACTIVE or DRAINING (R134, R145). -/
def Hinge.slotOf (h : Hinge) (g : Nat) : Nat :=
  let o := h.slot h.other
  if o.state = 4 ∧ o.generation = g then h.other else h.active

/-- BAD_STATE for a hinge command: no hinge reserve, a switch under way, or a slot state that does not fit (R137). -/
def Job.hingeCheck (b : Job) (fits : Hinge → Bool) : Bool × Nat × Nat :=
  match b.hinge with
  | none => (true, stBadState, b.state)
  | some h => (h.switch.isSome || !fits h, stBadState, (h.slot h.other).state)

/-! ## HINGE_PREPARE (R138 to R142) -/

/-- Whether the job may read the source of a prepare (R139, R140). -/
def State.hingeSourceOk (s : State) (j kind owner source length : Nat) : Bool :=
  let b := s.job j
  if length = 0 then true
  else if kind = 0 then b.inWindow source length && s.farOk source length
  else if kind = 1 then
    (s.job owner).loaded && (s.job owner).grants.any fun g => decide (g.addr ≤ source) && decide (source + length ≤ g.addr + g.decl.blocks * blockBytes)
  else match (if farEnd ≤ source then s.resolve j false source else .err 1), s.resolve j false (source + length - 1) with
    | .peer d a, .peer e c => d == e && c == a + length - 1
    | _, _ => false

/-- HINGE_PREPARE (R137 to R141). -/
def doHingePrepare (r : CmdRef) (c : Cmd) (s : State) : State :=
  let j := c.job
  let b := s.job j
  let gen := c.p 0 4
  let kind := c.p 4 1
  let src := c.p 6 2
  let length := c.p 0x10 8
  let owner := if src = 0 then j else src - 1
  let maxTag := (b.hinge.map (·.maxTag)).getD 0
  let size := (b.hinge.map (·.slotBytes)).getD length
  s.checked r [(gen == 0 || decide (gen ≤ maxTag), stBadParam, 0), (decide (kind > 2), stBadParam, 4), c.reserved 5 1,
      (src != 0 && (kind != 1 || decide (src > 64)), stBadParam, 6), (!s.hingeSourceOk j kind owner (c.p 8 8) length, stBadParam, 8),
      (decide (length > size), stBadParam, 0x10), c.beyond 0x18, b.stateCheck 0x0201,
      b.hingeCheck fun h => (h.slot h.other).state == 0] fun s =>
    let copy : HingeCopy := { cmd := r, source := c.p 8 8, length := length, kind := kind, owner := owner }
    (s.setHinge j fun h => { (h.setSlot h.other { state := 1, generation := gen }) with maxTag := gen, copy := some copy }).setHost
      fun x => { x with order := x.order.filter fun y => !(y == r) }

/-- HINGE_PREPARE. -/
def execHingePrepare (r : CmdRef) (s : State) : Host.Outcome State Fault Refusal :=
  s.become (cmdRow r 0x0201 (.hingePrepare r) (doHingePrepare r) s)

/-- A copy ends without a generation: the slot is EMPTY, the abort is logged and the prepare answered (R141). -/
def State.hingeAbort (s : State) (j status : Nat) : State :=
  match (s.job j).hinge with
  | none => s
  | some h =>
    match h.copy with
    | none => s
    | some x =>
      let gen := (h.slot h.other).generation
      let s := s.setHinge j fun h => { (h.setSlot h.other {}) with copy := none }
      (s.log 0x0206 3 devDomain j gen status 0).reply x.cmd status 0 0

/-- The source region belongs to an open provisional epoch: the copy waits for its verdict (R140). -/
def State.hingeWaits (s : State) (x : HingeCopy) : Bool :=
  let b := s.job x.owner
  x.kind == 1 && b.train.openEpoch.isSome && b.inEpoch x.source

/-- Bytes laid over the regions of a slot from its offset 0. -/
def layRegions : List Grant → Bytes → Memory → Memory
  | [], _, m => m
  | g :: gs, b, m =>
    let n := g.decl.blocks * blockBytes
    layRegions gs (b.drop n) (m.write g.addr (b.take n))

/-- HINGE_COPY_DONE (R139, R140, R361). -/
def doHingeCopyDone (j : Nat) (image : Bytes) (s : State) : State :=
  match (s.job j).hinge with
  | none => s
  | some h =>
    match h.copy with
    | none => s
    | some x =>
      if s.hingeWaits x then s
      else if x.kind = 1 ∧ s.mem.bad x.source x.length then s.hingeAbort j stUncorrectable
      else
        let data := if x.kind = 1 then s.committedBytes x.owner x.source x.length else sliceZ image 0 x.length
        let whole := sliceZ data 0 h.slotBytes
        let fp := fingerprintBytes whole
        let slot := h.other
        let s := s.setMem fun m => layRegions ((s.job j).slotRegions slot) whole m
        let s := s.setHinge j fun h => { (h.setSlot slot { h.slot slot with state := 2, fingerprint := fp }) with copy := none }
        s.reply x.cmd stOk 0 fp.toNat

/-- HINGE_COPY_DONE. -/
def execHingeCopyDone (job : Nat) (image : Bytes) (s : State) : Host.Outcome State Fault Refusal := s.become (doHingeCopyDone job image s)

/-- The status of a failed copy by its bus error cause (R104, R141): 3 an uncorrectable word, 5 a lost peer, 4 a fenced target;
0 is the timeout. -/
def copyStatus (cause : Nat) : Nat := if cause = 0 then stTimeout else if cause = 3 then stUncorrectable else if cause = 4 then stFenced
  else stUnreachable

/-- HINGE_COPY_FAIL (R141). -/
def doHingeCopyFail (j cause : Nat) (s : State) : State := s.hingeAbort j (copyStatus cause)

/-- HINGE_COPY_FAIL. -/
def execHingeCopyFail (job cause : Nat) (s : State) : Host.Outcome State Fault Refusal := s.become (doHingeCopyFail job cause s)

/-- HINGE_ABANDON (R137, R141). -/
def doHingeAbandon (r : CmdRef) (c : Cmd) (s : State) : State :=
  let j := c.job
  let b := s.job j
  s.checked r [c.beyond 0, b.stateCheck 0x0203, b.hingeCheck fun h => (h.slot h.other).state == 1 || (h.slot h.other).state == 2] fun s =>
    ((s.hingeAbort j stAborted).setHinge j fun h => h.setSlot h.other {}).reply r stOk 0 0

/-- HINGE_ABANDON. -/
def execHingeAbandon (r : CmdRef) (s : State) : Host.Outcome State Fault Refusal :=
  s.become (cmdRow r 0x0203 (.hingeAbandon r) (doHingeAbandon r) s)

/-! ## HINGE_SWITCH (R143, R144) -/

/-- A CONTROL message to every neighbour of this module in the job tree but one. -/
def State.toTree (s : State) (j kind : Nat) (body : List Nat) (but : Option U32) : State :=
  match (s.job j).member with
  | none => s
  | some m =>
    let ns := ((m.parent s.ident.device).toList ++ m.children s.ident.device).filter fun d => some d != but
    s.toAll j kind body ns

/-- The other members of a job. -/
def State.others (s : State) (j : Nat) : List U32 :=
  match (s.job j).member with
  | none => []
  | some m => (m.members.map (·.device)).filter fun d => d != s.ident.device

/-- The body of a switch on the job tree (log entry 17). -/
def switchBody (gen target : Nat) (followAll : Bool) : List Nat := [gen, target, if followAll then 1 else 0]

/-- A command that still waits for what other members have to say stands as it was read. -/
def State.unbegin (s : State) (r : CmdRef) : State :=
  s.setRing r.queue fun q => { q with cmds := q.cmds.map fun (x : Cmd) => if x.ref = r then { x with begun := false } else x }

/-- HINGE_SWITCH (R137, R143): the target step is the highest batch step of any member plus 2; it goes on when every other member has
reported. -/
def doHingeSwitch (r : CmdRef) (reports : List HingeReport) (c : Cmd) (s : State) : State :=
  let j := c.job
  let b := s.job j
  let gen := c.p 0 4
  let follow := bitOf (c.p 4 1) 0
  let theirs := reports.filter fun x => (s.others j).contains x.device
  s.checked r [(gen == 0, stBadParam, 0), (decide (c.p 4 1 > 1), stBadParam, 4), c.reserved 5 3, c.beyond 8, b.stateCheck 0x0202,
      b.hingeCheck fun h => (h.slot h.other).state == 2 && (h.slot h.other).generation == gen && theirs.all fun x => x.ready] fun s =>
    if (s.others j).all fun d => theirs.any fun x => x.device == d then
      let target := theirs.foldl (fun n x => max n x.batchStep) b.serving.batchStep + 2
      (s.setHinge j fun h => { h with switch := some (gen, follow, target, some r) }).toTree j 0x0C (switchBody gen target follow) none
    else s.unbegin r

/-- HINGE_SWITCH. -/
def execHingeSwitch (r : CmdRef) (reports : List HingeReport) (s : State) : Host.Outcome State Fault Refusal :=
  s.become (cmdRow r 0x0202 (.hingeSwitch r reports) (doHingeSwitch r reports) s)

/-! ## Stream changes (R337) -/

/-- A boundary that the coordinator has not yet fixed. -/
def unfixed : Nat := 2 ^ 64

/-- Most positions of a stream (R334). -/
def positionLimit : Nat := 8388608

/-- The lowest FREE context taken: its index (R337). -/
def Serving.admission (x : Serving) (tag : U32) (cls policy : Nat) : Option (Nat × Serving) :=
  (x.streams.findIdx? fun y => y.state == 0).map fun i =>
    (i, { (x.set i fun _ => { state := 1, cls := cls, policy := policy, tag := tag, order := x.nextOrder }) with nextOrder := x.nextOrder + 1 })

/-- A stream set LEAVING. -/
def Stream.leave (x : Stream) (reason : Nat) : Stream := if x.state = 0 ∨ x.state = 4 then x else { x with state := 4, endReason := reason }

/-- The effect of a change; the reply's status, detail and value (R127, R337). -/
def Serving.change (x : Serving) : StreamChange → Serving × Nat × Nat × Nat
  | .admission tag cls policy =>
    match x.admission tag cls policy with
    | some (i, y) => (y, stOk, 0, i)
    | none => (x, stBadParam, (x.streams.filter fun y => y.state != 0).length, 0)
  | .finish i => (x.set i fun y => y.leave 2, stOk, 0, 0)
  | .change i policy tag => (x.set i fun y => if y.state = 0 then y else { y with policy := policy, tag := tag }, stOk, 0, 0)

/-- A change carried out, and answered where its command came in. -/
def State.streamChange (s : State) (j : Nat) (ch : StreamChange) (cmd : Option CmdRef) : State :=
  let x := (s.job j).serving.change ch
  let s := s.setServing j fun _ => x.1
  match cmd with
  | some r => s.reply r x.2.1 x.2.2.1 x.2.2.2
  | none => s

/-- A change with its boundary: at once while the job does not run, as no boundary comes (R337). -/
def State.streamDue (s : State) (j boundary : Nat) (ch : StreamChange) (cmd : Option CmdRef) : State :=
  if (s.job j).state ≠ 3 ∧ boundary = 0 then s.streamChange j ch cmd
  else s.setServing j fun x => { x with changes := x.changes ++ [(boundary, ch, cmd)] }

/-- The words of a change on the job tree (log entry 17). -/
def changeBody (boundary : Nat) : StreamChange → List Nat
  | .admission tag cls policy => [boundary, 1, tag.toNat, cls, policy]
  | .finish i => [boundary, 2, i]
  | .change i policy tag => [boundary, 3, i, policy, tag.toNat]

/-- The boundary that the coordinator fixes: the highest batch step of any member plus 2, as for HINGE_SWITCH; the next one in a job
of one module (R143, R337). -/
def State.fixBoundary (s : State) (j : Nat) (steps : List Nat) : Nat :=
  let b := s.job j
  if b.state ≠ 3 then 0
  else if (s.others j).isEmpty then b.serving.batchStep + 1
  else steps.foldl max b.serving.batchStep + 2

/-- A change accepted at this module: the coordinator fixes its boundary and distributes it; another module passes it on (R337). -/
def State.streamAsk (s : State) (j : Nat) (steps : List Nat) (ch : StreamChange) (cmd : Option CmdRef) : State :=
  if s.decides j then
    let n := s.fixBoundary j steps
    (s.toTree j 0x0E (changeBody n ch) none).streamDue j n ch cmd
  else
    let s := s.setServing j fun x => { x with changes := x.changes ++ [(unfixed, ch, cmd)] }
    match (s.job j).member.bind (·.root) with
    | some d => s.control j d 0x0E (changeBody unfixed ch)
    | none => s

/-- Contexts in use, changes that will take one counted. -/
def Serving.taken (x : Serving) : Nat :=
  (x.streams.filter fun y => y.state != 0).length + (x.changes.filter fun y => match y.2.1 with
    | .admission _ _ _ => true
    | _ => false).length

/-- STREAM_ADMIT (R337). -/
def doStreamAdmit (r : CmdRef) (steps : List Nat) (c : Cmd) (s : State) : State :=
  let b := s.job c.job
  let x := b.serving
  s.checked r [(decide (c.p 4 1 > 1), stBadParam, 4), (decide (c.p 5 1 > 1), stBadParam, 5), c.reserved 6 2, c.beyond 8,
      (decide (x.taken ≥ x.streams.length), stBadParam, x.taken), b.stateCheck 0x0401] fun s =>
    s.streamAsk c.job steps (.admission (BitVec.ofNat 32 (c.p 0 4)) (c.p 4 1) (c.p 5 1)) (some r)

/-- STREAM_ADMIT. -/
def execStreamAdmit (r : CmdRef) (steps : List Nat) (s : State) : Host.Outcome State Fault Refusal :=
  s.become (cmdRow r 0x0401 (.streamAdmit r steps) (doStreamAdmit r steps) s)

/-- A stream that STREAM_END and STREAM_SET refuse: beyond the count, FREE or LEAVING. -/
def Serving.gone (x : Serving) (i : Nat) : Bool := match x.streams[i]? with
  | none => true
  | some y => y.state == 0 || y.state == 4

/-- STREAM_END (R337). -/
def doStreamEnd (r : CmdRef) (steps : List Nat) (c : Cmd) (s : State) : State :=
  let b := s.job c.job
  s.checked r [(b.serving.gone (c.p 0 4), stBadParam, 0), c.beyond 4, b.stateCheck 0x0402] fun s =>
    s.streamAsk c.job steps (.finish (c.p 0 4)) (some r)

/-- STREAM_END. -/
def execStreamEnd (r : CmdRef) (steps : List Nat) (s : State) : Host.Outcome State Fault Refusal :=
  s.become (cmdRow r 0x0402 (.streamEnd r steps) (doStreamEnd r steps) s)

/-- STREAM_SET (R337). -/
def doStreamSet (r : CmdRef) (steps : List Nat) (c : Cmd) (s : State) : State :=
  let b := s.job c.job
  s.checked r [(b.serving.gone (c.p 0 4), stBadParam, 0), (decide (c.p 4 1 > 1), stBadParam, 4), c.reserved 5 3, c.beyond 12,
      b.stateCheck 0x0403] fun s =>
    s.streamAsk c.job steps (.change (c.p 0 4) (c.p 4 1) (BitVec.ofNat 32 (c.p 8 4))) (some r)

/-- STREAM_SET. -/
def execStreamSet (r : CmdRef) (steps : List Nat) (s : State) : Host.Outcome State Fault Refusal :=
  s.become (cmdRow r 0x0403 (.streamSet r steps) (doStreamSet r steps) s)

/-- STREAM_STATUS (R334, R337, R431). -/
def doStreamStatus (r : CmdRef) (c : Cmd) (s : State) : State :=
  let b := s.job c.job
  let n := b.serving.streams.length
  let first := c.p 0 4
  let count := c.p 4 4
  s.checked r [(count != 0 && decide (first ≥ n), stBadParam, 0), (count != 0 && decide (first + count > n), stBadParam, 4),
      (count != 0 && !s.farOk (c.p 8 8) (32 * count), stBadParam, 8), c.beyond 16, b.stateCheck 0x0404] fun s =>
    if count = 0 then s.reply r stOk 0 0
    else
      let rec_ := ((b.serving.indexed.drop first).take count).flatMap fun x => x.2.bytes x.1
      s.giveRecord r (c.p 8 8) rec_ 0 0

/-- STREAM_STATUS. -/
def execStreamStatus (r : CmdRef) (s : State) : Host.Outcome State Fault Refusal :=
  s.become (cmdRow r 0x0404 (.streamStatus r) (doStreamStatus r) s)

/-! ## Job-wide commands (R247) -/

/-- JOB_WIDE_COMMAND: a switch or a stream change travels on over the tree and takes its place here; a request for a stream change or
for a removal reaches the coordinator; members report their readiness for a RESHARD or its loss (R143, R233, R235, R254, R337). -/
def State.jobWide (s : State) (j : Nat) (source : U32) : JobWide → State
  | .hingeSwitch gen follow target =>
    (s.setHinge j fun h => { h with switch := some (gen, follow, target, none) }).toTree j 0x0C (switchBody gen target follow) (some source)
  | .streamAsk steps ch => if s.isRoot j then s.streamAsk j steps ch none else s
  | .stream boundary ch =>
    let s := s.toTree j 0x0E (changeBody boundary ch) (some source)
    match (s.job j).serving.changes.find? fun x => x.1 == unfixed && x.2.1 == ch with
    | some x => (s.setServing j fun y => { y with changes := y.changes.erase x }).streamDue j boundary ch x.2.2
    | none => s.streamDue j boundary ch none
  | .membershipRemove ds => if s.isRoot j then s.askRemoval j ds else s
  | .reshardReady dev => s.reshardReadyFrom j dev
  | .reshardLost => s.reshardLost j stUnreachable

/-- The CONTROL kind of a job-wide command (log entry 17). -/
def jobWideKind : JobWide → Nat
  | .hingeSwitch _ _ _ => 0x0C
  | .membershipRemove _ => 0x0D
  | .streamAsk _ _ | .stream _ _ => 0x0E
  | .reshardReady _ => 0x0F
  | .reshardLost => 0x10

/-- JOB_WIDE_COMMAND. -/
def execJobWideCommand (port : Nat) (m : Msg) (c : JobWide) (s : State) : Host.Outcome State Fault Refusal :=
  s.become (controlRow port m (jobWideKind c) (fun j s => s.jobWide j m.hdr.source c) s)

/-! ## Pages of the KV pool (R335) -/

/-- Data pages and table pages of a stream at a position. -/
def pageNeed (kv position : Nat) : Nat × Nat :=
  let data := ceilDiv (position * kv) 65536
  (data, ceilDiv data 16384)

/-- Pages that a stream still needs for a step of `tokens` positions. -/
def Stream.need (x : Stream) (kv tokens : Nat) : Nat :=
  let n := pageNeed kv (min (x.position + tokens) positionLimit)
  1 + n.1 + n.2 - x.pages

/-- A stream with the pages for its step, taken from free page numbers: root page, table pages, data pages; the numbers left
(log entry 39). -/
def Stream.grow (x : Stream) (kv tokens : Nat) (free : List Nat) : Stream × List Nat :=
  let n := pageNeed kv (min (x.position + tokens) positionLimit)
  let a := if x.root.isNone then (free.head?, free.drop 1) else (x.root, free)
  let t := n.2 - x.tables.length
  let d := n.1 - x.data.length
  ({ x with root := a.1, tables := x.tables ++ a.2.take t, data := x.data ++ (a.2.drop t).take d }, (a.2.drop t).drop d)

/-- A page of 16,384 page numbers, unused entries all ones. -/
def pageTable (xs : List Nat) : Bytes := (List.range 16384).flatMap fun i => toLe 4 (xs.getD i 0xFFFFFFFF)

/-- The Griux writes a stream's tables. -/
def Stream.writeTables (x : Stream) (pool : Nat) (m : Memory) : Memory :=
  let m := match x.root with
    | some p => m.write (pool + 65536 * p) (pageTable x.tables)
    | none => m
  ((List.range x.tables.length).zip x.tables).foldl (fun m t => m.write (pool + 65536 * t.2) (pageTable ((x.data.drop (16384 * t.1)).take 16384))) m

/-- Page numbers that a stream holds. -/
def Stream.held (x : Stream) : List Nat := x.root.toList ++ x.tables ++ x.data

/-! ## Batch boundaries (R336) -/

/-- The positions of listed streams advanced by the tokens that the step processed. -/
def Serving.advance (x : Serving) (tokens : List (Nat × Nat)) : Serving :=
  tokens.foldl (fun x t => x.set t.1 fun y => if y.state = 2 then { y with position := min (y.position + t.2) positionLimit } else y) x

/-- Step 1, and before it the streams at their limit (R336). -/
def Serving.freeLeaving (x : Serving) : Serving :=
  { x with streams := x.streams.map fun (y : Stream) =>
      let y := if y.position ≥ positionLimit then y.leave 3 else y
      if y.state = 4 then { y with state := 0, position := 0, root := none, tables := [], data := [] } else y }

/-- Whether a stream holds a generation. -/
def Serving.holds (x : Serving) (g : Nat) : Bool := x.streams.any fun y => y.state != 0 && y.generation == g

/-- Streams that take a generation: those that follow, or all that have one. -/
def Serving.take (x : Serving) (g : Nat) (all : Bool) : Serving :=
  { x with streams := x.streams.map fun (y : Stream) =>
      if y.state ≠ 0 ∧ y.generation ≠ 0 ∧ (all ∨ y.policy = 1) then { y with generation := g } else y }

/-- Step 2: a switch due takes effect, and a DRAINING slot that no stream holds becomes EMPTY (R144, R145). -/
def hingeStep (h : Hinge) (x : Serving) (n : Nat) : Hinge × Serving :=
  let due := match h.switch with
    | some w => decide (w.2.2.1 ≤ n)
    | none => false
  let follow := match h.switch with
    | some w => w.2.1
    | none => false
  let old := h.active
  let new := h.slot h.other
  let turn := due && new.state == 2
  let h1 := if turn then (h.setSlot h.other { new with state := 3 }).setSlot old { h.slot old with state := 4 } else h
  let h1 := if due then { h1 with switch := none } else h1
  let x := x.take (h1.slot h1.active).generation (turn && follow)
  let o := h1.slot h1.other
  (if o.state = 4 ∧ !x.holds o.generation then h1.setSlot h1.other {} else h1, x)

/-- What decides who runs at a boundary: capacity, tokens a step, KV bytes a position, pages of the pool (R336, R337). -/
structure BatchLimits where
  capacity : Nat
  tokens : Nat
  kv : Nat
  pages : Nat

/-- Streams in their order made ACTIVE while capacity and free pages allow (R336). -/
def resume (l : BatchLimits) (step generation : Nat) : List Nat → Serving × Nat × Nat → Serving × Nat × Nat
  | [], acc => acc
  | i :: is, (x, free, running) =>
    match x.streams[i]? with
    | none => resume l step generation is (x, free, running)
    | some y =>
      let need := y.need l.kv l.tokens
      if need ≤ free ∧ running < l.capacity then
        let join := fun (y : Stream) => if y.state = 1 then { y with state := 2, generation := generation, admittedStep := step } else { y with state := 2 }
        resume l step generation is (x.set i join, free - need, running + 1)
      else (x, free, running)

/-- Indices of streams in a state, in the order of a key. -/
def Serving.inOrder (x : Serving) (p : Stream → Bool) (key : Stream → Nat) : List Nat :=
  (sortBy (fun (y : Nat × Stream) => key y.2) (x.indexed.filter fun y => p y.2)).map (·.1)

/-- Free pages of the pool. -/
def Serving.free (x : Serving) (pages : Nat) : Nat := pages - x.streams.foldl (fun n y => n + y.pages) 0

/-- Steps 3 and 4 (R336). -/
def Serving.join (x : Serving) (l : BatchLimits) (step generation : Nat) : Serving :=
  let running := (x.streams.filter fun y => y.state == 2).length
  let held := x.inOrder (fun y => y.state == 3) fun y => y.admittedStep * 2 ^ 64 + y.order
  let a := resume l step generation held (x, x.free l.pages, running)
  let lc := x.inOrder (fun y => y.state == 1 && y.cls == 0) (·.order)
  let b := resume l step generation lc a
  let be := x.inOrder (fun y => y.state == 1 && y.cls == 1) (·.order)
  (resume l step generation be b).1

/-- Streams set HELD, in the order given, until the rest fit in the free pages (R336). -/
def holdUntil (l : BatchLimits) (free : Nat) : List Nat → Serving → Serving
  | [], x => x
  | i :: is, x =>
    let need := x.streams.foldl (fun n y => if y.state = 2 then n + y.need l.kv l.tokens else n) 0
    if need ≤ free then x else holdUntil l free is (x.set i fun y => { y with state := 3 })

/-- Step 5: best-effort before latency-critical, the most recently admitted first (R336). -/
def Serving.fit (x : Serving) (l : BatchLimits) : Serving :=
  let order := (x.inOrder (fun y => y.state == 2) fun y => (1 - y.cls) * 2 ^ 64 + y.order)
  let be := order.filter fun i => (x.streams[i]?).any fun y => y.cls == 1
  let lc := order.filter fun i => !(x.streams[i]?).any fun y => y.cls == 1
  holdUntil l (x.free l.pages) (be.reverse ++ lc.reverse) x

/-- The pages of step 5 given out. -/
def Serving.allot (x : Serving) (l : BatchLimits) (own : Nat) : Serving :=
  let used := x.streams.flatMap Stream.held
  let free := (List.range own).filter fun p => !used.contains p
  let r := x.streams.foldl (fun (acc : List Stream × List Nat) y =>
    if y.state = 2 then
      let g := y.grow l.kv l.tokens acc.2
      (acc.1 ++ [g.1], g.2)
    else (acc.1 ++ [y], acc.2)) ([], free)
  { x with streams := r.1 }

/-- The batch list: generation, class, admission order (R336). -/
def Serving.batchList (x : Serving) : List Nat :=
  x.inOrder (fun y => y.state == 2) fun y => (y.generation * 2 + y.cls) * 2 ^ 64 + y.order

/-- The batch list as written: u32 indices ended by all ones (log entry 39). -/
def listBytes (xs : List Nat) : Bytes := (xs.map (toLe 4)).flatten ++ toLe 4 0xFFFFFFFF

/-- Pages of this module's pool. -/
def Job.poolPages (b : Job) : Nat :=
  match b.bin.bind (·.serve) with
  | some v => ((b.grants.find? fun g => g.decl.number == v.kvRegion).map fun g => g.decl.bytes / 65536).getD 0
  | none => 0

/-- The generations of the batch in rising order, each once (R145). -/
def Serving.generations (x : Serving) : List Nat :=
  (sortBy (fun g => g) ((x.streams.filter fun y => y.state == 2).map (·.generation))).dedup

/-- The Griux writes bytes at a device address of the job. -/
def State.layAt (s : State) (j a : Nat) (b : Bytes) : State :=
  match s.resolve j true a with
  | .mem k => s.setMem fun m => m.write k b
  | _ => s

/-- Due changes of R337 carried out. -/
def State.dueChanges (s : State) (j n : Nat) : State :=
  let due := (s.job j).serving.changes.filter fun x => decide (x.1 ≤ n)
  let s := s.setServing j fun x => { x with changes := x.changes.filter fun y => !decide (y.1 ≤ n) }
  due.foldl (fun s x => s.streamChange j x.2.1 x.2.2) s

/-- A batch boundary (R336): before batch step `n`. -/
def State.boundary (s : State) (j home : Nat) (v : ServeDecl) (smallest : Nat) : State :=
  let n := (s.job j).serving.batchStep + 1
  let s := (s.setServing j fun x => { x with batchStep := n }).dueChanges j n
  let b := s.job j
  let own := b.poolPages
  let l : BatchLimits := { capacity := v.batchCapacity, tokens := v.tokensPerStep, kv := v.kvBytes
                           pages := if (s.others j).isEmpty then own else min own smallest }
  let x := b.serving.freeLeaving
  let hx : Option Hinge × Serving := match b.hinge with
    | some h => let r := hingeStep h x n; (some r.1, r.2)
    | none => (none, x)
  let generation := (hx.1.map fun h => (h.slot h.active).generation).getD 0
  let x := ((hx.2.join l n generation).fit l).allot l own
  let gens := x.generations
  let h := hx.1.map fun (h : Hinge) => { h with view := (gens.head?.map h.slotOf).getD h.active, passes := gens.drop 1 }
  let switched := match b.hinge.bind (·.switch) with
    | some w => if w.2.2.1 ≤ n then w.2.2.2.map fun r => (r, w.2.2.1) else none
    | none => none
  let s := s.setJob j fun b => { b with serving := x, hinge := h }
  let s := s.setMem fun m => x.streams.foldl (fun m y => if y.state = 2 then y.writeTables b.poolAddr m else m) m
  let s := s.layAt j (b.placeAddr home v.batchList) (listBytes x.batchList)
  match switched with
  | some (r, target) => s.reply r stOk (target % 2 ^ 32) 0
  | none => s

/-- BATCH (R135, R145, R336): while a second pass of the step is due it begins that pass; else it marks a boundary. `smallest` is the
number of pages of the smallest KV pool among the members (R337). -/
def doBatch (t : TaskRef) (tokens : List (Nat × Nat)) (smallest : Nat) (s0 : State) : State :=
  match s0.issue t with
  | none => s0
  | some (k, s) =>
    let j := t.job
    match (s.job j).bin.bind (·.serve) with
    | none => s
    | some v =>
      let s := s.setServing j fun x => x.advance tokens
      match (s.job j).hinge.map (·.passes) with
      | some (g :: gs) => s.setHinge j fun h => { h with view := h.slotOf g, passes := gs }
      | _ => s.boundary j k.home v smallest

/-- BATCH. -/
def execBatch (t : TaskRef) (tokens : List (Nat × Nat)) (smallest : Nat) (s : State) : Host.Outcome State Fault Refusal :=
  s.become (doBatch t tokens smallest s)

/-- SEXIT (R336). -/
def doSexit (t : TaskRef) (i : Nat) (s0 : State) : State :=
  match s0.issue t with
  | none => s0
  | some (_, s) => s.setServing t.job fun x => x.set i fun y => y.leave 1

/-- SEXIT. -/
def execSexit (t : TaskRef) (stream : Nat) (s : State) : Host.Outcome State Fault Refusal := s.become (doSexit t stream s)

end Sys2Proof.Machine
end

