-- ==== Sys2Proof/Machine/Rings.lean ====
section
/-! DEFINITION. The host interface: doorbell registers (R286 to R288), the reading of commands (R285, R289 to R293), timeouts (R300),
what the adapter answers (R101, R122, R177, R295, R330) and its window table (R390), and the scrubber of HBM (R116). -/

namespace Sys2Proof.Machine

/-! ## Doorbell registers -/

/-- Slots of a ring (R285). -/
def Ring.slots (q : Ring) : Nat := 2 ^ (q.size + 6)

/-- RING_CFG written to a ring that ENABLE 0 stops or that is stopped (R286, R288). -/
def Ring.write (q : Ring) (v : Nat) : Ring :=
  let quiet := bitOf v 9
  if q.enable then
    if bitOf v 0 then { q with quiet := quiet } else { q with quiet := quiet, enable := false, state := 0 }
  else { q with quiet := quiet, base := v / 4096 * 4096, size := bitsOf v 4 4 }

/-- ENABLE goes from 0 to 1: a new ring, or a halt when FENCE_ALL holds, SIZE is reserved or the ring lies in no window (R288, R432). -/
def Ring.enabled (q : Ring) (fenceAll granted : Bool) : Ring :=
  let q := { q with enable := true, head := 0, tail := 0, expect := 0, cause := 0, state := 1, enabling := q.enabling + 1 }
  if fenceAll then { q with state := 2, cause := 6 }
  else if q.size > 10 then { q with state := 2, cause := 5 }
  else if !granted then { q with state := 2, cause := 4 }
  else q

/-- A 64-bit write of RING_CFG. -/
def State.ringWrite (s : State) (q v : Nat) : State :=
  let on := !(s.ring q).enable && bitOf v 0
  let s := s.setRing q fun x => x.write v
  if on then s.setRing q fun x => x.enabled s.keeper.fenceAll (s.host.granted x.base (64 * x.slots)) else s

/-- The register window answers over Switrak: the link is lit and its domain runs or is fenced by FENCE_ALL, with no reset of it
under way (R347, R356). -/
def State.windowOpen (s : State) : Bool :=
  s.power.input && s.keeper.switrakLaser && (s.keeper.switrak == 0 || (s.keeper.fenceAll && s.keeper.switrak == 1)) &&
    !s.keeper.resets.any fun x => x.domain.kind == 0 || x.domain.kind == 4

/-- A write of TAIL, ignored while ENABLE reads 0 (R287, R288). -/
def State.ringTail (s : State) (q tail : Nat) : State := s.setRing q fun x => if x.enable then { x with tail := tail } else x

/-- DOORBELL. -/
def doDoorbell (q : Nat) (tail : U32) (s : State) : State := if s.windowOpen then s.ringTail q tail.toNat else s

/-- DOORBELL. -/
def execDoorbell (q : Nat) (tail : U32) (s : State) : Host.Outcome State Fault Refusal := s.become (doDoorbell q tail s)

/-- RING_ENABLE: a write of RING_CFG that takes ENABLE from 0 to 1. -/
def doRingEnable (q : Nat) (v : U64) (s : State) : State :=
  if s.windowOpen ∧ !(s.ring q).enable ∧ bitOf v.toNat 0 then s.ringWrite q v.toNat else s

/-- RING_ENABLE. -/
def execRingEnable (q : Nat) (value : U64) (s : State) : Host.Outcome State Fault Refusal := s.become (doRingEnable q value s)

/-- RING_DISABLE: a write of RING_CFG that takes ENABLE from 1 to 0. -/
def doRingDisable (q : Nat) (v : U64) (s : State) : State :=
  if s.windowOpen ∧ (s.ring q).enable ∧ !bitOf v.toNat 0 then s.ringWrite q v.toNat else s

/-- RING_DISABLE. -/
def execRingDisable (q : Nat) (value : U64) (s : State) : Host.Outcome State Fault Refusal := s.become (doRingDisable q value s)

/-! ## Reading commands (R289, R290) -/

/-- Slots written and not yet read. -/
def Ring.ahead (q : Ring) : Nat := (q.tail + 2 ^ 32 - q.head) % 2 ^ 32

/-- Commands read and not yet replied (R290, R310). -/
def Ring.inProgress (q : Ring) : Nat := (q.cmds.filter fun c => !c.timedOut).length

/-- A command waits in the ring and may be read (R290). -/
def Ring.waits (q : Ring) : Bool := q.enable && q.state == 1 && q.head != q.tail && decide (q.inProgress < 32)

/-- The queues of a class in round robin after the last one served (R290). -/
def State.rotation (s : State) (cls : Nat) : List Nat :=
  let last := s.host.lastServed.getD cls 0
  ((List.range 132).map fun i => (last + 1 + i) % 132).filter fun q => queueClass q == cls

/-- The next queue of a class with a command waiting. -/
def State.nextOf (s : State) (cls : Nat) : Option Nat := (s.rotation cls).find? fun q => (s.ring q).waits

/-- The queue that is read next (R290); in the recovery state only M0 is (R384). -/
def State.nextQueue (s : State) : Option Nat :=
  if s.fw.recovery then (if (s.ring 128).waits then some 128 else none)
  else
    let be := s.nextOf 1
    let usual := ((s.nextOf 0).or (s.nextOf 2)).or be
    if s.host.beCount ≥ 15 then be.or usual else usual

/-- Bytes of indirect parameters held by all queues. -/
def HostIf.indirectHeld (h : HostIf) : Nat :=
  h.rings.foldl (fun n q => n + (q.cmds.filter fun c => bitOf c.flags 0 && !c.ended).foldl (fun n c => n + c.params.length) 0) 0

/-- Why a read halts the ring (R289): the causes of R286 in their order; none when the command is whole. -/
def State.readHalt (s : State) (q : Ring) (header params : Bytes) (indirect pointer length slots : Nat) : Option Nat :=
  let at_ := fun (i : Nat) => q.base + 64 * ((q.head + i) % q.slots)
  let granted := fun (i : Nat) => s.host.granted (at_ i) 64
  if q.ahead > q.slots then some 3
  else if !granted 0 then some 4
  else if (indirect = 0 ∧ 32 + length > 4096) ∨ slots > q.ahead ∨ length > 0x100_0000 then some 7
  else if !((List.range slots).all granted) ∨ (indirect = 1 ∧ !s.host.granted pointer length) then some 4
  else if (crc32c (header.take 28 ++ params)).toNat ≠ fieldN header 0x1C 4 then some 1
  else if fieldN header 0x18 4 ≠ q.expect then some 2
  else none

/-- COMMAND_READ (R285, R289 to R293): the next whole command of the ring whose turn it is. `slots` are the bytes of its slots and
`indirect` the bytes at its pointer. -/
def doCommandRead (n : Nat) (slots indirect : Bytes) (s : State) : State :=
  let q := s.ring n
  if !s.takesCommands ∨ !s.switrakUp ∨ s.nextQueue ≠ some n then s
  else
    let header := sliceZ slots 0 32
    let ind := bitsOf (fieldN header 3 1) 0 1
    let length := fieldN header 8 4
    let pointer := fieldN slots 32 8
    let count := ceilDiv (32 + (if ind = 1 then 16 else length)) 64
    let params := if ind = 1 then sliceZ indirect 0 length else sliceZ slots 32 length
    match s.readHalt q header params ind pointer length count with
    | some cause => s.setRing n fun x => { x with state := 2, cause := cause }
    | none =>
      if ind = 1 ∧ s.host.indirectHeld + length > 0x400_0000 then s
      else
        let ref : CmdRef := { queue := n, enabling := q.enabling, sequence := q.expect }
        let cmd : Cmd := { ref := ref, header := header, params := params, pointerBad := ind == 1 && fieldN slots 40 8 != 0 }
        let s1 := s.setRing n fun x => { x with
          head := (x.head + count) % 2 ^ 32, expect := (x.expect + 1) % 2 ^ 32, cmds := x.cmds ++ [cmd] }
        let cls := queueClass n
        s1.setHost fun h => { h with
          lastServed := h.lastServed.set cls n
          beCount := if cls = 1 then 0 else if (s.nextOf 1).isSome then h.beCount + 1 else h.beCount
          order := if jobOrdered cmd.opcode || deviceOrdered cmd.opcode then h.order ++ [ref] else h.order }

/-- COMMAND_READ. -/
def execCommandRead (q : Nat) (slots indirect : Bytes) (s : State) : Host.Outcome State Fault Refusal :=
  s.become (doCommandRead q slots indirect s)

/-! ## Timeouts (R299, R300) -/

/-- TIMEOUT is written while the command runs on (R300). -/
def State.timeoutMark (s : State) (r : CmdRef) (c : Cmd) : State :=
  let s := (s.setRing r.queue fun q => { q with cmds := q.cmds.map fun (x : Cmd) => if x.ref == r then { x with timedOut := true } else x }).setHost
    fun h => { h with order := h.order.filter fun x => !(x == r) }
  if c.replyAddr = 0 ∨ (s.ring r.queue).quiet then s
  else if !s.switrakUp || !s.host.granted c.replyAddr 32 then s.replyLost c stTimeout
  else
    let rep := replyBytes c.header r.queue r.sequence stTimeout 0 0
    s.farPut (c.replyAddr + 2) (rep.drop 2) 0 (.replyBody r.queue (rep.take 2))

/-- The hinge copy that a command waits for. -/
def Job.copyOf (b : Job) (r : CmdRef) : Bool := b.hinge.any fun h => h.copy.any fun x => x.cmd == r

/-- COMMAND_TIMEOUT (R141, R156, R300, R305, R337): a command that has changed nothing is abandoned; HINGE_PREPARE ends with its slot
EMPTY; every other runs on. -/
def doCommandTimeout (r : CmdRef) (s : State) : State :=
  match s.cmd r with
  | none => s
  | some c =>
    if s.keeper.management ≠ 0 ∨ c.timedOut then s
    else
      let j := c.job
      let b := s.job j
      if !c.begun then (s.dropWaiting fun w => w.1 == .cmd r).reply r stTimeout 0 0
      else if b.waits.contains r then (s.setJob j fun b => { b with waits := b.waits.filter fun x => !(x == r) }).reply r stTimeout 0 0
      else if b.copyOf r then s.hingeAbort j stTimeout
      else if b.serving.changes.any fun x => x.2.2 == some r then
        (s.setServing j fun x => { x with changes := x.changes.filter fun y => y.2.2 != some r }).reply r stTimeout 0 0
      else s.timeoutMark r c

/-- COMMAND_TIMEOUT. -/
def execCommandTimeout (r : CmdRef) (s : State) : Host.Outcome State Fault Refusal := s.become (doCommandTimeout r s)

/-! ## The adapter (R101, R122, R177, R295) -/

/-- The command whose reply a write belongs to. -/
def State.repliedCmd (s : State) (q addr : Nat) : Option Cmd := (s.ring q).cmds.find? fun c => c.ended && c.replyAddr == addr

/-- A reply's write sequence is over. -/
def State.replyOver (s : State) (q addr : Nat) : State :=
  match s.repliedCmd q addr with
  | some c => s.dropCmd c.ref
  | none => s

/-- A write of the module has been acknowledged. -/
def State.farAcked (s : State) (x : FarReq) : State :=
  match x.use with
  | .chanWrite c => s.setChan c fun y => { y with writes := y.writes - 1 }
  | .replyBody q status =>
    if (s.ring q).quiet then s.replyOver q (x.addr - 2) else s.farPut (x.addr - 2) status 0 (.replyStatus q)
  | .replyStatus q => s.replyOver q x.addr
  | .recordBody step => s.farPut (x.addr - 8) (toLe 8 step) 0 .recordStep
  | .image j => s.castEnd j stOk
  | _ => s

/-- A write of a reply has been refused: logged, not retried (R295). -/
def State.replyRefused (s : State) (q addr status : Nat) : State :=
  (s.replyFail (((s.repliedCmd q addr).map (·.job)).getD 0xFFFF) addr q status).replyOver q addr

/-- A write or read of the module has been refused: the window is gone, or Switrak does not run. -/
def State.farRefused (s : State) (x : FarReq) : State :=
  let cause := if s.switrakUp then 2 else 4
  match x.use with
  | .chanWrite c => s.moveFail c cause true (farBase + x.addr)
  | .chanRead c a => s.moveFail c cause false a
  | .replyBody q status => s.replyRefused q (x.addr - 2) (fieldN status 0 2)
  | .replyStatus q => s.replyRefused q x.addr (fieldN x.data 0 2)
  | .image j => (s.setHost fun h => { h with far := h.far.map fun (y : FarReq) => if y.use = .image j then { y with use := .dropped } else y }).castEnd j stFenced
  | .bulk => s.setHost fun h => { h with far := h.far ++ [x] }
  | _ => s

/-- Data of a read has come back. -/
def State.farData (s : State) (x : FarReq) (b : Bytes) : State :=
  match x.use with
  | .chanRead c a => s.setChan c fun y => { y with
      reads := y.reads - 1, remote := y.remote ++ (sliceZ b 0 x.length).mapIdx fun i v => (a + i, v) }
  | _ => s

/-- Whether an answer is one for the request: a read has data, a write an acknowledgement. -/
def answers (x : FarReq) : AdapterAnswer → Bool
  | .ack => x.length == 0
  | .data _ => x.length != 0
  | .refused => true

/-- ADAPTER_ACKNOWLEDGEMENT. -/
def doAdapterAcknowledgement (id : Nat) (a : AdapterAnswer) (s : State) : State :=
  match s.host.far.find? fun x => x.id == id with
  | none => s
  | some x =>
    if !answers x a then s
    else
      let s := s.setHost fun h => { h with far := h.far.filter fun y => y.id != id }
      match a with
      | .ack => s.farAcked x
      | .data b => s.farData x b
      | .refused => s.farRefused x

/-- ADAPTER_ACKNOWLEDGEMENT. -/
def execAdapterAcknowledgement (id : Nat) (a : AdapterAnswer) (s : State) : Host.Outcome State Fault Refusal :=
  s.become (doAdapterAcknowledgement id a s)

/-- ADAPTER_WINDOW_TABLE_WRITE (R122, R124, R390). -/
def execAdapterWindowTableWrite (windows : List (Nat × Nat)) (farRateMBps : Nat) (s : State) : Host.Outcome State Fault Refusal :=
  s.become (s.setHost fun h => { h with windows := windows, farRate := farRateMBps })

/-! ## Scrubbing (R116) -/

/-- 8-byte words of a stack (R8, R113). -/
def stackWords : Nat := 2 ^ 33

/-- HBM_SCRUB: `count` words from the scrubber's place are read; `found` are the words whose codewords the reading finds in error and
whether the error is uncorrectable. Correctable ones are written back and counted (R84, R115, R373). -/
def doHbmScrub (stack word count : Nat) (found : List (Nat × Bool)) (s : State) : State :=
  let h := s.hbm.getD stack {}
  if stack ≥ 12 ∨ (s.die (stack / 3)).domain ≠ 0 ∨ !s.power.input ∨ h.scrub ≠ word ∨ count = 0 ∨ word + count > stackWords then s
  else
    let base := stackWords * stack + word
    let inside := fun (w : Nat) => decide (base ≤ w) && decide (w < base + count)
    let old := s.mem.ecc.filter fun e => inside e.1
    let new := found.filter fun e => inside e.1 && !old.any fun o => o.1 == e.1
    let weak := ((old ++ new).filter fun e => !e.2).length
    let s := s.setMem fun m => { m with ecc := (m.ecc.filter fun e => e.2 || !inside e.1) ++ new.filter fun e => e.2 }
    let s := { s with hbm := s.hbm.set stack { h with scrub := (word + count) % stackWords } }
    s.correctedWords (dieDomain (stack / 3)) weak

/-- HBM_SCRUB. -/
def execHbmScrub (stack word count : Nat) (found : List (Nat × Bool)) (s : State) : Host.Outcome State Fault Refusal :=
  s.become (doHbmScrub stack word count found s)

end Sys2Proof.Machine
end

