-- ==== Sys2Proof/Machine/Boot.lean ====
section
/-! DEFINITION. Bundles, the choice of a bank and the loading of Nerur (R379 to R384, R395), the record of MAQUETTE (R310, R311),
error-log entries as bytes (R339) and the crash dump (R353, R354). -/

namespace Sys2Proof.Machine

/-! ## Bundles (R379, R380) -/

/-- A field of the bundle header. -/
def Bank.field (b : Bank) (off n : Nat) : Nat := fieldN b.bytes off n

/-- security_version. -/
def Bank.security (b : Bank) : Nat := b.field 8 4

/-- keeper_version. -/
def Bank.keeperVersion (b : Bank) : Nat := b.field 0xC 4

/-- nerur_version. -/
def Bank.nerurVersion (b : Bank) : Nat := b.field 0x10 4

/-- keeper_bytes. -/
def Bank.keeperBytes (b : Bank) : Nat := b.field 0x18 8

/-- nerur_bytes. -/
def Bank.nerurBytes (b : Bank) : Nat := b.field 0x20 8

/-- Bank offset of the Nerur image: the next 4 KiB boundary after the keeper image. -/
def Bank.nerurOffset (b : Bank) : Nat := roundUp (0x2000 + b.keeperBytes) 4096

/-- Magic, format, reserved bytes and image lengths as R379 gives them. -/
def Bank.formed (b : Bank) : Bool :=
  b.field 0 4 == 0x5746564B && b.field 4 2 == 1 &&
    ([(6, 2), (0x14, 4), (0x88, 120), (0xDED, 531), (0x1CED, 787)].all fun r => allZero (sliceZ b.bytes r.1 r.2)) &&
    b.keeperBytes != 0 && decide (b.keeperBytes ≤ 0x10_0000) && b.nerurBytes != 0 && decide (b.nerurBytes ≤ 0x640_0000)

/-- Both images have the digests in the header. -/
def Bank.digestsOk (b : Bank) : Bool :=
  sha3 (sliceZ b.bytes 0x2000 b.keeperBytes) == sliceZ b.bytes 0x28 48 &&
    sha3 (sliceZ b.bytes b.nerurOffset b.nerurBytes) == sliceZ b.bytes 0x58 48

/-- Bolnar's signature verifies, and the owner's when an owner key is enrolled. -/
def Bank.signed (b : Bank) (owner : Option Bytes) : Bool :=
  Config.mldsaVerifies (Config.bolnarKey ()) (sha3 (sliceZ b.bytes 0 0x100)) (sliceZ b.bytes 0x100 3309) &&
    (match owner with
      | some k => Config.mldsaVerifies k (sha3 (sliceZ b.bytes 0 0x1000)) (sliceZ b.bytes 0x1000 3309)
      | none => true)

/-- A valid bank (R380). -/
def Firmware.valid (f : Firmware) (b : Bank) : Bool :=
  b.formed && b.digestsOk && b.signed f.owner && decide (f.floor ≤ b.security) && !b.failed

/-- The bank that boots (R381). -/
def Firmware.choose (f : Firmware) : Option Nat :=
  if f.valid f.bank0 && !(f.valid f.bank1 && decide (f.bank0.security < f.bank1.security)) then some 0
  else if f.valid f.bank1 then some 1 else none

/-- A bank changed. -/
def Firmware.setBank (f : Firmware) (n : Nat) (g : Bank → Bank) : Firmware :=
  if n = 0 then { f with bank0 := g f.bank0 } else { f with bank1 := g f.bank1 }

/-- A bank with its header erased. -/
def Bank.erase (b : Bank) : Bank := { b with bytes := List.replicate 0x2000 0 ++ b.bytes.drop 0x2000 }

/-! ## Attestation log (R395) -/

/-- The device-set object that is installed, without its signature (R389). -/
def deviceSetBytes (version : Nat) (ids : List U32) : Bytes :=
  toLe 2 2 ++ toLe 2 0 ++ toLe 4 version ++ toLe 4 ids.length ++ toLe 4 0 ++ (ids.map fun d => toLe 4 d.toNat).flatten

/-- An entry of 64 bytes. -/
def Measure.bytes (m : Measure) : Bytes :=
  toLe 1 m.kind ++ toLe 1 m.bank ++ toLe 2 0 ++ toLe 4 m.version ++ toLe 8 m.time ++ sliceZ m.digest 0 48

/-- The log with an entry appended; a full log has its entry 31 replaced. -/
def addMeasure (l : List Measure) (m : Measure) : List Measure := if l.length ≥ 32 then l.set 31 m else l ++ [m]

/-- Entries 0 to 4 of a boot from a bank. -/
def State.bootMeasures (s : State) (n : Nat) : List Measure :=
  let b := s.fw.bank n
  let set := match s.fw.deviceSet with
    | some d => (d.1, sha3 (deviceSetBytes d.1 d.2))
    | none => (0, [])
  [{ kind := 0, bank := n, version := 0, time := s.keeper.time, digest := Config.bootRomDigest () },
   { kind := 1, bank := n, version := 0, time := s.keeper.time, digest := (s.fw.owner.map sha3).getD [] },
   { kind := 2, bank := n, version := b.security, time := s.keeper.time, digest := sha3 (sliceZ b.bytes 0 0x1000) },
   { kind := 3, bank := n, version := b.keeperVersion, time := s.keeper.time, digest := sliceZ b.bytes 0x28 48 },
   { kind := 4, bank := n, version := set.1, time := s.keeper.time, digest := set.2 }]

/-- The keeper loads the Nerur image of a bank, appends entry 5 and waits for Nerur to report ready (R382, R395). -/
def State.loadNerur (s : State) (n : Nat) : State :=
  let b := s.fw.bank n
  s.setFw fun f => { f with
    booted := n, nerurVersion := b.nerurVersion, security := b.security, awaiting := true
    measures := addMeasure f.measures
      { kind := 5, bank := n, version := b.nerurVersion, time := s.keeper.time, digest := sliceZ b.bytes 0x58 48 } }

/-- The recovery state (R384): the resets under way end, management and the device stay in reset, Switrak runs for M0; the boot ROM's own
entries stand in the attestation log. -/
def State.recover (s : State) : State :=
  (s.setFw fun f => { f with
    recovery := true, awaiting := false, raiseFloor := false
    measures := if f.measures.isEmpty then (s.bootMeasures 0).take 2 else f.measures }).setKeeper fun k =>
    { k with device := 2, management := 2, switrak := 0, resets := [] }

/-- Nerur loaded from the bank that R381 chooses, or the recovery state (R382, R384). -/
def State.chooseAndLoad (s : State) : State :=
  match s.fw.choose with
  | some n => s.loadNerur n
  | none => s.recover

/-! ## The record of MAQUETTE (R310, R311) -/

/-- Generation of the ACTIVE weight slot. -/
def Job.activeGeneration (b : Job) : Nat := match b.hinge with
  | some h => (h.slot h.active).generation
  | none => 0

/-- A job entry. -/
def State.jobEntry (s : State) (j : Nat) : Bytes :=
  let b := s.job j
  if b.state = 0 then List.replicate 32 0
  else
    let fl := (if b.classF then 0 else 1) + (if s.strict j then 2 else 0) + (if b.train.openEpoch.isSome then 4 else 0) +
      (if b.hinge.isSome then 8 else 0)
    toLe 1 b.state ++ toLe 1 fl ++ toLe 2 (b.cores.filter fun c => !(s.core c).fenced).length ++ toLe 4 0 ++ toLe 8 (b.train.committed.getD ones64) ++ toLe 8 b.memberEpoch ++
      toLe 4 b.activeGeneration ++ toLe 4 0

/-- The job entries of the shadow: as Nerur keeps them, or as they stood when it stopped. -/
def State.jobEntries (s : State) : Bytes :=
  match s.keeper.frozen with
  | some b => sliceZ b 0 2048
  | none => ((List.range 64).map s.jobEntry).flatten

/-- A queue entry. -/
def Ring.entry (q : Ring) : Bytes := toLe 4 q.head ++ toLe 2 q.inProgress ++ toLe 1 q.state ++ toLe 1 q.cause

/-- The deepest idle state that every unit has reached (R410). -/
def State.idleState (s : State) : Nat :=
  if s.power.standby then 4
  else if s.dies.all fun d => d.gated then 3
  else (((List.range Config.coreSlots).filter fun c => s.enabled c).map fun c => if (s.core c).fenced then 2 else (s.core c).idle).foldl min 2

/-- A set of cores as 24 bytes. -/
def State.coreBits (s : State) (p : Core → Bool) : Bytes := toLe 24 (maskOf ((List.range Config.coreSlots).filter fun c => p (s.core c)))

/-- The byte of a port. -/
def Port.entry (x : Port) : Byte := BitVec.ofNat 8 (x.state % 8 + (if x.domain = 1 then 128 else 0))

/-- Job contexts whose entries show a loaded job. -/
def loadedMask (entries : Bytes) : Nat :=
  maskOf ((List.range 64).filter fun j => let st := fieldN entries (32 * j) 1; st != 0 && st != 1)

/-- The flags byte. -/
def State.maquetteFlags (s : State) : Nat :=
  (if s.keeper.detEnforced then 1 else 0) + (if s.keeper.shadowAge > 10000 then 2 else 0) + (if s.keeper.fenceAll then 4 else 0) +
    (if s.keeper.lasersOff != 0 then 8 else 0)

/-- The 3,360-byte record. -/
def State.maquette (s : State) : Bytes :=
  let jobs := s.jobEntries
  toLe 2 1 ++ toLe 2 3360 ++ toLe 4 s.ident.signature.toNat ++ toLe 4 s.ident.device.toNat ++ toLe 2 s.ident.cores ++ toLe 1 s.ident.stepping ++
    toLe 1 s.maquetteFlags ++ toLe 8 s.keeper.maquettes ++ toLe 8 s.keeper.logSeq ++ toLe 4 s.keeper.shadowAge ++ toLe 2 s.health.score ++
    toLe 1 ((if s.health.worn then 1 else 0) + (if s.health.retire then 2 else 0)) ++ toLe 1 s.idleState ++ toLe 4 s.fw.trips ++ toLe 4 0 ++
    s.coreBits (fun c => c.fenced || c.domain == 1) ++ s.coreBits (fun c => c.domain == 2) ++ toLe 4 s.dieStates ++
    (List.range 16).map (fun p => (s.port p).entry) ++ toLe 1 s.keeper.switrak ++ toLe 1 s.keeper.management ++ toLe 2 0 ++
    toLe 8 (loadedMask jobs) ++ List.replicate 128 0 ++ jobs ++ ((List.range 132).map fun q => (s.ring q).entry).flatten

/-! ## Log entries and the dump -/

/-- An error-log entry of 64 bytes (R339). -/
def LogEntry.bytes (e : LogEntry) : Bytes :=
  let b := toLe 8 e.seq ++ toLe 8 e.time ++ toLe 2 e.code ++ toLe 1 e.cls ++ toLe 1 e.domain.kind ++ toLe 2 e.domain.index ++ toLe 2 e.job ++
    toLe 8 e.arg0 ++ toLe 8 e.arg1 ++ toLe 8 e.arg2 ++ toLe 8 e.step ++ toLe 4 0
  b ++ toLe 4 (crc32c b).toNat

/-- CH_STATUS and CH_PC of the channel with a physical number at a core or on a die. -/
def State.physChan (s : State) (die : Bool) (n i : Nat) : Bytes :=
  let hit := s.jobs.findSome? fun b => b.chans.find? fun c => c.phys == i && c.decl.die == die &&
    (if die then c.owner == n else ((b.tasks[c.owner]?).map (·.home)) == some n)
  match hit with
  | some c => toLe 8 c.status ++ toLe 8 c.pcReg
  | none => List.replicate 16 0

/-- Section 3: the 16 channels of every core slot, then the 32 of every die. -/
def State.chanSection (s : State) : Bytes :=
  ((List.range Config.coreSlots).flatMap fun c => (List.range 16).flatMap fun i => s.physChan false c i) ++
    (List.range 4).flatMap fun d => (List.range 32).flatMap fun i => s.physChan true d i

/-- The sections of a dump: kind and bytes; those whose encoding is not published are free values (log entry 8). -/
def State.dumpSections (s : State) (id : Nat) : List (Nat × Bytes) :=
  let open_ := fun (k : Nat) => (k, (Config.dumpSection k id).take 0x800_0000)
  [(1, s.maquette), (2, (s.keeper.log.map LogEntry.bytes).flatten), (3, s.chanSection), open_ 4, open_ 5,
   (6, ((List.range 16).map fun p => (s.port p).record).flatten),
   (7, ((List.range 132).map fun q => toLe 8 (s.ring q).cfg ++ toLe 4 (s.ring q).tail ++ toLe 4 (s.ring q).head).flatten), open_ 8, open_ 9]

/-- Directory entries of sections laid one after another at 64-byte boundaries. -/
def dumpDirectory : Nat → List (Nat × Bytes) → Bytes
  | _, [] => []
  | off, (k, b) :: r =>
    toLe 2 k ++ toLe 2 0 ++ toLe 4 off ++ toLe 4 b.length ++ toLe 4 (crc32c b).toNat ++ dumpDirectory (off + roundUp b.length 64) r

/-- The dump of a trigger (R354). -/
def State.dumpImage (s : State) (trigger : Nat) (d : Domain) : Bytes :=
  let id := s.keeper.dump.captured + 1
  let xs := s.dumpSections id
  let body := (xs.map fun x => padTo 64 x.2).flatten
  let head := toLe 2 1 ++ toLe 1 trigger ++ toLe 1 d.kind ++ toLe 2 d.index ++ toLe 2 xs.length ++ toLe 8 id ++ toLe 8 s.keeper.logSeq ++
    toLe 8 s.keeper.time ++ toLe 4 s.ident.signature.toNat ++ toLe 4 s.ident.device.toNat ++ toLe 8 (4096 + body.length) ++ dumpDirectory 4096 xs
  sliceZ head 0 4096 ++ body

/-- Bytes of the dump region (R117). -/
def dumpRegion : Nat := 0x4000_0000

/-- The keeper captures a dump, or counts it as dropped while one is LOCKED (R353). -/
def State.capture (s : State) (trigger : Nat) (d : Domain) : State :=
  if s.keeper.dump.locked then
    (s.setKeeper fun k => { k with dump := { k.dump with dropped := sat16 (k.dump.dropped + 1) } }).log 0x0106 2 d 0xFFFF trigger 0 0
  else
    let image := s.dumpImage trigger d
    (s.setMem fun m => (m.zero dumpBase dumpRegion).write dumpBase image).setKeeper fun k => { k.raise 3 with
      dump := { k.dump with
        valid := true, locked := true, id := k.dump.captured + 1, trigger := trigger, length := image.length, captured := k.dump.captured + 1 } }

end Sys2Proof.Machine
end

