-- ==== Sys2Proof/Machine/Resets.lean ====
section
/-! DEFINITION. Resets: the six steps of R346 with the effects of R347, R352 and R432, escalation (R348), the held state (R349), the
thermal trip and the gated state (R350, R433), RESET_N (R350, R421, R433), and the keeper's own entries NERUR_STALL and
CORRECTED_SUMMARY (R342, R344). -/

namespace Sys2Proof.Machine

/-! ## Domains (R345) -/

/-- Cores at some indices put in a domain state. -/
def setCores (cs : List Core) (p : Nat → Bool) (v : Nat) : List Core :=
  cs.mapIdx fun i (c : Core) => if p i then { c with domain := v } else c

/-- The state of a domain. -/
def State.domainState (s : State) (d : Domain) : Nat :=
  match d.kind with
  | 0 => s.keeper.device
  | 1 => (s.core d.index).domain
  | 2 => (s.die d.index).domain
  | 3 => (s.port d.index).domain
  | 4 => s.keeper.switrak
  | _ => s.keeper.management

/-- A domain and what it covers put in a state; dies that the thermal ward has gated stay gated. -/
def State.setDomain (s : State) (d : Domain) (v : Nat) : State :=
  match d.kind with
  | 1 => s.setCore d.index fun c => { c with domain := v }
  | 2 => { s.setDie d.index fun x => { x with domain := v } with cores := setCores s.cores (fun c => dieOf c == d.index) v }
  | 3 => s.setPort d.index fun x => { x with domain := v }
  | 4 => s.setKeeper fun k => { k with switrak := v }
  | 5 => s.setKeeper fun k => { k with management := v }
  | _ =>
    let s := s.setKeeper fun k => { k with device := v, management := v, switrak := v }
    let s := s.setFabric fun f => { f with ports := f.ports.map fun (x : Port) => { x with domain := v } }
    { s with
      cores := setCores s.cores (fun _ => true) v
      dies := s.dies.map fun (x : Die) => { x with domain := if s.keeper.tripped then 4 else v } }

/-- A reset that covers another: the device covers every domain, a die its cores, a domain itself (R345). -/
def covers (d x : Domain) : Bool := d.kind == 0 || d == x || (d.kind == 2 && x.kind == 1 && dieOf x.index == d.index)

/-- Whether a reset of the device is under way. -/
def State.deviceInReset (s : State) : Bool := s.keeper.resets.any fun x => x.domain.kind == 0

/-- The reset of a domain. -/
def State.resetOf (s : State) (d : Domain) : Option Reset := s.keeper.resets.find? fun x => x.domain == d

/-- The reset of a domain moved to a step. -/
def State.setStage (s : State) (d : Domain) (n : Nat) : State :=
  s.setKeeper fun k => { k with resets := k.resets.map fun (x : Reset) => if x.domain = d then { x with stage := n } else x }

/-- The unit of a domain out of its idle state (R410). -/
def State.wakeDomain (s : State) (d : Domain) : State :=
  let mine := fun (c : Nat) => d.kind == 0 || (d.kind == 1 && c == d.index) || (d.kind == 2 && dieOf c == d.index)
  let s := (List.range 4).foldl (fun s n => if d.kind = 0 ∨ (d.kind = 2 ∧ n = d.index) ∨ (d.kind = 1 ∧ n = dieOf d.index) then s.wakeDie n else s) s
  { s with cores := s.cores.mapIdx fun i (c : Core) => if mine i then { c with idle := 0 } else c }

/-- Every ring that runs halts with cause RESET (R286, R432). -/
def State.haltRings (s : State) : State :=
  s.setHost fun h => { h with rings := h.rings.map fun (q : Ring) => if q.state = 1 then { q with state := 2, cause := 6 } else q }

/-- Nerur stops: the job entries of the shadow keep their values (R311). -/
def State.freezeShadow (s : State) : State := s.setKeeper fun k => { k with frozen := some s.jobEntries }

/-! ## Step 1 -/

/-- The jobs that a reset stops, as they stand at step 1 (R347). -/
def State.resetJobs (s : State) (d : Domain) : List Nat :=
  (List.range 64).filter fun j =>
    let b := s.job j
    b.state != 0 && (match d.kind with
      | 1 => b.tasks.any fun k => !k.inSlot && k.core == d.index
      | 2 => (b.tasks.any fun k => dieOf k.home == d.index) || b.grants.any fun g => hbmDie g.addr == d.index
      | 5 => b.state != 2 && b.state != 7 && b.state != 8
      | 0 => true
      | _ => false)

/-- Class of the entries of a reset (R346). -/
def resetClass (d : Domain) (source : Nat) : Nat := if d.kind = 0 ∨ source = 4 then 6 else 5

/-- KP_RESET (R358). -/
def Keeper.noteReset (k : Keeper) (d : Domain) (source : Nat) : Keeper :=
  { k with lastKind := d.kind, lastIndex := d.index, lastCause := if d.kind = 0 then source else k.lastCause }

/-- Step 1 of R346: RESET_BEGIN, and the domain is fenced. -/
def State.beginReset (s : State) (d : Domain) (source : Nat) (noDump : Bool) : State :=
  let cls := resetClass d source
  let s := (s.log 0x0401 cls d 0xFFFF source 0 0).wakeDomain d
  let jobs := s.resetJobs d
  let s := s.setKeeper fun k => { k.noteReset d source with
    resets := (k.resets.filter fun x => !covers d x.domain) ++ [{ domain := d, source := source, cls := cls, noDump := noDump, stage := 1, jobs := jobs }] }
  let s := s.setDomain d 1
  let s := if d.kind = 0 ∨ d.kind = 4 ∨ d.kind = 5 then s.haltRings else s
  if d.kind = 0 ∨ d.kind = 5 then s.freezeShadow.setFw fun f => { f with awaiting := false } else s

/-! ## Step 3 -/

/-- A test command that a reset of its core ends (R346, R372). -/
def State.endTests (s : State) (p : Nat → Bool) : State :=
  let cmds := ((List.range Config.coreSlots).filter p).flatMap fun c => (s.core c).testCmds
  let s := cmds.dedup.foldl (fun s r => s.reply r stAborted 0 0) s
  { s with cores := s.cores.map fun (c : Core) => { c with testCmds := c.testCmds.filter fun r => !cmds.contains r } }

/-- A LEND or RECLAIM that a reset of one of its cores ends. -/
def State.endLending (s : State) (p : Nat → Bool) : State :=
  (List.range 64).foldl (fun s j => match (s.job j).lending with
    | some (r, cores) => if cores.any p then (s.setJob j fun b => { b with lending := none }).reply r stAborted 0 0 else s
    | none => s) s

/-- A command in progress ended without a reply (R347). -/
def State.lateCmd (s : State) (c : Cmd) : State :=
  (s.log 0x0101 2 { kind := 5, index := 0 } c.job c.ref.queue (fieldN c.header 4 2) stAborted).dropCmd c.ref

/-- Every command in progress ended without a reply. -/
def State.endCommands (s : State) : State :=
  let s := (List.range 132).foldl (fun s q => ((s.ring q).cmds.filter fun c => !c.ended).foldl (fun s c => s.lateCmd c) s) s
  let s := s.dropWaiting fun w => match w.1 with
    | .cmd _ => true
    | _ => false
  { s with
    cores := s.cores.map fun (c : Core) => { c with testCmds := [] }
    jobs := s.jobs.map fun (b : Job) => { b with
      waits := [], lending := none, vecLoan := none
      hinge := b.hinge.map fun (h : Hinge) => { h with switch := h.switch.map fun x => (x.1, x.2.1, x.2.2.1, none) }
      member := b.member.map fun (m : Membership) => { m with removals := [] }
      serving := { b.serving with changes := b.serving.changes.map fun x => (x.1, x.2.1, none) } } }

/-- Work of Nerur under way in a job is given up: the hinge's copy and a RESHARD. -/
def State.abortJobWork (s : State) (j : Nat) : State := (s.hingeAbort j stAborted).reshardLost j stAborted

/-- Far-tier and host accesses under way end (R347). -/
def State.endFar (s : State) : State :=
  let reqs := s.host.far
  reqs.foldl (fun s x => s.farRefused x) (s.setHost fun h => { h with far := [] })

/-- Step 3 of R346 with the effects of R347 on jobs and commands. -/
def State.abortStep (s : State) (x : Reset) : State :=
  let stop := fun (s : State) => x.jobs.foldl (fun s j => s.faultStop j stAborted true) s
  match x.domain.kind with
  | 1 => ((stop s).endTests fun c => c == x.domain.index).endLending fun c => c == x.domain.index
  | 2 => ((stop s).endTests fun c => dieOf c == x.domain.index).endLending fun c => dieOf c == x.domain.index
  | 3 => s.endPort x.domain.index
  | 4 => s.endFar
  | 5 => stop ((List.range 64).foldl (fun s j => s.abortJobWork j) s.endCommands)
  | _ => s.endCommands.endFar

/-! ## Steps 4 and 5 -/

/-- Whether a reset captures a dump at step 4 (R353). -/
def Reset.dumps (x : Reset) : Bool :=
  x.source == 4 || (!x.noDump && x.source != 1 && (x.domain.kind == 0 || x.domain.kind == 2 || x.domain.kind == 5))

/-- A channel idle, its state discarded (R112). -/
def Chan.cleared (c : Chan) : Chan := { decl := c.decl, owner := c.owner, phys := c.phys, task := c.task, home := c.home }

/-- A task whose state lay on a core that has been reset. -/
def Task.lost (k : Task) : Task :=
  { k with inSlot := true, vregs := [], tiles := [], tileKey := 0, scalar := 0, scalar2 := 0, phases := [], pace := none, block := none }

/-- Cores reset: workspace zeroed, the arrays and the controller fresh, core channels idle (R83, R112, R347). -/
def State.freshCores (s : State) (p : Nat → Bool) (lost : List TaskRef) : State :=
  let s := lost.foldl (fun s t => match s.task t with
    | some k => ((s.setMem fun m => m.zero (wsKey t.job k.home 0) wsBytes).setTask t Task.lost).setJob t.job fun b =>
        { b with chans := b.chans.map fun (c : Chan) => if c.ofTask t.task then c.cleared else c }
    | none => s) s
  { s with cores := s.cores.mapIdx fun i (c : Core) => if p i then
      { c with sliceOver := false, owed := [], dispute := none, idle := 0, test := if c.test = 3 then 0 else c.test } else c }

/-- The tasks whose state lies on cores. -/
def State.tasksAt (s : State) (p : Nat → Bool) : List TaskRef :=
  (List.range 64).flatMap fun j => (List.range (s.job j).tasks.length).filterMap fun i =>
    match (s.job j).tasks[i]? with
    | some k => if !k.inSlot && p k.core then some { job := j, task := i } else none
    | none => none

/-- A die reset: die channels idle, event counters zero, update queues empty; HBM keeps its contents (R112, R347). -/
def State.freshDie (s : State) (d : Nat) : State :=
  let s := s.setDie d fun x => { x with lines := List.replicate 256 {} }
  { s with
    hbm := s.hbm.mapIdx fun h (x : Stack) => if h / 3 = d then { x with queue := [] } else x
    jobs := s.jobs.map fun (b : Job) => { b with chans := b.chans.map fun (c : Chan) => if c.decl.die ∧ c.owner = d then c.cleared else c } }

/-- A port after its reset: DOWN with its counters zero, its role kept (R347). -/
def Port.fresh (x : Port) : Port :=
  { role := x.role, ring := x.ring, dateline := x.dateline, chain := x.chain, size := x.size, expect := x.expect, domain := x.domain }

/-- A core after a device reset: what its margins, its fence and its tests hold stays (R352, R368). -/
def Core.fresh (c : Core) : Core :=
  { domain := c.domain, fenced := c.fenced, fenceDue := c.fenceDue, delay := c.delay, volt := c.volt, liveMargins := (c.delay, c.volt)
    activeUs := c.activeUs, test := if c.test = 3 then 0 else c.test, retest := c.retest }

/-- Power after a device reset: full rows, 2,000 MHz, 2,250 W, no device budget (R401, R411). -/
def Power.fresh (p : Power) : Power :=
  { p with rows := 0, target := 2000, cap := 2250, overRun := 0, acted := false, quiesced := false, budget := 0, standby := false }

/-- HBM and workspace zeroed but for the dump region (R352, R420). -/
def Memory.fresh (m : Memory) : Memory :=
  { cells := m.cells.filter fun c => decide (dumpBase ≤ c.1) && decide (c.1 < dumpBase + dumpRegion)
    ecc := m.ecc.filter fun e => decide (dumpBase ≤ 8 * e.1) && decide (8 * e.1 < dumpBase + dumpRegion) }

/-- A device reset (R347, R352): job contexts EMPTY, memory zero, ports DOWN, rings disabled, settings gone. -/
def State.freshDevice (s : State) : State :=
  let lit := !s.power.evt1Low
  { s with
    mem := s.mem.fresh
    jobs := List.replicate 64 {}
    cores := s.cores.map Core.fresh
    dies := s.dies.map fun (x : Die) => { milliVolts := x.milliVolts, deci := x.deci, paceMhz := x.paceMhz, throttled := x.throttled, domain := x.domain }
    hbm := s.hbm.map fun (x : Stack) => { scrub := x.scrub }
    fabric := { ports := s.fabric.ports.map fun (x : Port) => { domain := x.domain } }
    host := { rings := s.host.rings.map fun (q : Ring) => { enabling := q.enabling }, windows := s.host.windows, farRate := s.host.farRate
              farNext := s.host.farNext, far := s.host.far.filter fun x => x.use == .bulk }
    keeper := { s.keeper with fenceAll := false, lasersOff := 0, switrakLaser := lit }
    power := s.power.fresh
    waiting := [] }

/-- Nerur loaded for a reset: from the bank that runs; after an activation, and out of the recovery state, from the one that
R381 chooses (R382, R384, R386). -/
def State.reload (s : State) (source : Nat) : State :=
  if source = 6 ∨ s.fw.recovery then (s.setFw fun f => { f with recovery := false }).chooseAndLoad else s.loadNerur s.fw.booted

/-- Step 5 of R346. -/
def State.resetStep (s : State) (x : Reset) : State :=
  let d := x.domain
  let s := match d.kind with
    | 1 => s
    | 2 => s.freshDie d.index
    | 3 => (s.setPort d.index Port.fresh).setKeeper fun k => { k with lasersOff := if bitOf k.lasersOff d.index then k.lasersOff - 2 ^ d.index else k.lasersOff }
    | 0 => s.freshDevice
    | _ => s
  let s := (s.setDomain d 2).setStage d 5
  if d.kind = 0 ∨ d.kind = 5 then s.reload x.source else s

/-- RESET_DRAIN_END (R346): steps 3 to 5, or steps 3 and 4 and a wait, in reset, while RESET_N holds the device (R350, R421, R433). -/
def doResetDrainEnd (d : Domain) (s : State) : State :=
  match s.resetOf d with
  | none => s
  | some x =>
    if x.stage ≠ 1 then s
    else
      let mine := fun (c : Nat) => match d.kind with
        | 1 => c == d.index
        | 2 => dieOf c == d.index
        | _ => false
      let lost := s.tasksAt mine
      let s := s.abortStep x
      let s := if x.dumps then s.capture x.source d else s
      let s := s.freshCores mine lost
      if d.kind = 0 ∧ s.power.resetLow then (s.setDomain d 2).setStage d 3 else s.resetStep x

/-- RESET_DRAIN_END. -/
def execResetDrainEnd (d : Domain) (s : State) : Host.Outcome State Fault Refusal := s.become (doResetDrainEnd d s)

/-! ## Step 6 -/

/-- Nerur updates the shadow again. -/
def Keeper.thaw (k : Keeper) : Keeper := { k with frozen := none, shadowAge := 0, stallLogged := false }

/-- The fence released (R346): the domain runs; after a thermal trip the device stays gated (R350). A boot out of the recovery state
brings up every domain. -/
def State.release6 (s : State) (d : Domain) (boots : Bool) : State :=
  if d.kind = 0 ∨ boots then
    let s := (s.setDomain devDomain 0).setKeeper Keeper.thaw
    if s.keeper.tripped then { s.setKeeper fun k => { k with device := 4 } with cores := setCores s.cores (fun _ => true) 4 } else s
  else
    let s := s.setDomain d 0
    match d.kind with
    | 4 => s.setKeeper fun k => { k with lasersOff := k.lasersOff % 2 ^ 16, switrakLaser := !s.power.evt1Low }
    | 5 => s.setKeeper Keeper.thaw
    | _ => s

/-- RESET_DONE (R346): step 6, once Nerur is ready where it has been loaded and RESET_N is high where it holds the device. -/
def doResetDone (d : Domain) (us : Nat) (s : State) : State :=
  match s.resetOf d with
  | none => s
  | some x =>
    let nerur := d.kind = 0 ∨ d.kind = 5
    if x.stage ≠ 5 ∨ (nerur ∧ s.fw.awaiting) ∨ (d.kind = 0 ∧ s.power.resetLow) then s
    else
      let boots := d.kind = 5 ∧ s.keeper.device = 2
      let s := (s.release6 d boots).setKeeper fun k => { k with resets := k.resets.filter fun y => !(y.domain == d) }
      (s.log 0x0402 x.cls d 0xFFFF us 0 0).fillAll

/-- RESET_DONE. -/
def execResetDone (d : Domain) (durationUs : Nat) (s : State) : Host.Outcome State Fault Refusal := s.become (doResetDone d durationUs s)

/-- The part powered up and booted: a device reset that begins at step 5, nothing being left to fence (R353, R356, R420). -/
def State.bootFrom (s : State) (source : Nat) (load : State → State) : State :=
  let s := s.log 0x0401 6 devDomain 0xFFFF source 0 0
  let stage := if s.power.resetLow then 3 else 5
  let s := s.freshDevice.setKeeper fun k => { k.noteReset devDomain source with
    resets := [{ domain := devDomain, source := source, cls := 6, noDump := true, stage := stage }] }
  load (s.setDomain devDomain 2)

/-! ## GOODBYE, escalation and the held state -/

/-- GOODBYE sent on ports that are UP; LEAVING from then on (R241, R356). -/
def State.sayGoodbye (s : State) (ports : List Nat) : State :=
  let up := ports.filter fun p => (s.port p).state == 2
  let s := up.foldl (fun s p => s.controlPort p 2 0 []) s
  s.setFabric fun f => { f with leaving := true, goodbyes := (f.goodbyes.filter fun g => !up.contains g.1) ++ up.map fun p => (p, 2) }

/-- GOODBYE_REPEAT (R356): 100 µs after the previous send, GOODBYE goes out again, three times in all. -/
def doGoodbyeRepeat (s : State) : State :=
  let due := s.fabric.goodbyes
  let s := (due.filter fun g => (s.port g.1).state == 2).foldl (fun s g => s.controlPort g.1 2 0 []) s
  s.setFabric fun f => { f with goodbyes := (due.map fun g => (g.1, g.2 - 1)).filter fun g => g.2 != 0 }

/-- GOODBYE_REPEAT. -/
def execGoodbyeRepeat (s : State) : Host.Outcome State Fault Refusal := s.become (doGoodbyeRepeat s)

/-- The domain that is reset when a reset fails (R345). -/
def onFailure (d : Domain) : Domain := if d.kind = 1 then dieDomain (dieOf d.index) else devDomain

/-- ESCALATE (R348): the reset is abandoned, its domain escalated, and the next domain reset from step 1. -/
def doEscalate (d : Domain) (step : Nat) (s : State) : State :=
  match s.resetOf d with
  | none => s
  | some _ =>
    if d.kind = 0 then s
    else
      let s := ((s.log 0x0501 6 d 0xFFFF d.kind d.index step).setDomain d 3).setKeeper fun k =>
        { k.raise 2 with resets := k.resets.filter fun x => !(x.domain == d) }
      let next := onFailure d
      let s := if next.kind = 0 then s.sayGoodbye (List.range 16) else s
      s.beginReset next 4 false

/-- ESCALATE. -/
def execEscalate (d : Domain) (failedStep : Nat) (s : State) : Host.Outcome State Fault Refusal := s.become (doEscalate d failedStep s)

/-- Every laser dark: fabric ports DOWN, their transactions ended (R356). -/
def State.darken (s : State) (ports : List Nat) (switrak : Bool) : State :=
  let s := ports.foldl (fun s p => (s.endPort p).setPort p fun x => { x with state := 0, laser := false, retrainTimes := [] }) s
  if switrak then s.setKeeper fun k => { k with switrakLaser := false } else s

/-- DEVICE_HELD (R349): a device reset has not completed within 2 s of the moment it may run. -/
def doDeviceHeld (step : Nat) (s : State) : State :=
  match s.resetOf devDomain with
  | none => s
  | some x =>
    if x.stage = 3 ∨ s.power.resetLow then s
    else
      let s := ((s.log 0x0501 6 devDomain 0xFFFF 0 0 step).darken (List.range 16) true).setDomain devDomain 4
      (s.setKeeper fun k => { k.raise 2 with device := 3, held := true, resets := [] }).setFw fun f => { f with awaiting := false }

/-- DEVICE_HELD. -/
def execDeviceHeld (failedStep : Nat) (s : State) : Host.Outcome State Fault Refusal := s.become (doDeviceHeld failedStep s)

/-! ## The thermal trip (R350) -/

/-- Whether the keeper and the wards act on a part that has power and is neither off, held nor gated. -/
def State.alive (s : State) : Bool := s.power.input && !s.keeper.off && !s.keeper.held && !s.keeper.tripped

/-- THERMAL_TRIP: a sensor of a die reads 105 °C or more. -/
def doThermalTrip (die deci : Nat) (s : State) : State :=
  if !s.alive ∨ die ≥ 4 ∨ deci < 1050 then s
  else
    let s := { s with dies := s.dies.mapIdx fun i (x : Die) => { x with domain := 4, deci := if i = die then deci else x.deci } }
    let s := s.setKeeper fun k => { k with therm := true }
    let s := ((s.log 0x0502 6 (dieDomain die) 0xFFFF deci 0 0).setKeeper fun k => k.raise 1).capture 5 (dieDomain die)
    let s := s.setKeeper fun k => { k with tripped := true }
    if s.deviceInReset then s else s.beginReset devDomain 5 true

/-- THERMAL_TRIP. -/
def execThermalTrip (die deciCelsius : Nat) (s : State) : Host.Outcome State Fault Refusal := s.become (doThermalTrip die deciCelsius s)

/-! ## RESET_N -/

/-- RESET_N_FALL (R350, R421, R433): low for 10 µs. -/
def doResetNFall (s : State) : State :=
  if s.power.resetLow then s
  else
    let s := s.setPower fun p => { p with resetLow := true }
    if !s.alive ∨ s.deviceInReset then s else s.beginReset devDomain 3 false

/-- RESET_N_FALL. -/
def execResetNFall (s : State) : Host.Outcome State Fault Refusal := s.become (doResetNFall s)

/-- RESET_N_RISE (R433): a device reset that it held goes on. -/
def doResetNRise (s : State) : State :=
  let s := s.setPower fun p => { p with resetLow := false }
  match s.resetOf devDomain with
  | some x => if x.stage ≠ 3 then s else if s.fw.awaiting then s.setStage devDomain 5 else s.resetStep x
  | none => s

/-- RESET_N_RISE. -/
def execResetNRise (s : State) : Host.Outcome State Fault Refusal := s.become (doResetNRise s)

/-! ## Entries of the keeper's own (R342, R344) -/

/-- NERUR_STALL (R344): written once for a stall. -/
def doNerurStall (ageUs : Nat) (s : State) : State :=
  if !s.power.input ∨ ageUs ≤ 1000000 ∨ s.keeper.stallLogged then s
  else (s.log 0x0105 2 { kind := 5, index := 0 } 0xFFFF (sat32 ageUs) 0 0).setKeeper fun k =>
    { k.raise 4 with shadowAge := max k.shadowAge (sat32 ageUs), stallLogged := true }

/-- NERUR_STALL. -/
def execNerurStall (ageUs : Nat) (s : State) : Host.Outcome State Fault Refusal := s.become (doNerurStall ageUs s)

/-- Counts that have changed and may be reported now. -/
def Corrected.due (c : Corrected) (time : Nat) : Bool :=
  (c.words != 0 || c.retries != 0 || c.retrains != 0) && (match c.last with
    | some t => decide (t + 60000000 ≤ time)
    | none => true)

/-- CORRECTED_SUMMARY (R341, R342). -/
def doCorrectedSummary (d : Domain) (s : State) : State :=
  match s.keeper.corrected.find? fun c => c.domain == d && c.due s.keeper.time with
  | none => s
  | some c =>
    (s.log 0x0001 1 d 0xFFFF c.words c.retries c.retrains).setKeeper fun k => { k with
      corrected := k.corrected.map fun (x : Corrected) =>
        if x.domain = d then { x with words := 0, retries := 0, retrains := 0, last := some k.time } else x }

/-- CORRECTED_SUMMARY. -/
def execCorrectedSummary (d : Domain) (s : State) : Host.Outcome State Fault Refusal := s.become (doCorrectedSummary d s)

end Sys2Proof.Machine
end

