-- ==== Sys2Proof/Machine/Deadbolt.lean ====
section
/-! DEFINITION. The deadbolt path: the mailbox (R308, R309, R355), the deadbolt commands (R310, R343, R356, R357), writes of the
register window (R306, R358) and the I3C port (R360). -/

namespace Sys2Proof.Machine

/-! ## The mailbox -/

/-- The command that the mailbox holds: its parameters are the first param_length bytes of MB_PARAM. -/
def Mailbox.cmd (m : Mailbox) : Cmd :=
  { ref := { queue := 0xFFFF, enabling := 0, sequence := m.seq }, header := m.header, params := m.param.take (fieldN m.header 8 4) }

/-- MB_DATA and MB_REPLY written; DONE set and BUSY cleared (R309). -/
def State.mbReply (s : State) (status detail value : Nat) (data : Bytes) : State :=
  s.setKeeper fun k => { k with mailbox := { k.mailbox with
    reply := replyBytes k.mailbox.header 0xFFFF k.mailbox.seq status detail value, data := data.take 3840, done := true, busy := false } }

/-- Deadbolt opcodes. -/
def isDeadbolt (op : Nat) : Bool := decide (0x0F01 ≤ op) && decide (op ≤ 0x0F08)

/-- The header checks of R309 and R294. -/
def Mailbox.headerBad (m : Mailbox) : Bool :=
  let c := m.cmd
  c.cls != 3 || bitOf c.flags 0 || decide (c.flags > 3) || decide (fieldN m.header 8 4 > 64) || c.job != 0xFFFF ||
    (crc32c (m.header.take 28 ++ c.params)).toNat != fieldN m.header 0x1C 4

/-- MB_GO (R308, R309): a write of MB_CTRL. -/
def doMbGo (ctrl : U32) (s : State) : State :=
  let m := s.keeper.mailbox
  if !s.power.input ∨ !bitOf ctrl.toNat 0 then s
  else if m.busy then s.setKeeper fun k => { k with mailbox := { k.mailbox with refused := true } }
  else
    let s := s.setKeeper fun k => { k with mailbox := { k.mailbox with seq := bitsOf ctrl.toNat 8 8, done := false, busy := true } }
    if bitsOf ctrl.toNat 1 7 ≠ 0 ∨ bitsOf ctrl.toNat 16 16 ≠ 0 then s.mbReply stBadParam 0x00FFFFFF 0 m.data
    else if !isDeadbolt m.cmd.opcode then s.mbReply stBadOpcode 0 0 m.data
    else if m.headerBad then s.mbReply stBadParam 0x00FFFFFF 0 m.data
    else s

/-- MB_GO. -/
def execMbGo (ctrl : U32) (s : State) : Host.Outcome State Fault Refusal := s.become (doMbGo ctrl s)

/-- MB_REFUSED_CLEAR (R308): REFUSED is write-one-to-clear. -/
def execMbRefusedClear (s : State) : Host.Outcome State Fault Refusal :=
  s.become (if s.power.input then s.setKeeper fun k => { k with mailbox := { k.mailbox with refused := false } } else s)

/-- Deadbolt commands that the held state accepts (R349). -/
def heldOp (op : Nat) : Bool := op == 0x0F01 || op == 0x0F02 || op == 0x0F03 || op == 0x0F05 || op == 0x0F08

/-- Deadbolt commands that the recovery state answers (R384). -/
def recoveryDeadbolt (op : Nat) : Bool := op == 0x0F01 || op == 0x0F02 || op == 0x0F05 || op == 0x0F07 || op == 0x0F08

/-- A deadbolt command's row: it acts on the command in progress when that is its own (R349, R355, R384). -/
def mbRow (op : Nat) (act : Cmd → State → State) (s : State) : State :=
  let m := s.keeper.mailbox
  if !s.power.input ∨ !m.busy ∨ m.cmd.opcode ≠ op then s
  else if (s.keeper.held ∧ !heldOp op) ∨ (s.fw.recovery ∧ !recoveryDeadbolt op) then s.mbReply stBadState s.keeper.device 0 m.data
  else act m.cmd s

/-- A deadbolt command that passes its checks acts; else its first failure is answered. -/
def State.mbChecked (s : State) (cs : Checks) (act : State → State) : State :=
  match firstBad cs with
  | some (st, d) => s.mbReply st d 0 s.keeper.mailbox.data
  | none => act s

/-! ## MAQUETTE and LOG_READ -/

/-- MAQUETTE (R310, R311). -/
def doMaquette (s : State) : State :=
  mbRow 0x0F01 (fun c s => s.mbChecked [c.beyond 0] fun s =>
    (s.mbReply stOk 3360 0 s.maquette).setKeeper fun k => { k with maquettes := k.maquettes + 1 }) s

/-- MAQUETTE. -/
def execMaquette (s : State) : Host.Outcome State Fault Refusal := s.become (doMaquette s)

/-- Sequence number of the oldest entry held, or the one that the next entry will take (R343). -/
def Keeper.oldest (k : Keeper) : Nat := match k.log.head? with
  | some e => e.seq
  | none => k.logSeq + 1

/-- The entries that LOG_READ gives: at most `count` and 60, from the first held whose number is at least `first`. -/
def Keeper.logFrom (k : Keeper) (first count : Nat) : List LogEntry := (k.log.filter fun e => decide (first ≤ e.seq)).take (min count 60)

/-- LOG_READ (R343). -/
def doLogRead (s : State) : State :=
  mbRow 0x0F02 (fun c s => s.mbChecked [c.beyond 12] fun s =>
    let es := s.keeper.logFrom (c.p 0 8) (c.p 8 4)
    s.mbReply stOk es.length s.keeper.oldest (es.map LogEntry.bytes).flatten) s

/-- LOG_READ. -/
def execLogRead (s : State) : Host.Outcome State Fault Refusal := s.become (doLogRead s)

/-! ## DUMP_READ (R357) -/

/-- The controller of H0 on D0 is in reset, from step 5 to step 6 of a reset of D0 or of the device, or without power after
POWER_OFF. -/
def State.h0Fenced (s : State) : Bool :=
  s.keeper.off || s.keeper.resets.any fun x => x.stage == 5 && (x.domain == devDomain || x.domain == dieDomain 0)

/-- RELEASE (R353). -/
def State.releaseDump (s : State) : State := s.setKeeper fun k => { k with dump := { k.dump with locked := false } }

/-- DUMP_READ. -/
def doDumpRead (s : State) : State :=
  mbRow 0x0F03 (fun c s =>
    let off := c.p 0 8
    let len := c.p 8 4
    let bulk := bitOf (c.p 0xC 1) 0
    let release := bitOf (c.p 0xC 1) 1
    let host := c.p 0x10 8
    let d := s.keeper.dump
    s.mbChecked [(s.h0Fenced, stFenced, 0), (bulk && !s.switrakUp, stFenced, 0), (c.p 0xC 1 > 3, stBadParam, 0xC), c.reserved 0xD 3,
        (d.valid && decide (off + len > d.length), stBadParam, 0), (!bulk && decide (len > 3840), stBadParam, 8),
        (bulk && len != 0 && !s.host.granted host len, stBadParam, 0x10), c.beyond 0x18, (!d.valid || d.bulk.isSome, stBadState, d.bits)] fun s =>
      if bulk && len != 0 then
        ((s.setKeeper fun k => { k with dump := { k.dump with bulk := some (off, len, host, release), done := 0 } }).farPut host
          (s.mem.read (dumpBase + off) len) 0 .bulk).mbReply stOk 0 0 s.keeper.mailbox.data
      else
        let data := if len = 0 then s.keeper.mailbox.data else s.mem.read (dumpBase + off) len
        (if release then s.releaseDump else s).mbReply stOk 0 0 data) s

/-- DUMP_READ. -/
def execDumpRead (s : State) : Host.Outcome State Fault Refusal := s.become (doDumpRead s)

/-- BULK_COPY_DONE (R357): every write of the copy has been acknowledged. -/
def doBulkCopyDone (s : State) : State :=
  match s.keeper.dump.bulk with
  | none => s
  | some (_, len, _, release) =>
    if s.host.far.any fun x => x.use == .bulk then s
    else
      let s := s.setKeeper fun k => { k with dump := { k.dump with bulk := none, done := len } }
      if release then s.releaseDump else s

/-- BULK_COPY_DONE. -/
def execBulkCopyDone (s : State) : Host.Outcome State Fault Refusal := s.become (doBulkCopyDone s)

/-- DUMP_COPY_FAIL (R341, R357): a write of the copy has failed; the dump stays LOCKED. -/
def doDumpCopyFail (written cause : Nat) (s : State) : State :=
  match s.keeper.dump.bulk with
  | none => s
  | some (_, len, host, _) =>
    if written ≥ len ∨ !(cause == 1 || cause == 2) then s
    else
      let s := (s.setKeeper fun k => { k with dump := { k.dump with bulk := none, done := written } }).setHost fun h =>
        { h with far := h.far.filter fun x => !(x.use == .bulk) }
      s.log 0x0109 2 { kind := 6, index := 0 } 0xFFFF written (host + written) cause

/-- DUMP_COPY_FAIL. -/
def execDumpCopyFail (bytesWritten cause : Nat) (s : State) : Host.Outcome State Fault Refusal := s.become (doDumpCopyFail bytesWritten cause s)

/-! ## PORT_GOODBYE and LASERS_OFF (R356) -/

/-- The members of a 16-bit mask. -/
def portsOf (mask : Nat) : List Nat := (List.range 16).filter fun p => bitOf mask p

/-- Ports that are UP. -/
def State.upPorts (s : State) : List Nat := (List.range 16).filter fun p => (s.port p).state == 2

/-- PORT_GOODBYE. -/
def doPortGoodbye (s : State) : State :=
  mbRow 0x0F04 (fun c s => s.mbChecked [(s.deviceInReset, stFenced, 0), c.beyond 2] fun s =>
    let named := if c.p 0 2 = 0 then s.upPorts else (portsOf (c.p 0 2)).filter fun p => s.upPorts.contains p
    (s.sayGoodbye named).mbReply stOk (maskOf named) 0 s.keeper.mailbox.data) s

/-- PORT_GOODBYE. -/
def execPortGoodbye (s : State) : Host.Outcome State Fault Refusal := s.become (doPortGoodbye s)

/-- LASERS_OFF. -/
def doLasersOff (s : State) : State :=
  mbRow 0x0F05 (fun c s => s.mbChecked [(decide (c.p 0 4 ≥ 2 ^ 17), stBadParam, 0), c.beyond 4] fun s =>
    let mask := if c.p 0 4 = 0 then 0xFFFF else c.p 0 4
    ((s.darken (portsOf mask) (bitOf mask 16)).setKeeper fun k => { k with lasersOff := k.lasersOff ||| mask }).mbReply stOk 0 0
      s.keeper.mailbox.data) s

/-- LASERS_OFF. -/
def execLasersOff (s : State) : Host.Outcome State Fault Refusal := s.become (doLasersOff s)

/-! ## FENCE_ALL -/

/-- Jobs that FENCE_ALL stops. -/
def State.fenceJobs (s : State) : List Nat := (List.range 64).filter fun j => [1, 3, 4, 5, 6].contains (s.job j).state

/-- Commands in progress. -/
def State.openCmds (s : State) : List Cmd := s.host.rings.flatMap fun q => q.cmds.filter fun c => !c.ended

/-- A DMA access to the far tier. -/
def isDma : FarUse → Bool
  | .chanWrite _ => true
  | .chanRead _ _ => true
  | _ => false

/-- Outstanding requests of every kind: commands, DMA accesses, fabric transactions (R341). -/
def State.outstanding (s : State) : Nat :=
  s.openCmds.length + (s.host.far.filter fun x => isDma x.use).length + s.fabric.txns.length

/-- Steps 1 to 3 of R346 for every domain but the keeper: commands are answered, jobs under way stop, accesses under way end, every
ring halts and every domain is fenced; the device's control class runs on. -/
def State.fenceEvery (s : State) : State :=
  let jobs := s.fenceJobs
  let s := s.openCmds.foldl (fun s c => s.reply c.ref stAborted 0 0) s
  let s := jobs.foldl (fun s j => s.faultStop j stFenced true) s
  let s := s.endCommands
  let s := (s.setHost fun h => { h with far := h.far.filter fun x => !isDma x.use }).setFabric fun f => { f with txns := [] }
  let s := s.haltRings.freezeShadow
  let s := s.setKeeper fun k => { k with management := 1, switrak := 1 }
  let s := s.setFabric fun f => { f with ports := f.ports.map fun (x : Port) => { x with domain := 1 } }
  { s with cores := setCores s.cores (fun _ => true) 1, dies := s.dies.map fun (x : Die) => { x with domain := 1, gated := false } }

/-- FENCE_ALL. -/
def doFenceAll (s : State) : State :=
  mbRow 0x0F06 (fun c s => s.mbChecked [c.beyond 0] fun s =>
    if s.keeper.off then (s.setKeeper fun k => { k with fenceAll := true }).mbReply stOk 0 0 s.keeper.mailbox.data
    else
      let n := s.outstanding
      let jobs := s.fenceJobs.length
      let s := s.fenceEvery.setKeeper fun k => { k with fenceAll := true }
      ((s.log 0x0403 5 devDomain 0xFFFF n jobs 0).capture 7 devDomain).mbReply stOk 0 0 s.keeper.mailbox.data) s

/-- FENCE_ALL. -/
def execFenceAll (s : State) : Host.Outcome State Fault Refusal := s.become (doFenceAll s)

/-! ## DEVICE_RESET -/

/-- The missing unit that an index names (R356). -/
def State.indexBad (s : State) (kind index : Nat) : Bool :=
  (kind == 1 && !s.enabled index) || (kind == 2 && decide (index > 3)) || (kind == 3 && decide (index > 15))

/-- The domain that DEVICE_RESET names. -/
def resetDomain (kind index : Nat) : Domain := { kind := kind, index := if kind = 1 ∨ kind = 2 ∨ kind = 3 then index else 0 }

/-- The hottest reading of the junction sensors, in 0.1 °C. -/
def State.hottest (s : State) : Nat := (s.dies.map (·.deci)).foldl max 0

/-- Why DEVICE_RESET answers BAD_STATE, and the detail word (R349, R350, R356, R421). -/
def State.resetRefused (s : State) (kind : Nat) (d : Domain) : Option Nat :=
  if s.power.resetLow then some s.keeper.device
  else if s.keeper.off then (if kind = 0 then none else some 4)
  else if s.deviceInReset then some s.keeper.device
  else if s.keeper.tripped then
    (if kind ≠ 0 then some 4 else if s.hottest ≥ 850 then some (4 + s.hottest / 10 * 2 ^ 16) else none)
  else if s.keeper.resets.any fun x => covers x.domain d then some (s.domainState d)
  else if s.domainState d = 3 then some 3 else none

/-- The reset or the power-up that a DEVICE_RESET begins. -/
def State.startReset (s : State) (d : Domain) (noDump : Bool) : State :=
  if s.keeper.off then
    (s.setKeeper fun k => { k with off := false, tripped := false, therm := false }).bootFrom 2 fun s => s.reload 2
  else
    let s := if d.kind = 0 then s.setKeeper fun k => { k with tripped := false, therm := false } else s
    s.beginReset d 2 noDump

/-- DEVICE_RESET. -/
def doDeviceReset (s : State) : State :=
  mbRow 0x0F07 (fun c s =>
    let kind := c.p 0 1
    let d := resetDomain kind (c.p 2 2)
    s.mbChecked [(decide (kind > 5), stBadParam, 0), (decide (c.p 1 1 > 1), stBadParam, 1), (s.indexBad kind (c.p 2 2), stBadParam, 2), c.beyond 4,
        ((s.resetRefused kind d).isSome, stBadState, (s.resetRefused kind d).getD 0)] fun s =>
      (s.startReset d (bitOf (c.p 1 1) 0)).mbReply stOk 0 0 s.keeper.mailbox.data) s

/-- DEVICE_RESET. -/
def execDeviceReset (s : State) : Host.Outcome State Fault Refusal := s.become (doDeviceReset s)

/-! ## POWER_OFF -/

/-- Power removed from every domain but the keeper and H0. -/
def State.powerOff (s : State) : State :=
  let s := ((s.setKeeper Keeper.mirror).darken (List.range 16) true).fenceEvery
  (((s.setDomain devDomain 4).setKeeper fun k => { k with off := true, tripped := false, resets := [] }).setFw fun f =>
    { f with awaiting := false }).setHost fun h => { h with far := [] }

/-- POWER_OFF. -/
def doPowerOff (s : State) : State :=
  mbRow 0x0F08 (fun c s => s.mbChecked [c.beyond 0] fun s => s.powerOff.mbReply stOk 0 0 s.keeper.mailbox.data) s

/-- POWER_OFF. -/
def execPowerOff (s : State) : Host.Outcome State Fault Refusal := s.become (doPowerOff s)

/-! ## Writes of registers -/

/-- KP_EVENT bits cleared by a write (R358, R359). -/
def State.clearEvents (s : State) (mask : Nat) : State :=
  s.setKeeper fun k => { k with event := k.event &&& (31 - mask % 32) }

/-- KP_EVENT_CLEAR. -/
def execKpEventClear (mask : U64) (s : State) : Host.Outcome State Fault Refusal :=
  s.become (if s.power.input then s.clearEvents mask.toNat else s)

/-- A write of MB_HEADER or MB_PARAM, ignored and marked while BUSY (R308). -/
def State.mbWrite (s : State) (o : Nat) (b : Bytes) : State :=
  s.setKeeper fun k =>
    let m := k.mailbox
    { k with mailbox := if m.busy then { m with refused := true }
      else if o < 0x20 then { m with header := (layBytes m.header o b).take 32 }
      else { m with param := (layBytes m.param (o - 0x20) b).take 64 } }

/-- An aligned write of 4 bytes of the always-on blocks: the keeper block and the mailbox (R306, R308, R358). -/
def State.keeperWrite (s : State) (o v : Nat) : State :=
  if o = 0x1028 then s.clearEvents v
  else if 0x3000 ≤ o ∧ o < 0x3060 then s.mbWrite (o - 0x3000) (toLe 4 v)
  else if o = 0x3060 then doMbGo (BitVec.ofNat 32 v) s
  else if o = 0x3068 ∧ bitOf v 2 then s.setKeeper fun k => { k with mailbox := { k.mailbox with refused := false } }
  else s

/-- A write of 4 bytes of RING_CFG keeps the other half. -/
def State.ringHalf (s : State) (o v : Nat) : State :=
  let q := o / 16
  let old := (s.ring q).cfg
  if o % 16 = 0 then s.ringWrite q (old / 2 ^ 32 * 2 ^ 32 + v) else s.ringWrite q (v * 2 ^ 32 + old % 2 ^ 32)

/-- A write of the doorbell block: RING_CFG whole or by halves, DOORBELL (R286, R287). -/
def State.doorbellWrite (s : State) (o size v : Nat) : State :=
  if o ≥ 0x840 then s
  else if o % 16 = 0 ∧ size = 8 then s.ringWrite (o / 16) v
  else if o % 16 < 8 then s.ringHalf o (v % 2 ^ 32)
  else if o % 16 = 8 then s.ringTail (o / 16) (v % 2 ^ 32)
  else s

/-- An access of the register window: 4 or 8 bytes, aligned (R306); only writable fields change. -/
def State.windowWrite (s : State) (o size v : Nat) : State :=
  if !(size == 4 || size == 8) ∨ o % size ≠ 0 then s
  else if 0x2000 ≤ o ∧ o < 0x3000 then s.doorbellWrite (o - 0x2000) size v
  else if size = 4 then s.keeperWrite o (v % 2 ^ 32)
  else (s.keeperWrite o (v % 2 ^ 32)).keeperWrite (o + 4) (v / 2 ^ 32 % 2 ^ 32)

/-- REGISTER_WRITE (R306). -/
def execRegisterWrite (offset size : Nat) (value : U64) (s : State) : Host.Outcome State Fault Refusal :=
  s.become (if s.windowOpen then s.windowWrite offset size value.toNat else s)

/-! ## I3C (R360) -/

/-- I3C_ENTDAA: the port takes a dynamic address under a provisional ID whose random part is drawn. -/
def doI3cEntdaa (address : Byte) (s : State) : State :=
  if !s.power.input then s
  else { s.setKeeper fun k => { k with i3cAddr := some (address &&& 0x7F#8), i3cId := Config.i3cRandomId s.draws } with draws := s.draws + 1 }

/-- I3C_ENTDAA. -/
def execI3cEntdaa (address : Byte) (s : State) : Host.Outcome State Fault Refusal := s.become (doI3cEntdaa address s)

/-- Whole words of data written from an offset upwards. -/
def State.i3cWords : Nat → State → Nat → Bytes → State
  | 0, s, _, _ => s
  | n + 1, s, o, b => State.i3cWords n (if o < 0x10000 then s.keeperWrite o (fieldN b 0 4) else s) (o + 4) (b.drop 4)

/-- I3C_PRIVATE_WRITE: a 2-byte offset, then whole aligned words. -/
def doI3cPrivateWrite (b : Bytes) (s : State) : State :=
  if !s.power.input ∨ s.keeper.i3cAddr.isNone ∨ b.length < 2 then s
  else
    let o := fieldN b 0 2 / 4 * 4
    let words := (b.length - 2) / 4
    (State.i3cWords words s o (b.drop 2)).setKeeper fun k => { k with i3cOffset := (o + 4 * words) % 0x10000 }

/-- I3C_PRIVATE_WRITE. -/
def execI3cPrivateWrite (bytes : Bytes) (s : State) : Host.Outcome State Fault Refusal := s.become (doI3cPrivateWrite bytes s)

/-- A byte that the I3C port reads: the identity and keeper blocks and the mailbox, MB_DATA undefined while BUSY (R309), zero
elsewhere. -/
def State.i3cByte (s : State) (o : Nat) : Byte :=
  if o < 0x2000 then s.windowByte o
  else if 0x3000 ≤ o ∧ o < 0x4000 then
    if s.keeper.mailbox.busy ∧ 0x3100 ≤ o then Config.busyByte (s.draws + o) else s.windowByte o
  else 0

/-- I3C_PRIVATE_READ: whole aligned words from the last offset. -/
def doI3cPrivateRead (count : Nat) (s : State) : State :=
  if !s.power.input ∨ s.keeper.i3cAddr.isNone then s
  else
    let n := count / 4 * 4
    let o := s.keeper.i3cOffset
    { s.setKeeper fun k => { k with i3cData := (List.range n).map fun i => s.i3cByte ((o + i) % 0x10000), i3cOffset := (o + n) % 0x10000 } with
      draws := if s.keeper.mailbox.busy then s.draws + 0x10000 else s.draws }

/-- I3C_PRIVATE_READ. -/
def execI3cPrivateRead (count : Nat) (s : State) : Host.Outcome State Fault Refusal := s.become (doI3cPrivateRead count s)

end Sys2Proof.Machine
end

