-- ==== Sys2Proof/Machine/Dma.lean ====
section
/-! DEFINITION. The DMA channel programs: END, MOVE, LOOP, WAIT and SIGNAL (R87 to R106). -/

namespace Sys2Proof.Machine

/-! ## Fetching -/

/-- Whether a device address may hold a program: workspace or HBM (R88). -/
def programPlace (a : Nat) : Bool := decide (a < hbmEnd) || (decide (wsBase ≤ a) && decide (a < 0x0E00_C000_0000))

/-- The 32 bytes at a channel's PC (R88, R89). -/
def State.fetch (s : State) (r : ChanRef) (c : Chan) : Got :=
  if c.pc % 32 ≠ 0 then .err 7
  else if !programPlace c.pc then
    match s.resolve r.job false c.pc with
    | .err e => .err e
    | _ => .err 2
  else s.readDev r.job c.prov c.pc 32

/-- The unit of a channel is in an idle state that stops the channel: I2 of its core, or I3 of its die (R404, R407). -/
def State.chanIdle (s : State) (j : Nat) (c : Chan) : Bool :=
  if c.decl.die then (s.die c.owner).gated
  else match s.task { job := j, task := c.owner } with
    | some k => (s.core k.core).idle == 2
    | none => false

/-- A step of a channel, while the dies act: fetches at the PC; an instruction that breaks R89 halts the channel, another opcode than `op` is not
this command's. -/
def dmaStep (r : ChanRef) (op : Nat) (i : Instr) (act : Bytes → Chan → State → State) (s0 : State) : State :=
  match s0.chan r with
  | none => s0
  | some c =>
    if c.state ≠ 1 ∨ s0.asleep ∨ s0.chanIdle r.job c then s0
    else match s0.fetch r c with
      | .ok b s =>
        if fieldN b 0 1 ≤ 4 ∧ fieldN b 0 1 ≠ op then s0
        else if dmaBad b then s.haltChan r 7 false c.pc
        else act b c s
      | .wait => s0.hold .other i
      | .err e => s0.haltChan r e false c.pc
      | _ => s0.haltChan r 2 false c.pc

/-- END (R89): the channel is idle. -/
def doEnd (r : ChanRef) (s : State) : State :=
  dmaStep r 0 (.dmaEnd r) (fun _ _ s => s.setChan r fun c => { c with state := 0, loops := [] }) s

/-- END. -/
def execDmaEnd (r : ChanRef) (s : State) : Host.Outcome State Fault Refusal := s.become (doEnd r s)

/-- LOOP (R96, R97): opens a loop, or passes an empty one; nesting deeper than four or crossing an enclosing body's end is an
instruction error. -/
def loopAct (r : ChanRef) (b : Bytes) (c : Chan) (s : State) : State :=
  let body := fieldN b 2 2
  let count := fieldN b 4 4
  let start := c.pc + 32
  let stop := start + 32 * body
  if c.loops.length ≥ 4 || (match c.loops with
      | l :: _ => decide (stop > l.stop)
      | [] => false) then s.haltChan r 7 false c.pc
  else if body = 0 ∨ count = 0 then s.setChan r fun c => c.goTo stop
  else s.setChan r fun c => { c with
    pc := start
    loops := { start := start, stop := stop, index := 0, count := count, src := signedOf (fieldN b 8 8) 64
               dst := signedOf (fieldN b 0x10 8) 64 } :: c.loops }

/-- LOOP. -/
def execLoop (r : ChanRef) (s : State) : Host.Outcome State Fault Refusal :=
  s.become (dmaStep r 2 (.loop r) (loopAct r) s)

/-- WAIT (R98, R99): joins the line, or completes at once with a zero count. -/
def waitAct (r : ChanRef) (b : Bytes) (c : Chan) (s : State) : State :=
  let count := fieldN b 4 2
  if count = 0 then s.setChan r Chan.advance
  else
    let s' := s.setChan r fun c => { c with state := 2 }
    match (s.job r.job).line ((s.job r.job).chanDie c) (fieldN b 2 1) with
    | some l => s'.joinLine ((s.job r.job).chanDie c) l count (.chan r)
    | none => s'

/-- WAIT. -/
def execWait (r : ChanRef) (s : State) : Host.Outcome State Fault Refusal :=
  s.become (dmaStep r 3 (.wait r) (waitAct r) s)

/-- SIGNAL (R98, R101): adds its pulses once every earlier write of the channel has reached its target. -/
def signalAct (r : ChanRef) (b : Bytes) (c : Chan) (s : State) : State :=
  if c.writes > 0 then s.hold .other (.signal r)
  else
    let d := if fieldN b 3 1 = 0 then (s.job r.job).chanDie c else fieldN b 3 1 - 4
    (s.setChan r Chan.advance).pulse r.job d (fieldN b 2 1) (fieldN b 4 2)

/-- SIGNAL. -/
def execSignal (r : ChanRef) (s : State) : Host.Outcome State Fault Refusal :=
  s.become (dmaStep r 4 (.signal r) (signalAct r) s)

/-! ## MOVE -/

/-- What a MOVE does: its word, bases with the LOOP offsets added, formats and conversion (R91, R96). -/
structure MovePlan where
  w : MoveWord
  src : Int
  dst : Int
  fs : Fmt
  fd : Fmt
  conv : Option ConvDesc
  deriving Repr

/-- Runs of a MOVE. -/
def MovePlan.runs (p : MovePlan) : Nat := p.w.count1 * p.w.count2 * p.w.count3

/-- Byte offset of run `i` on the strided side (R91). -/
def MovePlan.stride (p : MovePlan) (i : Nat) : Int :=
  let i1 := i % p.w.count1
  let i2 := i / p.w.count1 % p.w.count2
  let i3 := i / p.w.count1 / p.w.count2
  (i3 : Int) * p.w.stride3 + (i2 : Int) * p.w.stride2 + (i1 : Int) * p.w.stride1

/-- Start of elements [e, e + n) of run `i` on one side: byte address, and whether it begins in the upper nibble; elements
are counted from 0 over the whole MOVE (R91). -/
def MovePlan.place (p : MovePlan) (strided : Bool) (base : Int) (f : Fmt) (i e : Nat) : Int × Nat :=
  let k := if strided then e - i * p.w.length else e
  let bits := k * f.width
  ((if strided then base + p.stride i else base) + (bits / 8 : Nat), bits % 8 / 4)

/-- Source place of element `e` of run `i`. -/
def MovePlan.srcAt (p : MovePlan) (i e : Nat) : Int × Nat := p.place (!p.w.strideDst) p.src p.fs i e

/-- Destination place of element `e` of run `i`. -/
def MovePlan.dstAt (p : MovePlan) (i e : Nat) : Int × Nat := p.place p.w.strideDst p.dst p.fd i e

/-- Bytes that `n` elements occupy from a nibble onwards. -/
def spanBytes (f : Fmt) (nib n : Nat) : Nat := ceilDiv (4 * nib + n * f.width) 8

/-- A part of a MOVE's source bytes: from memory, or what a remote read has returned. -/
def Chan.remoteByte (c : Chan) (a : Nat) : Byte := ((c.remote.find? fun x => x.1 == a).map (·.2)).getD 0

/-- How a stretch of accesses ends: with bytes, waiting, or failing at an address with a direction. -/
inductive Stretch where
  | ok (b : Bytes) (s : State)
  | wait
  | fail (s : State) (cause : Nat) (write : Bool) (addr : Nat)
  deriving Repr

/-- Reads accesses in order (R95). -/
def State.readStretch (j : Nat) (c : Chan) : List (Nat × Nat) → State → Bytes → Stretch
  | [], s, acc => .ok acc s
  | (a, n) :: r, s, acc =>
    match s.dmaRead j c.prov a n with
    | .ok b s => State.readStretch j c r s (acc ++ b)
    | .wait => .wait
    | .err e => .fail s e false a
    | _ => State.readStretch j c r s (acc ++ (List.range n).map fun i => c.remoteByte (a + i))

/-- Writes accesses in order; writes to the far tier and to peers are sent and counted until they are acknowledged (R95,
R101). A provisional write to the far tier waits (R151). -/
def State.writeStretch (r : ChanRef) (c : Chan) : List (Nat × Nat) → State → Bytes → Stretch
  | [], s, _ => .ok [] s
  | (a, n) :: rest, s, bs =>
    match s.dmaWrite r.job c.prov a (bs.take n) with
    | .ok _ s => State.writeStretch r c rest s (bs.drop n)
    | .wait => .wait
    | .err e => .fail s e true a
    | .far h =>
      if c.prov then .wait
      else State.writeStretch r c rest
        ((s.farPut h (bs.take n) 0 (.chanWrite r)).setChan r fun x => { x with writes := x.writes + 1 }) (bs.drop n)
    | .peer dev addr =>
      let b := s.job r.job
      let prov := if c.prov then b.train.openEpoch else none
      match s.request r.job prov (.chan r) true dev addr a n (bs.take n) with
      | none => .wait
      | some none => .fail s 5 true a
      | some (some s) => State.writeStretch r c rest (s.setChan r fun x => { x with writes := x.writes + 1 }) (bs.drop n)

/-- An address range as accesses; none when it leaves the 52 bits (R91). -/
def accessesAt (a : Int) (n : Nat) : Option (List (Nat × Nat)) :=
  if a < 0 ∨ a + n > 2 ^ 52 then none else some (funnel n a.toNat n)

/-- An address as it is latched. -/
def latchAddr (a : Int) : Nat := wrapInt a 52

/-- The 8-byte words of a stretch read whole old or whole new (R93): `old` is memory when the MOVE began, and the choice is
free (log entry 4). -/
def raced (old now : State) (j : Nat) (prov : Bool) (a : Nat) (b : Bytes) : Bytes :=
  b.mapIdx fun i v =>
    if Config.raceReadsNew (now.draws + (a + i) / 8) then v else (old.peek j prov (a + i)).getD v

/-- A channel record of the conversion; none when it must not be used (R27, R35). -/
def State.record (s : State) (r : ChanRef) (c : Chan) (d : ConvDesc) (n : Nat) : Stretch :=
  let a := d.recordAddr n
  match State.readStretch r.job c (funnel 8 a 8) s [] with
  | .ok b s => if scaleBad (fieldN b 0 4) then .fail s 6 false a else .ok b s
  | g => g

/-- Elements [e, …) converted one by one (R25, R34 to R38). -/
def State.convertAll (r : ChanRef) (c : Chan) (p : MovePlan) : Nat → List Nat → State → List Nat → Stretch × List Nat
  | _, [], s, acc => (.ok [] s, acc)
  | e, x :: xs, s, acc =>
    match p.conv with
    | none => State.convertAll r c p (e + 1) xs s (acc ++ [x])
    | some d =>
      if d.perChannel then
        match s.record r c d e with
        | .ok b s => State.convertAll r c p (e + 1) xs s (acc ++ [convElem p.fs p.fd (d.params (some b)) x])
        | g => (g, acc)
      else State.convertAll r c p (e + 1) xs s (acc ++ [convElem p.fs p.fd (d.params none) x])

/-- The bytes to write for elements that begin in a nibble: unused nibbles keep what stands there (R19). -/
def State.layElems (s : State) (r : ChanRef) (c : Chan) (f : Fmt) (a : Nat) (nib : Nat) (xs : List Nat) : Bytes :=
  if f.width ≠ 4 then packElems f xs
  else
    let old := fun (i : Nat) => ((s.peek r.job c.prov (a + i)).getD (c.remoteByte (a + i))).toNat
    let xs := if nib = 1 then old 0 % 16 :: xs else xs
    let xs := if xs.length % 2 = 1 then xs ++ [old (xs.length / 2) / 16] else xs
    packElems f xs

/-- One piece of a run, elements [e, e + n): read, converted and written. -/
def State.movePiece (r : ChanRef) (c : Chan) (p : MovePlan) (old : Option State) (i e n : Nat) (s : State) : Stretch :=
  let (sa, sn) := p.srcAt i e
  let (da, dn) := p.dstAt i e
  match accessesAt sa (spanBytes p.fs sn n) with
  | none => .fail s 1 false (latchAddr sa)
  | some reads =>
    match State.readStretch r.job c reads s [] with
    | .ok b s =>
      let b := match old with
        | some o => raced o s r.job c.prov sa.toNat b
        | none => b
      let xs := (elemsOf p.fs b (sn + n)).drop sn
      match State.convertAll r c p e xs s [] with
      | (.ok _ s, ys) =>
        match accessesAt da (spanBytes p.fd dn n) with
        | none => .fail s 1 true (latchAddr da)
        | some writes => State.writeStretch r c writes s (s.layElems r c p.fd da.toNat dn ys)
      | (g, _) => g
    | g => g

/-- Pieces of a MOVE: run, first element and elements; whole runs, or, when source and destination may overlap, at most eight
source bytes each. -/
def MovePlan.pieces (p : MovePlan) (overlap : Bool) : List (Nat × Nat × Nat) :=
  (List.range p.runs).flatMap fun i =>
    let e0 := i * p.w.length
    if !overlap then [(i, e0, p.w.length)]
    else
      let k := max 1 (64 / p.fs.width)
      (List.range (ceilDiv p.w.length k)).map fun q => (i, e0 + q * k, min k (p.w.length - q * k))

/-- Carries out the pieces in order. -/
def State.moveAll (r : ChanRef) (c : Chan) (p : MovePlan) (old : Option State) : List (Nat × Nat × Nat) → State → Stretch
  | [], s => .ok [] s
  | (i, e, n) :: rest, s =>
    match State.movePiece r c p old i e n s with
    | .ok _ s => State.moveAll r c p old rest s
    | g => g

/-- Lowest and highest byte addresses of one side. -/
def MovePlan.extent (p : MovePlan) (strided : Bool) (base : Int) (f : Fmt) : Int × Int :=
  let total := p.runs * p.w.length
  if strided then
    let ends := (List.range p.runs).map p.stride
    (base + ends.foldl min 0, base + ends.foldl max 0 + (spanBytes f 0 p.w.length : Nat))
  else (base, base + (spanBytes f 0 total : Nat))

/-- Whether the two sides may overlap (R93). -/
def MovePlan.overlaps (p : MovePlan) : Bool :=
  let a := p.extent (!p.w.strideDst) p.src p.fs
  let b := p.extent p.w.strideDst p.dst p.fd
  decide (a.1 < b.2) && decide (b.1 < a.2)

/-- The stretches that a MOVE needs from the far tier or a peer before it writes: source runs, channel records, and bytes of
a remote destination of which only a nibble is written. -/
def State.remoteNeeds (s : State) (r : ChanRef) (p : MovePlan) : List (Nat × Nat × Target) :=
  let isRemote := fun (x : Nat × Nat × Target) => match x.2.2 with
    | .far _ | .peer _ _ => true
    | _ => false
  let look := fun (write : Bool) (x : Nat × Nat) => (x.1, x.2, s.resolveSpan r.job write x.1 x.2)
  let sources := (p.pieces false).flatMap fun x =>
    let (a, nib) := p.srcAt x.1 x.2.1
    ((accessesAt a (spanBytes p.fs nib x.2.2)).getD []).map (look false)
  let records := match p.conv with
    | some d => if d.perChannel then
        ((List.range (min d.channelCount (p.runs * p.w.length / d.channelRun + 1))).flatMap fun k =>
          (funnel 8 (d.channelTable + 8 * k) 8).map (look false))
      else []
    | none => []
  let merges := if p.fd.width ≠ 4 then [] else
    (p.pieces false).flatMap fun x =>
      let (a, nib) := p.dstAt x.1 x.2.1
      let n := spanBytes p.fd nib x.2.2
      if a < 0 then [] else [look true (a.toNat, 1), look true (a.toNat + n - 1, 1)]
  (sources ++ records ++ merges).filter isRemote

/-- Issues the remote reads of a MOVE; none when one must wait (R200, R325). -/
def State.issueReads (r : ChanRef) (c : Chan) : List (Nat × Nat × Target) → State → Stretch
  | [], s => .ok [] s
  | (a, n, t) :: rest, s =>
    match t with
    | .far h => State.issueReads r c rest ((s.farPut h [] n (.chanRead r a)).setChan r fun x => { x with reads := x.reads + 1 })
    | .peer dev addr =>
      let prov := if c.prov then (s.job r.job).train.openEpoch else none
      match s.request r.job prov (.chan r) false dev addr a n [] with
      | none => .wait
      | some none => .fail s 5 false a
      | some (some s) => State.issueReads r c rest (s.setChan r fun x => { x with reads := x.reads + 1 })
    | _ => State.issueReads r c rest s

/-- Whether an address lies in the workspace region of the map (R24, R118). -/
def inWsRegion (a : Int) : Bool := decide ((wsBase : Int) ≤ a) && decide (a < (0x0E00_C000_0000 : Nat))

/-- The paths that a MOVE's source and destination give it (R24). -/
def movePaths (src dst : Int) : List ConvPath :=
  match inWsRegion src, inWsRegion dst with
  | true, false => [.store]
  | false, true => [.load]
  | true, true => [.load, .store]
  | false, false => []

/-- The home core in whose workspace a channel's conversion descriptors lie (R94). -/
def Job.descHome (b : Job) (c : Chan) : Nat := if c.decl.die then c.home else (b.tasks[c.owner]?).map (·.home) |>.getD 0

/-- The conversion of a MOVE: its descriptor, or why there is none. -/
def State.moveConv (s : State) (r : ChanRef) (c : Chan) (w : MoveWord) (src dst : Int) : Stretch × Option (Fmt × Fmt × ConvDesc) :=
  let a := wsAddr ((s.job r.job).descHome c) (64 * w.conv)
  match s.readDev r.job c.prov a 32 with
  | .ok head s =>
    let d := ConvDesc.ofBytes head
    match (if d.src = 0x0E then s.readDev r.job c.prov (a + 32) 32 else .ok [] s) with
    | .ok table s =>
      let d := ConvDesc.ofBytes (head ++ table)
      match d.pair (movePaths src dst) with
      | some (fs, fd) => (.ok [] s, some (fs, fd, d))
      | none => (.fail s 6 false a, none)
    | .wait => (.wait, none)
    | .err e => (.fail s e false (a + 32), none)
    | _ => (.fail s 6 false (a + 32), none)
  | .wait => (.wait, none)
  | .err e => (.fail s (if e = 1 ∨ e = 2 then 6 else e) false a, none)
  | _ => (.fail s 6 false a, none)

/-- Sum of the steps of the open loops (R96). -/
def Chan.offsets (c : Chan) : Int × Int :=
  c.loops.foldl (fun o l => (o.1 + (l.index : Int) * l.src, o.2 + (l.index : Int) * l.dst)) (0, 0)

/-- What a MOVE does once its conversion is known. -/
def State.moveRun (s0 s : State) (r : ChanRef) (c : Chan) (p : MovePlan) : State :=
  if c.wrote then (if c.writes = 0 then s0.setChan r Chan.advance else s0.hold .other (.move r))
  else
    let needs := if c.issued then [] else s.remoteNeeds r p
    if !needs.isEmpty then
      match State.issueReads r c needs s with
      | .ok _ s => (s.setChan r fun x => { x with issued := true }).hold .other (.move r)
      | .wait => s0.hold .other (.move r)
      | .fail s e w a => s.moveFail r e w a
    else if c.reads > 0 then s0.hold .other (.move r)
    else
      let ov := p.overlaps
      match State.moveAll r c p (if ov then some s else none) (p.pieces ov) s with
      | .ok _ s =>
        let s := if ov then { s with draws := s.draws + 1 } else s
        match s.chan r with
        | some x => if x.writes = 0 then s.setChan r Chan.advance
          else (s.setChan r fun y => { y with wrote := true }).hold .other (.move r)
        | none => s
      | .wait => s0.hold .other (.move r)
      | .fail s e w a => s.moveFail r e w a

/-- MOVE (R90 to R95, R104, R105). -/
def moveAct (r : ChanRef) (b : Bytes) (c : Chan) (s : State) : State :=
  let w := MoveWord.ofNat (leNat b)
  if w.empty then s.setChan r Chan.advance
  else
    let o := c.offsets
    let src : Int := (w.src : Int) + o.1
    let dst : Int := (w.dst : Int) + o.2
    if w.conv = 0 then s.moveRun s r c { w := w, src := src, dst := dst, fs := .raw, fd := .raw, conv := none }
    else match s.moveConv r c w src dst with
      | (.ok _ s', some (fs, fd, d)) => s.moveRun s' r c { w := w, src := src, dst := dst, fs := fs, fd := fd, conv := some d }
      | (.fail s' e wr a, _) => s'.moveFail r e wr a
      | _ => s.hold .other (.move r)

/-- MOVE. -/
def execMove (r : ChanRef) (s : State) : Host.Outcome State Fault Refusal := s.become (dmaStep r 1 (.move r) (moveAct r) s)

end Sys2Proof.Machine
end

