-- ==== Sys2Proof/Machine/Firmware.lean ====
section
/-! DEFINITION. Firmware: FIRMWARE_WRITE (R385, R389), FIRMWARE_ACTIVATE (R386, R387), Nerur's report and its absence (R383), and
ATTEST (R394 to R396). -/

namespace Sys2Proof.Machine

/-! ## FIRMWARE_WRITE -/

/-- Bytes of the longest object of a kind. -/
def objectLimit (kind : Nat) : Nat := if kind = 1 then 0x700_0000 else 0x100_0000

/-- Bytes of the object received so far; another kind, or a start at offset 0, has none. -/
def Firmware.received (f : Firmware) (kind off : Nat) : Bytes :=
  match f.staging with
  | some (k, _, b) => if k = kind ∧ off ≠ 0 then b else []
  | none => []

/-- Bytes of an ML-DSA-65 signature and of a public key (R379, R388). -/
def sigBytes : Nat := 3309
def keyBytes : Nat := 1952

/-- The signature at the end of an object verifies under a key over the digest of what precedes it. -/
def signedBy (key b : Bytes) : Bool :=
  Config.mldsaVerifies key (sha3 (b.take (b.length - sigBytes))) (b.drop (b.length - sigBytes))

/-- Device identifiers of a device set. -/
def setIds (b : Bytes) (n : Nat) : List U32 := (List.range n).map fun i => BitVec.ofNat 32 (fieldN b (16 + 4 * i) 4)

/-- Strictly ascending. -/
def ascending : List U32 → Bool
  | a :: b :: r => decide (a.toNat < b.toNat) && ascending (b :: r)
  | _ => true

/-- The header of an object: its kind, reserved fields zero. -/
def objectHeaderOk (b : Bytes) (kind : Nat) : Bool := fieldN b 0 2 == kind && fieldN b 2 2 == 0 && fieldN b 12 4 == 0

/-- An object of kinds 2 to 4 checked and installed (R389); none when its check fails. -/
def Firmware.install (f : Firmware) (kind : Nat) (b : Bytes) : Option Firmware :=
  let version := fieldN b 4 4
  let count := fieldN b 8 4
  if !objectHeaderOk b kind then none
  else match kind, f.owner with
    | 2, some k =>
      let newer : Bool := match f.deviceSet with
        | some d => decide (d.1 < version)
        | none => true
      let ids := setIds b count
      if 1 ≤ count ∧ count ≤ 262144 ∧ b.length = 16 + 4 * count + sigBytes ∧ newer ∧ ascending ids ∧ signedBy k b then
        some { f with deviceSet := some (version, ids) }
      else none
    | 3, none => if count = 0 ∧ b.length = 16 + keyBytes ∧ f.ownerVersion < version then
        some { f with owner := some (sliceZ b 16 keyBytes), ownerVersion := version } else none
    | 3, some k => if count = 0 ∧ b.length = 16 + keyBytes + sigBytes ∧ f.ownerVersion < version ∧ signedBy k b then
        some { f with owner := some (sliceZ b 16 keyBytes), ownerVersion := version } else none
    | 4, some k => if count = 0 ∧ b.length = 16 + sigBytes ∧ signedBy k b then some { f with owner := none, deviceSet := none } else none
    | _, _ => none

/-- A bank that holds an object's bytes, its header still erased. -/
def Bank.laid (b : Bank) (data : Bytes) : Bank :=
  { bytes := List.replicate 0x2000 0 ++ data.drop 0x2000 ++ b.bytes.drop (max 0x2000 data.length) }

/-- The bank with the whole bundle, its header included. -/
def Bank.whole (b : Bank) (data : Bytes) : Bank := { bytes := data ++ b.bytes.drop data.length }

/-- A piece taken: a bundle goes to the bank that is not booted, other objects stay in keeper SRAM (R385). -/
def Firmware.take (f : Firmware) (kind total : Nat) (data : Bytes) : Firmware :=
  let f := { f with staging := some (kind, total, data) }
  if kind = 1 then f.setBank (1 - f.booted) fun b => b.laid data else f

/-- The whole object checked at LAST: the firmware with it, none when the check fails. -/
def Firmware.finish (f : Firmware) (kind total : Nat) (data : Bytes) : Option Firmware :=
  let f := { f with staging := none }
  if data.length ≠ total then none
  else if kind = 1 then
    let b := (f.bank (1 - f.booted)).whole data
    if f.valid b then some (f.setBank (1 - f.booted) fun _ => b) else none
  else f.install kind data

/-- FIRMWARE_WRITE (R385, R389). -/
def doFirmwareWrite (r : CmdRef) (c : Cmd) (s : State) : State :=
  let kind := c.p 0 1
  let last := bitOf (c.p 1 1) 0
  let off := c.p 8 8
  let total := c.p 0x10 8
  let data := c.params.drop 24
  let got := s.fw.received kind off
  let sameTotal := match s.fw.staging with
    | some (k, t, _) => !(k == kind && off != 0) || t == total
    | none => true
  s.checked r [(total == 0, stZero, 0x10), (kind == 0 || decide (kind > 4), stBadParam, 0), (c.p 1 1 > 1, stBadParam, 1), c.reserved 2 6,
      (off != got.length, stBadParam, 8), (decide (total > objectLimit kind) || !sameTotal, stBadParam, 0x10),
      (decide (off + data.length > total), stBadParam, 0x10)] fun s =>
    let all := got ++ data
    let f := s.fw.take kind total all
    if !last then (s.setFw fun _ => f).reply r stOk 0 0
    else match f.finish kind total all with
      | some g => (s.setFw fun _ => g).reply r stOk 0 0
      | none => (s.setFw fun _ => { f with staging := none }).reply r stAuthFail 0 0

/-- FIRMWARE_WRITE. -/
def execFirmwareWrite (r : CmdRef) (s : State) : Host.Outcome State Fault Refusal :=
  s.become (cmdRow r 0x0004 (.firmwareWrite r) (doFirmwareWrite r) s)

/-! ## FIRMWARE_ACTIVATE -/

/-- The state of the first job context that is RUNNING, STOPPING, CASTING or RESTORING. -/
def State.busyJob (s : State) : Option Nat := (s.jobs.find? fun b => [3, 4, 5, 6].contains b.state).map (·.state)

/-- FIRMWARE_ACTIVATE (R386). -/
def doFirmwareActivate (r : CmdRef) (c : Cmd) (s : State) : State :=
  let retire := bitOf (c.p 0 1) 0
  let raise := bitOf (c.p 0 1) 1
  let other := 1 - s.fw.booted
  let f := if retire then s.fw.setBank s.fw.booted Bank.erase else s.fw
  s.checked r [(c.p 0 1 > 3, stBadParam, 0), c.beyond 1, (s.busyJob.isSome, stBadState, s.busyJob.getD 0),
      (!s.fw.valid (s.fw.bank other), stBadState, 0), (!retire && f.choose != some other, stBadState, 0)] fun s =>
    let s := (s.setFw fun _ => { f with raiseFloor := raise }).reply r stOk 0 (s.fw.bank other).nerurVersion
    s.beginReset { kind := 5, index := 0 } 6 false

/-- FIRMWARE_ACTIVATE. -/
def execFirmwareActivate (r : CmdRef) (s : State) : Host.Outcome State Fault Refusal :=
  s.become (cmdRow r 0x0005 (.firmwareActivate r) (doFirmwareActivate r) s)

/-! ## Nerur's report (R383, R387) -/

/-- Nerur is loaded and its report is awaited: a reset that loads it stands at step 5. -/
def State.bootWaits (s : State) : Bool :=
  s.power.input && s.fw.awaiting && s.keeper.resets.any fun x => x.stage == 5 && (x.domain.kind == 0 || x.domain.kind == 5)

/-- Nerur reports ready: the bank's strikes are cleared, and RAISE_FLOOR blows fuses up to its security version (R383, R387). -/
def Firmware.ready (f : Firmware) : Firmware :=
  let f := f.setBank f.booted fun b => { b with strikes := 0 }
  { f with awaiting := false, raiseFloor := false, floor := if f.raiseFloor then max f.floor (min f.security 128) else f.floor }

/-- NERUR_READY. -/
def doNerurReady (s : State) : State := if s.bootWaits then s.setFw Firmware.ready else s

/-- NERUR_READY. -/
def execNerurReady (s : State) : Host.Outcome State Fault Refusal := s.become (doNerurReady s)

/-- A strike against the booted bank; at three it is marked failed (R383). -/
def Firmware.strike (f : Firmware) : Firmware :=
  f.setBank f.booted fun b => { b with strikes := min 3 (b.strikes + 1), failed := b.failed || decide (b.strikes + 1 ≥ 3) }

/-- NERUR_READY_TIMEOUT (R383): a strike, and the boot repeats from the choice of a bank. -/
def doNerurReadyTimeout (s : State) : State :=
  if !s.bootWaits then s
  else
    let old := s.fw.booted
    let s := (s.setFw Firmware.strike).chooseAndLoad
    s.setFw fun f => { f with raiseFloor := f.raiseFloor && f.booted == old }

/-- NERUR_READY_TIMEOUT. -/
def execNerurReadyTimeout (s : State) : Host.Outcome State Fault Refusal := s.become (doNerurReadyTimeout s)

/-! ## ATTEST -/

/-- Bytes 0x0000 to 0x087F of the report (R396). -/
def State.attestBody (s : State) (nonce : Bytes) (certBytes : Nat) : Bytes :=
  toLe 2 1 ++ toLe 2 s.fw.measures.length ++ toLe 4 s.ident.device.toNat ++ toLe 8 s.ident.serial.toNat ++ toLe 4 s.ident.signature.toNat ++
    toLe 4 ((if s.fw.owner.isSome then 1 else 0) + (if s.fw.recovery then 2 else 0) + (if s.fw.trips != 0 then 4 else 0)) ++
    toLe 8 (s.wardReg 0x4008) ++ sliceZ nonce 0 32 ++ toLe 4 certBytes ++ toLe 4 0 ++ toLe 8 s.keeper.time ++ List.replicate 48 0 ++
    sliceZ (s.fw.measures.map Measure.bytes).flatten 0 2048

/-- The report: body, signature, padding and, with CERT, the certificate. -/
def State.attestReport (s : State) (nonce : Bytes) (withCert : Bool) : Bytes :=
  let cert := (Config.certificate s.ident.device).take 8192
  let body := s.attestBody nonce (if withCert then cert.length else 0)
  body ++ sliceZ (Config.mldsaSign s.ident.device (sha3 body)) 0 sigBytes ++ List.replicate 19 0 ++
    (if withCert then sliceZ cert 0 8192 else [])

/-- ATTEST (R396, R431). -/
def doAttest (r : CmdRef) (c : Cmd) (s : State) : State :=
  let a := c.p 0x20 8
  let withCert := bitOf (c.p 0x28 1) 0
  let n := if withCert then 13696 else 5504
  s.checked r [(!s.farOk a n, stBadParam, 0x20), (c.p 0x28 1 > 1, stBadParam, 0x28), c.beyond 0x29] fun s =>
    s.giveRecord r a (s.attestReport (sliceZ c.params 0 32) withCert) n 0

/-- ATTEST. -/
def execAttest (r : CmdRef) (s : State) : Host.Outcome State Fault Refusal := s.become (cmdRow r 0x0003 (.attest r) (doAttest r) s)

end Sys2Proof.Machine
end

