-- ==== Sys2Proof/Machine/Health.lean ====
section
/-! DEFINITION. In-field test, patina over time and the health record: TEST_DUE, TEST_FORCED, TEST_DONE, TEST_RUN (R369 to R372),
PATINA_DECAY and FLASH_COPY (R368, R374, R375), HEALTH_READ (R377). -/

namespace Sys2Proof.Machine

/-! ## Taking a core for its test (R369) -/

/-- Active time after which a test is due: 8 hours in µs. -/
def testPeriod : Nat := 28800000000

/-- A core whose test is due or asked for and which is not yet under test. -/
def Core.wantsTest (c : Core) : Bool := c.test == 1 || c.test == 2

/-- A core may be taken: four of its die at most are under test, and due cores of lower index go first. -/
def State.testTurn (s : State) (core : Nat) : Bool :=
  let die := (List.range 48).map fun i => 48 * dieOf core + i
  let under := (die.filter fun c => (s.core c).test == 3).length
  let before := (die.filter fun c => decide (c < core) && (s.core c).wantsTest).length
  decide (under + before < 4)

/-- The tasks of a job leave a core: onto the job's other cores of the die, or into their task slots until it returns (R327, R369). -/
def State.vacate (s : State) (j core : Nat) : State :=
  match s.moveOff j core with
  | some s => s
  | none => (List.range (s.job j).tasks.length).foldl (fun s i =>
      let t : TaskRef := { job := j, task := i }
      if (s.task t).any fun k => k.core == core then ((s.dequeue t).saveChans t).setTask t fun x => { x with inSlot := true } else s) s

/-- The core is under test. -/
def State.takeCore (s : State) (core : Nat) : State :=
  let s := (s.applyMargins core).setCore core fun c => { c with test := 3, idle := 0 }
  ((List.range 64).foldl (fun s j => s.vacate j core) s).fillAll

/-- Whether a test could start on a core: enabled, its domain running, no vote pending. -/
def State.testable (s : State) (core : Nat) : Bool :=
  s.enabled core && (s.core core).domain == 0 && ((s.die (dieOf core)).domain == 0 || (s.die (dieOf core)).domain == 4) && !s.asleep &&
    (s.core core).dispute.isNone && (!(s.core core).fenced || (s.core core).wantsTest)

/-- TEST_DUE (R369): the test falls due, and the core is taken at a preemption point. -/
def doTestDue (core : Nat) (s0 : State) : State :=
  if !s0.testable core ∨ (s0.core core).test = 3 ∨ !((s0.core core).wantsTest || decide ((s0.core core).activeUs ≥ testPeriod)) then s0
  else
    let s := s0.setCore core fun c => if c.test = 0 then { c with test := 1 } else c
    if s.atGap core && s.testTurn core then s.takeCore core else s

/-- TEST_DUE. -/
def execTestDue (core : Nat) (s : State) : Host.Outcome State Fault Refusal := s.become (doTestDue core s)

/-- TEST_FORCED (R369, R372): the core is taken at a gap between array instructions. -/
def doTestForced (core : Nat) (s : State) : State :=
  if !s.testable core ∨ !(s.core core).wantsTest ∨ !s.testTurn core then s else s.takeCore core

/-- TEST_FORCED. -/
def execTestForced (core : Nat) (s : State) : Host.Outcome State Fault Refusal := s.become (doTestForced core s)

/-! ## The end of a test (R371, R372) -/

/-- Tasks whose home is the core return to it (R369). -/
def State.comeHome (s : State) (j core : Nat) : State :=
  if (s.job j).lent.any fun l => l.1 == core && l.2.1 != 2 then s
  else (List.range (s.job j).tasks.length).foldl (fun s i =>
    let t : TaskRef := { job := j, task := i }
    match s.task t with
    | some k => if k.home = core then ((s.dequeue t).saveChans t |>.setTask t fun x => { x with core := core, inSlot := true }).enqueue t else s
    | none => s) s

/-- A tested core takes work again: its tasks return, and a borrower's spread onto it. -/
def State.giveBack (s : State) (core : Nat) : State :=
  let s := s.setCore core fun c => { c with test := 0 }
  let s := (List.range 64).foldl (fun s j => s.comeHome j core) s
  ((List.range 64).foldl (fun s j => if (s.job j).borrowed.any fun x => x.1 == core then s.spread j core else s) s).fillAll

/-- A core that a second failure with the same signature has classed permanent: fenced (R368, R371). -/
def State.testFence (s : State) (core : Nat) : State :=
  doCoreFence core (s.setCore core fun c => { c with test := 0, fenceDue := true })

/-- A test that failed once: a margin raise, a transient counted, the count restarted; permanent when both margins are spent (R367, R371). -/
def State.testOnce (s : State) (core : Nat) : State :=
  if (s.core core).marginsSpent then s.testFence core
  else
    let s := (s.setHealth fun h => { h with transient := sat16 (h.transient + 1) }).setCore core fun c => { c with activeUs := 0 }
    ((s.marginRaise core).testTransient).giveBack core

/-- What becomes of a core after its test. -/
def State.afterTest (s : State) (core : Nat) (first second : TestOutcome) : State :=
  if (s.core core).fenced then
    if first.isNone ∧ second.isNone then
      ((s.setCore core fun c => { c with fenced := false, activeUs := 0 }).flashCopy).giveBack core
    else s.setCore core fun c => { c with test := 0 }
  else match first with
    | none => (s.setCore core fun c => { c with activeUs := 0 }).giveBack core
    | some f => if second = some f then s.testFence core else s.testOnce core

/-- Named cores that a TEST_RUN fenced, and those that end it in service (R372). -/
def State.testCounts (s : State) (cores : List Nat) : Nat × Nat :=
  ((cores.filter fun c => (s.core c).fenced && !(s.core c).retest).length, (cores.filter fun c => !(s.core c).fenced).length)

/-- A TEST_RUN whose cores have all finished is answered. -/
def State.testReply (s : State) (r : CmdRef) : State :=
  if s.cores.any fun c => c.testCmds.contains r then s
  else match s.cmd r with
    | none => s
    | some c => let n := s.testCounts (coresOf (c.p 0 24)); s.reply r stOk n.1 n.2

/-- RETEST marks of cores that no command names any more. -/
def State.clearRetest (s : State) : State :=
  { s with cores := s.cores.map fun (c : Core) => if c.testCmds.isEmpty ∧ c.test = 0 then { c with retest := false } else c }

/-- TEST_DONE (R371, R372): `first` and `second` are the outcomes of the run and of the run after it; a test that passes is not run again
but under RETEST. -/
def doTestDone (core : Nat) (first second : TestOutcome) (s0 : State) : State :=
  if (s0.core core).test ≠ 3 then s0
  else
    let cmds := (s0.core core).testCmds
    let s := (s0.afterTest core first second).setCore core fun c => { c with testCmds := [] }
    (cmds.foldl (fun s r => s.testReply r) s).clearRetest

/-- TEST_DONE. -/
def execTestDone (core : Nat) (first second : TestOutcome) (s : State) : Host.Outcome State Fault Refusal :=
  s.become (doTestDone core first second s)

/-! ## TEST_RUN -/

/-- A core named by a TEST_RUN waits for its test. -/
def Core.named (c : Core) (r : CmdRef) (now : Bool) : Core :=
  { c with test := if c.test = 3 then 3 else if now then 2 else max c.test 1, testCmds := c.testCmds ++ [r], retest := c.retest || c.fenced }

/-- TEST_RUN (R372, R432). -/
def doTestRun (r : CmdRef) (c : Cmd) (s : State) : State :=
  let cores := coresOf (c.p 0 24)
  let fl := c.p 0x18 1
  s.checked r [(cores.any s.coreInReset, stFenced, 0), (cores.any fun x => !s.enabled x || ((s.core x).fenced && !bitOf fl 1), stBadParam, 0),
      (fl > 3, stBadParam, 0x18), c.reserved 0x19 7, c.beyond 32] fun s =>
    if cores.isEmpty then s.reply r stOk 0 0
    else { s with cores := s.cores.mapIdx fun i (x : Core) => if cores.contains i then x.named r (bitOf fl 0) else x }

/-- TEST_RUN. -/
def execTestRun (r : CmdRef) (s : State) : Host.Outcome State Fault Refusal := s.become (cmdRow r 0x0601 (.testRun r) (doTestRun r) s)

/-! ## Patina and the flash copy -/

/-- PATINA_DECAY (R374, R375). -/
def doPatinaDecay (s : State) : State :=
  if !s.power.input then s
  else s.setHealth fun h =>
    let acc := h.acc - h.acc * 17 / 2 ^ 12
    { h with acc := acc, worn := h.worn && !decide (acc / 1024 < 560) }

/-- PATINA_DECAY. -/
def execPatinaDecay (s : State) : Host.Outcome State Fault Refusal := s.become (doPatinaDecay s)

/-- FLASH_COPY (R368). -/
def execFlashCopy (s : State) : Host.Outcome State Fault Refusal := s.become (if s.power.input then s.flashCopy else s)

/-! ## HEALTH_READ -/

/-- The state byte of a core. -/
def State.healthState (s : State) (c : Nat) : Nat :=
  if !s.enabled c then 2 else if (s.core c).test = 3 then 3 else if (s.core c).fenced then 1 else 0

/-- The 1,600-byte record (R377). -/
def State.healthRecord (s : State) : Bytes :=
  let h := s.health
  toLe 2 h.score ++ toLe 1 ((if h.worn then 1 else 0) + (if h.retire then 2 else 0)) ++ toLe 1 0 ++ toLe 4 h.acc ++ toLe 8 h.corrected ++
    toLe 8 h.retries ++ toLe 4 h.retrains ++ toLe 4 h.lanes ++ toLe 4 h.raises ++ toLe 4 h.testTransients ++ List.replicate 24 0 ++
    ((List.range Config.coreSlots).map fun c => toLe 1 (s.healthState c) ++ toLe 1 (s.core c).delay ++ toLe 1 (s.core c).volt ++ toLe 1 0 ++
      toLe 4 ((s.core c).activeUs / 1000000)).flatten

/-- HEALTH_READ (R377, R431). -/
def doHealthRead (r : CmdRef) (c : Cmd) (s : State) : State :=
  let a := c.p 0 8
  s.checked r [(!s.farOk a 1600, stBadParam, 0), c.beyond 8] fun s => s.giveRecord r a s.healthRecord 0 0

/-- HEALTH_READ. -/
def execHealthRead (r : CmdRef) (s : State) : Host.Outcome State Fault Refusal := s.become (cmdRow r 0x0602 (.healthRead r) (doHealthRead r) s)

end Sys2Proof.Machine
end

