-- ==== Sys2Proof/Machine/Power.lean ====
section
/-! DEFINITION. The power ward and the regulators (R392, R399, R402), operating profiles (R398 to R401), idle states (R404 to R411),
input power (R419, R420), the event pins (R423) and the completion of a log mirror (R340). -/

namespace Sys2Proof.Machine

/-! ## The power ward and the regulators -/

/-- A core supply 10 mV lower, not below 0.60 V (R397, R402). -/
def Die.lower (d : Die) : Die := { d with milliVolts := max 600 (d.milliVolts - 10) }

/-- A core supply 10 mV higher, not above 0.85 V. -/
def Die.raise (d : Die) : Die := { d with milliVolts := min 850 (d.milliVolts + 10) }

/-- Whether a 1 ms window exceeds a limit: the cap in force, or 52 A (R392). -/
def Power.exceeds (p : Power) (watts deciAmps : Nat) : Bool := decide (watts > p.cap) || decide (deciAmps > 520)

/-- The ward's record of a window: WINDOW_W, CLAMPS, the windows over a limit in a row and the arrays' state (R392, R393). -/
def Power.window1ms (p : Power) (watts deciAmps : Nat) : Power :=
  if p.exceeds watts deciAmps then
    { p with window := sat16 watts, clamps := sat16 (p.clamps + 1), acted := true, overRun := min 2 (p.overRun + 1), quiesced := decide (p.overRun ≥ 1) }
  else { p with window := sat16 watts, acted := false, overRun := 0, quiesced := false }

/-- POWER_WINDOW (R392): the end of a 1 ms window with its average power and input current. -/
def doPowerWindow (watts deciAmps : Nat) (s : State) : State :=
  if !s.alive then s
  else
    let over_ := s.power.exceeds watts deciAmps
    let s := s.setPower fun p => p.window1ms watts deciAmps
    if over_ then { s with dies := s.dies.map Die.lower } else s

/-- POWER_WINDOW. -/
def execPowerWindow (watts deciAmps : Nat) (s : State) : Host.Outcome State Fault Refusal := s.become (doPowerWindow watts deciAmps s)

/-- One step of a die's loop at a measured pace (R399, R402). -/
def Die.regulate (d : Die) (p : Power) (pace : Nat) : Die :=
  let d := { d with paceMhz := pace }
  if d.throttled then d.lower
  else if pace < p.target then (if p.acted then d else d.raise)
  else if p.target < pace then d.lower else d

/-- REGULATOR_STEP. -/
def doRegulatorStep (die paceMhz : Nat) (s : State) : State :=
  if !s.alive ∨ (s.die die).domain ≠ 0 then s else s.setDie die fun d => d.regulate s.power paceMhz

/-- REGULATOR_STEP. -/
def execRegulatorStep (die paceMhz : Nat) (s : State) : Host.Outcome State Fault Refusal := s.become (doRegulatorStep die paceMhz s)

/-- The hottest sensor of a die read: throttling from 95 °C on, until every sensor reads below 92 °C (R402). -/
def Die.sense (d : Die) (deci : Nat) : Die :=
  { d with deci := deci, throttled := if deci ≥ 950 then true else if deci < 920 then false else d.throttled }

/-- THERMAL_THROTTLE: `hottest` is the hottest reading of the die's sensors, in 0.1 °C. -/
def doThermalThrottle (die hottest : Nat) (s : State) : State :=
  if !s.power.input then s else s.setDie die fun d => d.sense hottest

/-- THERMAL_THROTTLE. -/
def execThermalThrottle (die hottest : Nat) (s : State) : Host.Outcome State Fault Refusal := s.become (doThermalThrottle die hottest s)

/-! ## PROFILE_SET -/

/-- Default pace target of a row setting (R398). -/
def defaultTarget (rows : Nat) : Nat := if rows = 1 then 1600 else 2000

/-- Default cap of a row setting (R398). -/
def defaultCap (rows : Nat) : Nat := if rows = 1 then 1500 else 2250

/-- The detail word of R128 for a job's claims at a pace target, none when they fit (R125, R126, R401). -/
def State.claimShort (s : State) (x : Binary) (target : Nat) : Option Nat :=
  let short := fun (tier : Nat) => tierShort x target (decide (s.claimed tier > s.rateBudget tier)) tier
  match (List.range 12).findSome? fun h => (short h).map fun n => fitWord 2 h n with
  | some w => some w
  | none => (short 12).map fun n => fitWord 4 0xFF n

/-- The first loaded job in context order whose claims fail at a pace target: its number and detail word. -/
def State.firstMisfit (s : State) (target : Nat) : Option (Nat × Nat) :=
  (List.range 64).findSome? fun j => match (s.job j).bin with
    | some x => (s.claimShort x target).map fun w => (j, w)
    | none => none

/-- The paces of the dies, 16 bits each (R401). -/
def State.paces (s : State) : Nat :=
  (List.range 4).foldl (fun n d => n + (s.die d).paceMhz % 65536 * 2 ^ (16 * d)) 0

/-- PROFILE_SET (R299, R400, R401). -/
def doProfileSet (r : CmdRef) (c : Cmd) (s : State) : State :=
  let rows := c.p 0 1
  let target := if c.p 2 2 = 0 then defaultTarget rows else c.p 2 2
  let cap := if c.p 4 2 = 0 then defaultCap rows else c.p 4 2
  if c.params.isEmpty then s.reply r stOk s.power.rows s.paces
  else
    s.checked r [(rows > 2, stBadParam, 0), c.reserved 1 1, (decide (target < 800) || decide (target > 2400), stBadParam, 2),
        (decide (cap < 900), stBadParam, 4), c.reserved 6 2, c.beyond 8, (decide (cap > 2250), stWard, 0)] fun s =>
      match s.firstMisfit target with
      | some (j, w) => s.reply r stNoFit w j
      | none => (s.setPower fun p => { p with rows := rows, target := target, cap := cap }).reply r stOk rows s.paces

/-- PROFILE_SET. -/
def execProfileSet (r : CmdRef) (s : State) : Host.Outcome State Fault Refusal := s.become (cmdRow r 0x0008 (.profileSet r) (doProfileSet r) s)

/-! ## WAKE_BUDGET (R411) -/

/-- Wake time of an idle state in µs (R404). -/
def wakeTime : Nat → Nat
  | 0 => 0
  | 1 => 2
  | 2 => 50
  | 3 => 2000
  | _ => 30000

/-- The deepest state that a budget permits. -/
def deepest (budget : Nat) : Nat :=
  if budget ≥ 30000 then 4 else if budget ≥ 2000 then 3 else if budget ≥ 50 then 2 else if budget ≥ 2 then 1 else 0

/-- WAKE_BUDGET. -/
def doWakeBudget (r : CmdRef) (c : Cmd) (s : State) : State :=
  let us := c.p 0 4
  let state : Bool × Nat × Nat := if c.job = 0xFFFF then (false, stBadState, 0) else (s.job c.job).stateCheck 0x0009
  s.checked r [c.reserved 4 4, c.beyond 8, state] fun s =>
    let s := if c.params.isEmpty then s
      else if c.job = 0xFFFF then s.setPower fun p => { p with budget := us } else s.setJob c.job fun b => { b with budget := us }
    s.reply r stOk (deepest (if c.job = 0xFFFF then s.power.budget else (s.job c.job).budget)) 0

/-- WAKE_BUDGET. -/
def execWakeBudget (r : CmdRef) (s : State) : Host.Outcome State Fault Refusal := s.become (cmdRow r 0x0009 (.wakeBudget r) (doWakeBudget r) s)

/-! ## Idle states (R404 to R408) -/

/-- Loaded jobs that have a task homed on a core or running on it. -/
def State.jobsOf (s : State) (core : Nat) : List Job :=
  s.jobs.filter fun b => b.loaded && b.tasks.any fun k => k.home == core || k.core == core

/-- The budget of a core (R405). -/
def State.coreBudget (s : State) (core : Nat) : Nat := ((s.jobsOf core).map (·.budget)).foldl min s.power.budget

/-- The enabled cores of a die. -/
def State.coresOn (s : State) (d : Nat) : List Nat := (List.range Config.coreSlots).filter fun c => s.enabled c && dieOf c == d

/-- The budget of a die: the smallest of its cores'; a fenced core sets none. -/
def State.dieBudget (s : State) (d : Nat) : Nat :=
  (((s.coresOn d).filter fun c => !(s.core c).fenced).map s.coreBudget).foldl min s.power.budget

/-- The budget of the device. -/
def State.deviceBudget (s : State) : Nat := ((s.jobs.filter (·.loaded)).map (·.budget)).foldl min s.power.budget

/-- Pacing timer 0 of a task on some of the cores leaves no room for a wake time (R405, R408; log entry 71). -/
def State.pacedWithin (s : State) (p : Nat → Bool) (us : Nat) : Bool :=
  s.jobs.any fun b => b.tasks.any fun k => p k.core && k.pace.any fun x => decide (x.2 ≤ 1000 * us)

/-- The core controller is blocked or runs no task (R320, R406). -/
def State.controllerIdle (s : State) (core : Nat) : Bool :=
  match (s.core core).running with
  | none => true
  | some t => (s.task t).all fun k => k.block.isSome || !(s.job t.job).live

/-- A channel that is neither running nor ended by a fault (R87, R406). -/
def Chan.quiet (c : Chan) : Bool := c.state == 0 || c.state == 2 || c.state == 4

/-- The channels of the tasks on a core are idle, waiting or saved. -/
def State.coreChansQuiet (s : State) (core : Nat) : Bool :=
  s.jobs.all fun b => b.chans.all fun c => c.decl.die || c.quiet || !((b.tasks[c.owner]?).any fun k => k.core == core)

/-- The die channels of a die are idle or waiting. -/
def State.dieChansQuiet (s : State) (d : Nat) : Bool :=
  s.jobs.all fun b => b.chans.all fun c => !c.decl.die || c.owner != d || c.quiet

/-- A core may enter I1. -/
def State.mayI1 (s : State) (core : Nat) : Bool :=
  s.inService core && (s.core core).idle == 0 && decide (2 ≤ s.coreBudget core) && !s.pacedWithin (fun c => c == core) 2

/-- A core may enter I2; a fenced one stays in it. -/
def State.mayI2 (s : State) (core : Nat) : Bool :=
  s.enabled core && (s.core core).idle != 2 && ((s.core core).fenced ||
    (s.inService core && (s.core core).idle == 1 && decide (50 ≤ s.coreBudget core) && !s.pacedWithin (fun c => c == core) 50 &&
      s.controllerIdle core && s.coreChansQuiet core && (s.core core).test == 0))

/-- A core rests in I2. -/
def Core.resting (c : Core) : Bool := c.fenced || c.idle == 2

/-- A die may enter I3. -/
def State.mayI3 (s : State) (d : Nat) : Bool :=
  !s.asleep && decide (d < 4) && (s.die d).domain == 0 && !(s.die d).gated && decide (2000 ≤ s.dieBudget d) &&
    !s.pacedWithin (fun c => dieOf c == d) 2000 && ((s.coresOn d).all fun c => (s.core c).resting) && s.dieChansQuiet d &&
    ((List.range 3).all fun h => (s.hbm.getD (3 * d + h) {}).queue.isEmpty)

/-- The device may enter I4. -/
def State.mayI4 (s : State) : Bool :=
  !s.asleep && !s.power.standby && (s.dies.all fun d => d.gated) && decide (30000 ≤ s.deviceBudget) && !s.pacedWithin (fun _ => true) 30000 &&
    s.fabric.ports.all fun x => x.state == 0 || x.state == 4

/-- A die gated: its tasks' state is in their task slots (R317, R406). -/
def State.gateDie (s : State) (d : Nat) : State :=
  let s := s.setDie d fun x => { x with gated := true, domain := 4 }
  { s with jobs := s.jobs.map fun (b : Job) => { b with tasks := b.tasks.map fun (k : Task) => if dieOf k.core = d then { k with inSlot := true } else k } }

/-- IDLE_ENTRY (R405): the entry delay of the unit's next state has passed. -/
def doIdleEntry (u : IdleUnit) (s : State) : State :=
  match u with
  | .core c =>
    if s.mayI2 c then s.setCore c fun x => { x with idle := 2 } else if s.mayI1 c then s.setCore c fun x => { x with idle := 1 } else s
  | .die d => if s.mayI3 d then s.gateDie d else s
  | .device => if s.mayI4 then s.setPower fun p => { p with standby := true } else s

/-- IDLE_ENTRY. -/
def execIdleEntry (u : IdleUnit) (s : State) : Host.Outcome State Fault Refusal := s.become (doIdleEntry u s)

/-- WAKE_EVENT (R407): the unit accepts work again; the units above it wake with it, and a fenced core stays in I2. -/
def doWakeEvent (u : IdleUnit) (s : State) : State :=
  if s.asleep then s
  else match u with
    | .core c => if s.inService c then s.wakeCore c else s
    | .die d => s.wakeDie d
    | .device => s.setPower fun p => { p with standby := false }

/-- WAKE_EVENT. -/
def execWakeEvent (u : IdleUnit) (s : State) : Host.Outcome State Fault Refusal := s.become (doWakeEvent u s)

/-- Pacing timer 0 of some task on a core runs. -/
def State.paced (s : State) (core : Nat) : Bool := s.jobs.any fun b => b.tasks.any fun k => k.core == core && k.pace.isSome

/-- PACING_WAKE (R408). -/
def doPacingWake (core : Nat) (s : State) : State :=
  if !s.asleep ∧ s.inService core ∧ s.paced core then s.wakeCore core else s

/-- PACING_WAKE. -/
def execPacingWake (core : Nat) (s : State) : Host.Outcome State Fault Refusal := s.become (doPacingWake core s)

/-! ## Input power (R352, R419, R420) -/

/-- What the keeper's flash keeps of the log (R340). -/
def Keeper.unpowered (k : Keeper) : Keeper :=
  { mirrors := k.mirrors, mirrorNext := k.mirrorNext, reservation := k.reservation, resets := [], switrakLaser := false }

/-- What fuses and flash keep of firmware, owner and device set (R378, R380, R383, R388). -/
def Firmware.unpowered (f : Firmware) : Firmware :=
  { bank0 := f.bank0, bank1 := f.bank1, booted := f.booted, floor := f.floor, owner := f.owner, ownerVersion := f.ownerVersion
    deviceSet := f.deviceSet, awaiting := false }

/-- What the pins show is not the module's. -/
def Power.unpowered (p : Power) : Power := { input := false, resetLow := p.resetLow, evt0Low := p.evt0Low, evt1Low := p.evt1Low }

/-- The module without power: what flash and fuses hold remains (R352, R419). -/
def State.dark (s : State) : State :=
  { ident := s.ident, pending := s.pending, draws := s.draws, health := { flash := s.health.flash }
    keeper := s.keeper.unpowered, fw := s.fw.unpowered, power := s.power.unpowered }

/-- POWER_LOSS. -/
def doPowerLoss (s : State) : State := if s.power.input then s.dark else s

/-- POWER_LOSS. -/
def execPowerLoss (s : State) : Host.Outcome State Fault Refusal := s.become (doPowerLoss s)

/-- OVERVOLTAGE (R419, R428): an input above 60 V shuts the module off; beyond the absolute limit of 66 V its condition is not
defined. -/
def execOvervoltage (deciVolts : Nat) (s : State) : Host.Outcome State Fault Refusal :=
  if deciVolts > 660 then .fault .beyondAbsoluteRating else s.become (if deciVolts > 600 then doPowerLoss s else s)

/-- The log restored from the newest flash mirror, its numbers going on from the reservation (R338). -/
def Keeper.restored (k : Keeper) : Keeper :=
  { k with log := k.mirrors.getD ((k.mirrorNext + 7) % 8) [], logSeq := k.reservation }

/-- Health as its flash copy holds it (R368). -/
def Health.restored (h : Health) : Health := { flash := h.flash, acc := h.flash.acc, worn := h.flash.worn, retire := h.flash.retire }

/-- Fences and margins as the flash copy holds them (R368). -/
def FlashHealth.coreAt (f : FlashHealth) (i : Nat) : Core :=
  let x := f.cores.getD i (false, 0, 0)
  { fenced := x.1, delay := x.2.1, volt := x.2.2, liveMargins := x.2 }

/-- The keeper image of a bank runs with measurement entries 0 to 4, and loads its Nerur image (R382, R395). -/
def State.bootBank (s : State) (n : Nat) : State :=
  (s.setFw fun f => { f with keeperVersion := (f.bank n).keeperVersion, measures := s.bootMeasures n }).loadNerur n

/-- The boot of R382 from the bank that R381 chooses, or the recovery state (R384). -/
def State.powerBoot (s : State) : State :=
  match s.fw.choose with
  | some n => s.bootBank n
  | none => s.recover

/-- POWER_UP (R420): the log, patina, margins and fences restored, memory zero, the boot under way; held with source 3 while RESET_N
is low. -/
def doPowerUp (s : State) : State :=
  if s.power.input then s
  else
    let s := { s with
      keeper := { s.keeper.restored with lastCause := 1 }, health := s.health.restored, power := { s.power with input := true }
      cores := (List.range Config.coreSlots).map s.health.flash.coreAt }
    s.bootFrom (if s.power.resetLow then 3 else 1) State.powerBoot

/-- POWER_UP. -/
def execPowerUp (s : State) : Host.Outcome State Fault Refusal := s.become (doPowerUp s)

/-! ## The event pins (R423) -/

/-- EVT_IN0_FALL: PORT_GOODBYE on every port that is UP, once until the pin has risen again. -/
def doEvtIn0Fall (s : State) : State :=
  if s.power.evt0Low then s
  else
    let s := s.setPower fun p => { p with evt0Low := true }
    if !s.power.input ∨ s.deviceInReset ∨ s.upPorts.isEmpty then s else s.sayGoodbye s.upPorts

/-- EVT_IN0_FALL. -/
def execEvtIn0Fall (s : State) : Host.Outcome State Fault Refusal := s.become (doEvtIn0Fall s)

/-- EVT_IN0_RISE. -/
def execEvtIn0Rise (s : State) : Host.Outcome State Fault Refusal := s.become (s.setPower fun p => { p with evt0Low := false })

/-- The PORT_FAILED entries of the interlock: one for each port whose lasers it turns off. -/
def State.interlockLog (s : State) : State :=
  let s := ((List.range 16).filter fun p => (s.port p).laser).foldl (fun s p => s.log 0x0107 2 (portDomain p) 0xFFFF 0 0 0) s
  if s.keeper.switrakLaser then s.log 0x0107 2 { kind := 4, index := 0 } 0xFFFF 0 0 0 else s

/-- EVT_IN1_FALL: every fabric and Switrak laser goes dark, as LASERS_OFF with every port and Switrak does. -/
def doEvtIn1Fall (s : State) : State :=
  let s := s.setPower fun p => { p with evt1Low := true }
  if !s.power.input then s
  else (s.interlockLog.darken (List.range 16) true).setKeeper fun k => { k with lasersOff := k.lasersOff ||| 0x1FFFF }

/-- EVT_IN1_FALL. -/
def execEvtIn1Fall (s : State) : Host.Outcome State Fault Refusal := s.become (doEvtIn1Fall s)

/-- EVT_IN1_RISE: the refusal of PORT_START is lifted; what is dark stays dark. -/
def execEvtIn1Rise (s : State) : Host.Outcome State Fault Refusal := s.become (s.setPower fun p => { p with evt1Low := false })

/-! ## The log mirror (R338, R340, R368) -/

/-- A finished mirror takes its slot, with the reservation that it records. -/
def Keeper.mirrored (k : Keeper) (es : List LogEntry) : Keeper :=
  { k with mirrors := k.mirrors.set (k.mirrorNext % 8) es, mirrorNext := (k.mirrorNext + 1) % 8, reservation := k.logSeq + 65536, mirroring := none }

/-- LOG_MIRROR_COMPLETE. -/
def doLogMirrorComplete (s : State) : State :=
  match s.keeper.mirroring with
  | some es => if s.power.input then (s.setKeeper fun k => k.mirrored es).flashCopy else s
  | none => s

/-- LOG_MIRROR_COMPLETE. -/
def execLogMirrorComplete (s : State) : Host.Outcome State Fault Refusal := s.become (doLogMirrorComplete s)

end Sys2Proof.Machine
end

