-- ==== Sys2Proof/Machine/Dispatch.lean ====
section
/-! DEFINITION. The meaning of each command: one arm per constructor of Instr. -/

namespace Sys2Proof.Machine

/-- The effect of a command on everything but the queue. -/
def exec (i : Instr) (s : State) : Host.Outcome State Fault Refusal :=
  match i with
  | .mma t w faults => Sys2Proof.Machine.execMma t w faults s
  | .recomputeVote core fault => Sys2Proof.Machine.execRecomputeVote core fault s
  | .coreFence core => Sys2Proof.Machine.execCoreFence core s
  | .vadd t w => Sys2Proof.Machine.execVadd t w s
  | .vsub t w => Sys2Proof.Machine.execVsub t w s
  | .vmul t w => Sys2Proof.Machine.execVmul t w s
  | .vfma t w => Sys2Proof.Machine.execVfma t w s
  | .vdiv t w => Sys2Proof.Machine.execVdiv t w s
  | .vsqrt t w => Sys2Proof.Machine.execVsqrt t w s
  | .vmax t w => Sys2Proof.Machine.execVmax t w s
  | .vmin t w => Sys2Proof.Machine.execVmin t w s
  | .vcvt t w => Sys2Proof.Machine.execVcvt t w s
  | .vexp t w => Sys2Proof.Machine.execVexp t w s
  | .vlog t w => Sys2Proof.Machine.execVlog t w s
  | .vrsqrt t w => Sys2Proof.Machine.execVrsqrt t w s
  | .vtanh t w => Sys2Proof.Machine.execVtanh t w s
  | .verf t w => Sys2Proof.Machine.execVerf t w s
  | .vsigm t w => Sys2Proof.Machine.execVsigm t w s
  | .vrsum t w => Sys2Proof.Machine.execVrsum t w s
  | .vrmax t w => Sys2Proof.Machine.execVrmax t w s
  | .vrmin t w => Sys2Proof.Machine.execVrmin t w s
  | .vperm t w => Sys2Proof.Machine.execVperm t w s
  | .vwsum t w => Sys2Proof.Machine.execVwsum t w s
  | .vptree t w => Sys2Proof.Machine.execVptree t w s
  | .vrand t w => Sys2Proof.Machine.execVrand t w s
  | .vrndu t w => Sys2Proof.Machine.execVrndu t w s
  | .vld t w => Sys2Proof.Machine.execVld t w s
  | .vst t w => Sys2Proof.Machine.execVst t w s
  | .scalarOperation t op fmt a b c => Sys2Proof.Machine.execScalarOperation t op fmt a b c s
  | .ppoint t => Sys2Proof.Machine.execPpoint t s
  | .sectionOverrun core => Sys2Proof.Machine.execSectionOverrun core s
  | .phase t opens number timer1Ns => Sys2Proof.Machine.execPhase t opens number timer1Ns s
  | .tilekey t key => Sys2Proof.Machine.execTilekey t key s
  | .pace t line period => Sys2Proof.Machine.execPace t line period s
  | .pacingPulse t => Sys2Proof.Machine.execPacingPulse t s
  | .controllerWait t line count => Sys2Proof.Machine.execControllerWait t line count s
  | .chgoStart t die num value => Sys2Proof.Machine.execChgoStart t die num value s
  | .chgoRetry t die num value => Sys2Proof.Machine.execChgoRetry t die num value s
  | .chgoNext t die num value => Sys2Proof.Machine.execChgoNext t die num value s
  | .chgoAbort t die num value => Sys2Proof.Machine.execChgoAbort t die num value s
  | .chstat t die num => Sys2Proof.Machine.execChstat t die num s
  | .chclr t die num mask => Sys2Proof.Machine.execChclr t die num mask s
  | .epoch t skipEntry => Sys2Proof.Machine.execEpoch t skipEntry s
  | .nonfin t contributor => Sys2Proof.Machine.execNonfin t contributor s
  | .lsexp t => Sys2Proof.Machine.execLsexp t s
  | .optupd t off => Sys2Proof.Machine.execOptupd t off s
  | .update t stack off => Sys2Proof.Machine.execUpdate t stack off s
  | .updateDescriptorRun stack => Sys2Proof.Machine.execUpdateDescriptorRun stack s
  | .collstart t off => Sys2Proof.Machine.execCollstart t off s
  | .collectiveInstanceDone job coll => Sys2Proof.Machine.execCollectiveInstanceDone job coll s
  | .cready t contributor => Sys2Proof.Machine.execCready t contributor s
  | .batch t tokens smallest => Sys2Proof.Machine.execBatch t tokens smallest s
  | .sexit t stream => Sys2Proof.Machine.execSexit t stream s
  | .dmaEnd c => Sys2Proof.Machine.execDmaEnd c s
  | .move c => Sys2Proof.Machine.execMove c s
  | .loop c => Sys2Proof.Machine.execLoop c s
  | .wait c => Sys2Proof.Machine.execWait c s
  | .signal c => Sys2Proof.Machine.execSignal c s
  | .hbmScrub stack word count found => Sys2Proof.Machine.execHbmScrub stack word count found s
  | .hingePrepare r => Sys2Proof.Machine.execHingePrepare r s
  | .hingeCopyDone job image => Sys2Proof.Machine.execHingeCopyDone job image s
  | .hingeCopyFail job cause => Sys2Proof.Machine.execHingeCopyFail job cause s
  | .hingeSwitch r reports => Sys2Proof.Machine.execHingeSwitch r reports s
  | .hingeAbandon r => Sys2Proof.Machine.execHingeAbandon r s
  | .verdict job v => Sys2Proof.Machine.execVerdict job v s
  | .groupSet r => Sys2Proof.Machine.execGroupSet r s
  | .portStop r => Sys2Proof.Machine.execPortStop r s
  | .portConfigure r => Sys2Proof.Machine.execPortConfigure r s
  | .portStart r => Sys2Proof.Machine.execPortStart r s
  | .portStatus r => Sys2Proof.Machine.execPortStatus r s
  | .routeSet r => Sys2Proof.Machine.execRouteSet r s
  | .farEndTraining port => Sys2Proof.Machine.execFarEndTraining port s
  | .trainingDone port result => Sys2Proof.Machine.execTrainingDone port result s
  | .trainTime port => Sys2Proof.Machine.execTrainTime port s
  | .lossOfLight port => Sys2Proof.Machine.execLossOfLight port s
  | .laneLossOfLock port lane => Sys2Proof.Machine.execLaneLossOfLock port lane s
  | .retrainDone port result => Sys2Proof.Machine.execRetrainDone port result s
  | .dataFlit port f => Sys2Proof.Machine.execDataFlit port f s
  | .idleFlit port f => Sys2Proof.Machine.execIdleFlit port f s
  | .retryTimeout port => Sys2Proof.Machine.execRetryTimeout port s
  | .messageForward port vc => Sys2Proof.Machine.execMessageForward port vc s
  | .write port m => Sys2Proof.Machine.execWrite port m s
  | .read port m => Sys2Proof.Machine.execRead port m s
  | .readData port m => Sys2Proof.Machine.execReadData port m s
  | .writeAck port m => Sys2Proof.Machine.execWriteAck port m s
  | .nak port m => Sys2Proof.Machine.execNak port m s
  | .busyResend port tag => Sys2Proof.Machine.execBusyResend port tag s
  | .transportTimeout port tag => Sys2Proof.Machine.execTransportTimeout port tag s
  | .term port m => Sys2Proof.Machine.execTerm port m s
  | .data port m => Sys2Proof.Machine.execData port m s
  | .summary port m contributor finite acc => Sys2Proof.Machine.execSummary port m contributor finite acc s
  | .collectiveCredit port m => Sys2Proof.Machine.execCollectiveCredit port m s
  | .collectiveCounts port m => Sys2Proof.Machine.execCollectiveCounts port m s
  | .reshard r plan => Sys2Proof.Machine.execReshard r plan s
  | .membershipSet r => Sys2Proof.Machine.execMembershipSet r s
  | .membershipRemove r => Sys2Proof.Machine.execMembershipRemove r s
  | .membershipStatus r => Sys2Proof.Machine.execMembershipStatus r s
  | .heartbeatPeriod => Sys2Proof.Machine.execHeartbeatPeriod s
  | .heartbeat port m => Sys2Proof.Machine.execHeartbeat port m s
  | .heartbeatSilence device => Sys2Proof.Machine.execHeartbeatSilence device s
  | .goodbye port m => Sys2Proof.Machine.execGoodbye port m s
  | .suspect port m device reason ownsPiece => Sys2Proof.Machine.execSuspect port m device reason ownsPiece s
  | .gatherWindowClose job => Sys2Proof.Machine.execGatherWindowClose job s
  | .propose port m epoch removed added rank => Sys2Proof.Machine.execPropose port m epoch removed added rank s
  | .lineup port m epoch count => Sys2Proof.Machine.execLineup port m epoch count s
  | .lineupAllowance job => Sys2Proof.Machine.execLineupAllowance job s
  | .turn port m epoch removed added => Sys2Proof.Machine.execTurn port m epoch removed added s
  | .abandon port m epoch => Sys2Proof.Machine.execAbandon port m epoch s
  | .proposalTimeout job => Sys2Proof.Machine.execProposalTimeout job s
  | .repropose job => Sys2Proof.Machine.execRepropose job s
  | .evict port m => Sys2Proof.Machine.execEvict port m s
  | .isolate job => Sys2Proof.Machine.execIsolate job s
  | .ready port m step notReady => Sys2Proof.Machine.execReady port m step notReady s
  | .readyDeadline job => Sys2Proof.Machine.execReadyDeadline job s
  | .inclusion job step n decisions replayBytes => Sys2Proof.Machine.execInclusion job step n decisions replayBytes s
  | .jobWideCommand port m c => Sys2Proof.Machine.execJobWideCommand port m c s
  | .patinaDecay => Sys2Proof.Machine.execPatinaDecay s
  | .flashCopy => Sys2Proof.Machine.execFlashCopy s
  | .doorbell q tail => Sys2Proof.Machine.execDoorbell q tail s
  | .ringEnable q value => Sys2Proof.Machine.execRingEnable q value s
  | .ringDisable q value => Sys2Proof.Machine.execRingDisable q value s
  | .registerWrite offset size value => Sys2Proof.Machine.execRegisterWrite offset size value s
  | .commandRead q slots indirect => Sys2Proof.Machine.execCommandRead q slots indirect s
  | .commandTimeout r => Sys2Proof.Machine.execCommandTimeout r s
  | .nop r => Sys2Proof.Machine.execNop r s
  | .jobConfigure r => Sys2Proof.Machine.execJobConfigure r s
  | .jobWait r => Sys2Proof.Machine.execJobWait r s
  | .detEnforce r => Sys2Proof.Machine.execDetEnforce r s
  | .mbGo ctrl => Sys2Proof.Machine.execMbGo ctrl s
  | .mbRefusedClear => Sys2Proof.Machine.execMbRefusedClear s
  | .maquette => Sys2Proof.Machine.execMaquette s
  | .jobLoad r bin => Sys2Proof.Machine.execJobLoad r bin s
  | .jobUnload r => Sys2Proof.Machine.execJobUnload r s
  | .jobStart r => Sys2Proof.Machine.execJobStart r s
  | .jobStop r => Sys2Proof.Machine.execJobStop r s
  | .cast r => Sys2Proof.Machine.execCast r s
  | .recast r image => Sys2Proof.Machine.execRecast r image s
  | .lend r => Sys2Proof.Machine.execLend r s
  | .reclaim r => Sys2Proof.Machine.execReclaim r s
  | .taskReady t => Sys2Proof.Machine.execTaskReady t s
  | .preempt core overUs => Sys2Proof.Machine.execPreempt core overUs s
  | .sliceEnd core => Sys2Proof.Machine.execSliceEnd core s
  | .streamAdmit r steps => Sys2Proof.Machine.execStreamAdmit r steps s
  | .streamEnd r steps => Sys2Proof.Machine.execStreamEnd r steps s
  | .streamSet r steps => Sys2Proof.Machine.execStreamSet r steps s
  | .streamStatus r => Sys2Proof.Machine.execStreamStatus r s
  | .logRead => Sys2Proof.Machine.execLogRead s
  | .dumpRead => Sys2Proof.Machine.execDumpRead s
  | .bulkCopyDone => Sys2Proof.Machine.execBulkCopyDone s
  | .dumpCopyFail bytesWritten cause => Sys2Proof.Machine.execDumpCopyFail bytesWritten cause s
  | .portGoodbye => Sys2Proof.Machine.execPortGoodbye s
  | .lasersOff => Sys2Proof.Machine.execLasersOff s
  | .fenceAll => Sys2Proof.Machine.execFenceAll s
  | .deviceReset => Sys2Proof.Machine.execDeviceReset s
  | .powerOff => Sys2Proof.Machine.execPowerOff s
  | .resetDrainEnd d => Sys2Proof.Machine.execResetDrainEnd d s
  | .resetDone d durationUs => Sys2Proof.Machine.execResetDone d durationUs s
  | .escalate d failedStep => Sys2Proof.Machine.execEscalate d failedStep s
  | .deviceHeld failedStep => Sys2Proof.Machine.execDeviceHeld failedStep s
  | .thermalTrip die deciCelsius => Sys2Proof.Machine.execThermalTrip die deciCelsius s
  | .resetNFall => Sys2Proof.Machine.execResetNFall s
  | .resetNRise => Sys2Proof.Machine.execResetNRise s
  | .nerurStall ageUs => Sys2Proof.Machine.execNerurStall ageUs s
  | .correctedSummary d => Sys2Proof.Machine.execCorrectedSummary d s
  | .kpEventClear mask => Sys2Proof.Machine.execKpEventClear mask s
  | .i3cEntdaa address => Sys2Proof.Machine.execI3cEntdaa address s
  | .i3cPrivateWrite bytes => Sys2Proof.Machine.execI3cPrivateWrite bytes s
  | .i3cPrivateRead count => Sys2Proof.Machine.execI3cPrivateRead count s
  | .testRun r => Sys2Proof.Machine.execTestRun r s
  | .testDue core => Sys2Proof.Machine.execTestDue core s
  | .testForced core => Sys2Proof.Machine.execTestForced core s
  | .testDone core first second => Sys2Proof.Machine.execTestDone core first second s
  | .healthRead r => Sys2Proof.Machine.execHealthRead r s
  | .firmwareWrite r => Sys2Proof.Machine.execFirmwareWrite r s
  | .firmwareActivate r => Sys2Proof.Machine.execFirmwareActivate r s
  | .attest r => Sys2Proof.Machine.execAttest r s
  | .nerurReady => Sys2Proof.Machine.execNerurReady s
  | .nerurReadyTimeout => Sys2Proof.Machine.execNerurReadyTimeout s
  | .powerWindow watts deciAmps => Sys2Proof.Machine.execPowerWindow watts deciAmps s
  | .profileSet r => Sys2Proof.Machine.execProfileSet r s
  | .regulatorStep die paceMhz => Sys2Proof.Machine.execRegulatorStep die paceMhz s
  | .thermalThrottle die hottest => Sys2Proof.Machine.execThermalThrottle die hottest s
  | .wakeBudget r => Sys2Proof.Machine.execWakeBudget r s
  | .idleEntry u => Sys2Proof.Machine.execIdleEntry u s
  | .wakeEvent u => Sys2Proof.Machine.execWakeEvent u s
  | .pacingWake core => Sys2Proof.Machine.execPacingWake core s
  | .powerUp => Sys2Proof.Machine.execPowerUp s
  | .powerLoss => Sys2Proof.Machine.execPowerLoss s
  | .overvoltage deciVolts => Sys2Proof.Machine.execOvervoltage deciVolts s
  | .evtIn0Fall => Sys2Proof.Machine.execEvtIn0Fall s
  | .evtIn1Fall => Sys2Proof.Machine.execEvtIn1Fall s
  | .evtIn1Rise => Sys2Proof.Machine.execEvtIn1Rise s
  | .adapterAcknowledgement id a => Sys2Proof.Machine.execAdapterAcknowledgement id a s
  | .adapterWindowTableWrite windows farRateMBps => Sys2Proof.Machine.execAdapterWindowTableWrite windows farRateMBps s
  | .goodbyeRepeat => Sys2Proof.Machine.execGoodbyeRepeat s
  | .evtIn0Rise => Sys2Proof.Machine.execEvtIn0Rise s
  | .logMirrorComplete => Sys2Proof.Machine.execLogMirrorComplete s

end Sys2Proof.Machine
end

