-- ==== Sys2Proof/Machine/Idle.lean ====
section
/-! DEFINITION. What a step does when no command waits in the queue: one microsecond passes (log entry 24). Time counts on the
keeper's clock (R358), tests accrue active time (R369), every UP port sends a flit (R195), work of a job that waited for something
else goes on where it can (READY, LEND, RECLAIM, CAST), and each command that the manual makes wait is tried again (log entry 16). -/

namespace Sys2Proof.Machine

/-- One microsecond on the keeper's clock and in the age of the shadow (R310, R311, R358). -/
def Keeper.tick (k : Keeper) : Keeper :=
  { k with time := k.time + 1, shadowAge := if k.management = 0 then 0 else min (k.shadowAge + 1) 0xFFFFFFFF }

/-- Active time of a core: it runs a task (R369). -/
def Core.tick (c : Core) : Core := if c.running.isSome then { c with activeUs := c.activeUs + 1 } else c

/-- Flits sent in one tick. -/
def State.sendFlits (s : State) : State := (List.range 16).foldl (fun s p => s.flitSlot p) s

/-- A waiting command tried again, kept, or dropped with its agent. -/
def State.retry (s : State) (w : Agent × Instr) : State :=
  match s.mayRetry w with
  | some true => match exec w.2 s with
    | .next t => t
    | _ => s
  | some false => { s with waiting := s.waiting ++ [w] }
  | none => s

/-- Every waiting command tried once, in order. -/
def State.retryAll (s : State) : State := s.waiting.foldl State.retry { s with waiting := [] }

/-- Work of a job that waited: READY up the tree (R258), cores to be passed (R327), an image to be written (R330). -/
def State.jobTick (s : State) (j : Nat) : State :=
  let s := if (s.job j).live ∧ (s.job j).width ≠ 0 then s.sendReady j false else s
  (s.lendProgress j).castProgress j

/-- The tick. -/
def State.tick (s : State) : State :=
  ((List.range 64).foldl State.jobTick ({ s.setKeeper Keeper.tick with cores := s.cores.map Core.tick }).sendFlits).retryAll

/-- A step on an empty queue. -/
def idleStep (s : State) : Host.Outcome State Fault Refusal := if s.power.input then s.become s.tick else .next s

end Sys2Proof.Machine
end

