-- ==== Sys2Proof/Safety.lean ====
section
/-! DEFINITION. The terms that claims use: sound and protected parts of the machine, what an instruction of a task leaves
behind it, and when a ring command may be carried out. -/

namespace Sys2Proof.Machine

/-- Memory is in canonical form (R83, R113). -/
def State.memOk (s : State) : Prop := s.mem.wf = true

/-- Two states agree on everything that is fused or provisioned (R307, R394). -/
def State.sameIdent (s t : State) : Prop := t.ident = s.ident

/-- The fused identity is that of a grade of the part: KVG8-192-L with no core disabled, or KVG8-160-L with eight disabled on each
compute die (R1, R2). -/
def Ident.legal (i : Ident) : Bool :=
  (i.grade == 1 && i.disabled.isEmpty) ||
    (i.grade == 2 && decide i.disabled.Nodup && i.disabled.all (fun c => decide (c < Config.coreSlots)) &&
      (List.range 4).all fun d => (i.disabled.filter fun c => dieOf c == d).length == 8)

/-- Every byte of memory reads the same. -/
def State.sameMem (s t : State) : Prop := ∀ key, cellGet t.mem.cells key = cellGet s.mem.cells key

/-- A command is answered with a next state that has the property. -/
def Completes (i : Instr) (s : State) (P : State → Prop) : Prop := ∃ t, exec i s = .next t ∧ P t

/-- A task with an instruction done: the task changed, and the preemption point it may have stood at left behind (R74). -/
def State.did (s : State) (t : TaskRef) (f : Task → Task) : State := s.setTask t fun x => f { x with atPoint := false }

/-- The same for an array or vector instruction, whose units are awake afterwards (R404, R407). -/
def State.unitDid (s : State) (t : TaskRef) (core : Nat) (f : Task → Task) : State :=
  (s.did t f).setCore core fun c => { c with idle := 0 }

/-- A vector instruction done: elements of a format from its destination register upwards, and its event line pulsed when SIGNAL is
set (R65, R429). -/
def State.vecDid (s : State) (t : TaskRef) (k : Task) (w : VecWord) (f : Fmt) (xs : List Nat) : State :=
  (s.unitDid t k.core fun x => x.vput w.dst f xs).signalLine t k (bitOf w.flags 0) w.line

/-- The workspace of a task as plain memory: no codeword in error, no line with tag P, no epoch region in workspace and the group table
not in it, so that no access to it waits or fails (R85, R149 to R151, R168). -/
def State.plainWs (s : State) (t : TaskRef) (k : Task) : Bool :=
  s.mem.ecc.isEmpty && (s.job t.job).train.tagged.isEmpty && decide ((s.job t.job).groupTable + 32 * (s.job t.job).groupCount ≤ 2 ^ 52) &&
    (s.job t.job).tasks.all (fun x => x.decl.epochWorkspace.isEmpty) && !k.prov

/-- The memory of a job as its committed work finds it when nothing delays or spoils an access: no codeword in error, no tagged line, no
dirty page, and every epoch page's first half the committed one (R85, R150, R151). -/
def State.plainRead (s : State) (j : Nat) : Bool :=
  s.mem.ecc.isEmpty && (s.job j).train.tagged.isEmpty && (s.job j).train.dirty.isEmpty && (s.job j).train.owner.isEmpty

/-- The same for a job without a group table, whose FORM bits its writes would leave (R168). -/
def State.plainDev (s : State) (j : Nat) : Bool := s.plainRead j && (s.job j).groupCount == 0

/-- A stretch that holds no byte of the job's group table (R168). -/
def State.offTable (s : State) (j a n : Nat) : Prop :=
  (s.job j).groupCount = 0 ∨ a + n ≤ (s.job j).groupTable ∨ (s.job j).groupTable + 32 * (s.job j).groupCount ≤ a

/-- A byte of memory after stretches are laid one after another. -/
def laidByte (m : Cells) (ws : List (Nat × Bytes)) (key : Nat) : Byte :=
  ws.foldl (fun v x => if x.1 ≤ key ∧ key < x.1 + x.2.length then x.2.getD (key - x.1) 0 else v) (cellGet m key)

/-- A stretch of HBM that the job may reach, every byte of it (R117, R118, R121). -/
def State.reaches (s : State) (j a n : Nat) : Prop := a + n ≤ hbmEnd ∧ ∀ x, a ≤ x → x < a + n → s.resolveHbm j x = .mem x

/-- Memory after bytes are laid at a key: those bytes there, every other byte as before. -/
def State.laid (s t : State) (key : Nat) (bs : Bytes) : Prop :=
  ∀ k, cellGet t.mem.cells k = if key ≤ k ∧ k < key + bs.length then bs.getD (k - key) 0 else cellGet s.mem.cells k

/-- The same state with other bytes in memory. -/
def State.withCells (s : State) (m : Cells) : State := { s with mem := { s.mem with cells := m } }

/-- The rows that are instructions of a task: arrays, vector engine and core controller. -/
def taskRow : Instr → Option TaskRef
  | .mma t _ _ | .vadd t _ | .vsub t _ | .vmul t _ | .vfma t _ | .vdiv t _ | .vsqrt t _ | .vmax t _ | .vmin t _ | .vcvt t _ | .vexp t _
  | .vlog t _ | .vrsqrt t _ | .vtanh t _ | .verf t _ | .vsigm t _ | .vrsum t _ | .vrmax t _ | .vrmin t _ | .vperm t _ | .vwsum t _
  | .vptree t _ | .vrand t _ | .vrndu t _ | .vld t _ | .vst t _ | .scalarOperation t _ _ _ _ _ | .ppoint t | .phase t _ _ _ | .tilekey t _
  | .pace t _ _ | .controllerWait t _ _ | .chgoStart t _ _ _ | .chgoRetry t _ _ _ | .chgoNext t _ _ _ | .chgoAbort t _ _ _ | .chstat t _ _
  | .chclr t _ _ _ | .epoch t _ | .nonfin t _ | .lsexp t | .optupd t _ | .update t _ _ | .collstart t _ | .cready t _ | .batch t _ _
  | .sexit t _ => some t
  | _ => none

/-- The vector rows whose results come from registers alone, with the word. -/
def registerRow : Instr → Option (TaskRef × Bytes)
  | .vadd t w | .vsub t w | .vmul t w | .vfma t w | .vdiv t w | .vsqrt t w | .vmax t w | .vmin t w | .vcvt t w | .vexp t w | .vlog t w
  | .vrsqrt t w | .vtanh t w | .verf t w | .vsigm t w | .vrsum t w | .vrmax t w | .vrmin t w | .vperm t w | .vwsum t w | .vrand t w
  | .vrndu t w => some (t, w)
  | _ => none

/-- A ring command that nothing holds back or turns away before its own checks (R291, R294, R301, R302, R312, R384, R432). -/
def State.mayBegin (s : State) (r : CmdRef) (c : Cmd) (op : Nat) : Bool :=
  s.cmd r == some c && s.takesCommands && !c.begun && c.opcode == op && (opcodeRow op).isSome && !c.headerBad && !s.resetStops c.job &&
    !(s.fw.recovery && !recoveryOp op) && !s.mustWait c && (c.job == 0xFFFF || jobAccepts (s.job c.job).state op != .waits)

/-- A deadbolt command that its row carries out: the mailbox is busy with one of its opcode, and neither the held state nor the recovery
state refuses it (R309, R349, R384). -/
def State.mbBegins (s : State) (op : Nat) : Bool :=
  s.power.input && s.keeper.mailbox.busy && s.keeper.mailbox.cmd.opcode == op && !(s.keeper.held && !heldOp op) &&
    !(s.fw.recovery && !recoveryDeadbolt op)

/-- The rows that carry out ring commands: the command and the opcode it must have (R302). -/
def ringRow : Instr → Option (CmdRef × Nat)
  | .hingePrepare r => some (r, 0x0201)
  | .hingeSwitch r _ => some (r, 0x0202)
  | .hingeAbandon r => some (r, 0x0203)
  | .groupSet r => some (r, 0x0501)
  | .portStop r => some (r, 0x0301)
  | .portConfigure r => some (r, 0x0302)
  | .portStart r => some (r, 0x0303)
  | .portStatus r => some (r, 0x0304)
  | .routeSet r => some (r, 0x0305)
  | .reshard r _ => some (r, 0x0310)
  | .membershipSet r => some (r, 0x0311)
  | .membershipRemove r => some (r, 0x0312)
  | .membershipStatus r => some (r, 0x0313)
  | .nop r => some (r, 0x0001)
  | .jobConfigure r => some (r, 0x0103)
  | .jobWait r => some (r, 0x010A)
  | .detEnforce r => some (r, 0x0010)
  | .jobLoad r _ => some (r, 0x0101)
  | .jobUnload r => some (r, 0x0102)
  | .jobStart r => some (r, 0x0104)
  | .jobStop r => some (r, 0x0105)
  | .cast r => some (r, 0x0106)
  | .recast r _ => some (r, 0x0107)
  | .lend r => some (r, 0x0108)
  | .reclaim r => some (r, 0x0109)
  | .streamAdmit r _ => some (r, 0x0401)
  | .streamEnd r _ => some (r, 0x0402)
  | .streamSet r _ => some (r, 0x0403)
  | .streamStatus r => some (r, 0x0404)
  | .testRun r => some (r, 0x0601)
  | .healthRead r => some (r, 0x0602)
  | .firmwareWrite r => some (r, 0x0004)
  | .firmwareActivate r => some (r, 0x0005)
  | .attest r => some (r, 0x0003)
  | .profileSet r => some (r, 0x0008)
  | .wakeBudget r => some (r, 0x0009)
  | _ => none

end Sys2Proof.Machine
end

