-- ==== Sys2Proof/Certificates/Slice0/Obligations.lean ====
section
/-! DEFINITION. The statements about this model that provers settle. -/

open Sys2Proof Sys2Proof.Machine

/-- For every command c, every rest of the queue and every state s, a step of s with c at the front of its queue is the
outcome of c on s with the rest as its queue. The queue is the model's own; the manual gives the block no program
counter. -/
def Obligations.StepRunsTheFrontCommand : Prop :=
  ∀ (c : Instr) (rest : List Instr) (s : State), step { s with pending := c :: rest } = exec c { s with pending := rest }

/-- In the reset state every job context is EMPTY, memory lists no byte that is not zero, every fabric port is DOWN, every
ring is DISABLED with RING_CFG and HEAD zero, KP_EVENT, KP_DUMP, KP_DUMP_DONE and KP_TIME read zero, the mailbox reads
zero, the identity block gives the family, the stepping and the numerics signature of the part, and the fused identity
is legal for its grade. The grade itself, the serial number and the device identifier are the model's choice (log entry
11) and are not stated. -/
def Obligations.ResetStateIsAsTheManualGives : Prop :=
  State.reset.jobs.all (fun b => b.state == 0) = true ∧ State.reset.mem.cells = [] ∧ State.reset.fabric.ports.all (fun p => p.state == 0) = true ∧
    (∀ o < 0x840, State.reset.doorbellByte o = 0) ∧ State.reset.keeperReg 0x1010 = 0 ∧ State.reset.keeperReg 0x1018 = 0 ∧
    State.reset.keeperReg 0x1028 = 0 ∧ State.reset.keeperReg 0x1030 = 0 ∧ State.reset.keeper.mailbox.status = 0 ∧
    State.reset.identReg 0x0000 % 2 ^ 24 = 0xB00008 ∧ State.reset.identReg 0x0008 = 0x6C1E2B40 ∧ State.reset.ident.legal = true

/-- For every command and every state the outcome is a next state, never a refusal and never a fault, but for OVERVOLTAGE at
more than 66.0 V. There, where the manual does not define the condition of the module afterwards, the outcome is the
fault beyondAbsoluteRating. -/
def Obligations.EveryCommandIsAnswered : Prop :=
  ∀ (i : Instr) (s : State),
    ((∀ v, i = .overvoltage v → v ≤ 660) → ∃ t, exec i s = .next t) ∧ ∀ v, i = .overvoltage v → 660 < v → exec i s = .fault .beyondAbsoluteRating

/-- For every state with a legal fused identity and every number n of steps that ends in a next state: the identity is
unchanged and still legal; the identity block of the register window (offsets 0x0000 to 0x0037) reads byte for byte as
before, so the numerics signature, the core map, the device identifier and the serial number are those the part started
with; and exactly n commands have left the front of the queue, none added. The starting state is any state, reachable or
not. -/
def Obligations.FusedIdentityKeptByEveryRun : Prop :=
  ∀ (n : Nat) (s t : State), s.ident.legal = true → Host.Core.run Sys2Proof.core n s = .next t →
    t.ident = s.ident ∧ t.ident.legal = true ∧ (∀ o < 0x38, t.windowByte o = s.windowByte o) ∧ t.pending = s.pending.drop n

/-- For each of the 36 rows that carry out a ring command and a command that has been read and not begun, while commands are
taken: an opcode outside the map of R302 is answered with BAD_OPCODE; a header that breaks R294 or an indirect pointer
block that breaks R292 is answered with BAD_PARAM, detail 0x00FF_FFFF; a command of that row on a job that a reset under
way will stop is answered with FENCED; in the recovery state every command but NOP, ATTEST, FIRMWARE_WRITE and
FIRMWARE_ACTIVATE is answered with BAD_STATE. The whole next state is the one that the answer leaves, so nothing else
changes. A command that has begun already is not begun again. -/
def Obligations.RingCommandsAreTurnedAwayByOneRule : Prop :=
  ∀ (i : Instr) (r : CmdRef) (op : Nat) (s : State) (c : Cmd), ringRow i = some (r, op) → s.cmd r = some c →
    (s.takesCommands = false ∨ c.begun = true → exec i s = .next s) ∧
    (s.takesCommands = true → c.begun = false →
      (opcodeRow c.opcode = none → exec i s = .next (s.keep (s.reply r 0x0101 0 0))) ∧
      (opcodeRow c.opcode ≠ none → c.headerBad = true → exec i s = .next (s.keep (s.reply r 0x0102 0x00FFFFFF 0))) ∧
      (c.opcode = op → c.headerBad = false → s.resetStops c.job = true → exec i s = .next (s.keep (s.reply r 0x0202 0 0))) ∧
      (c.opcode = op → c.headerBad = false → s.resetStops c.job = false → s.fw.recovery = true → recoveryOp op = false →
        exec i s = .next (s.keep (s.reply r 0x0104 (s.ring r.queue).state 0))))

/-- For each of the 47 rows that are instructions of a task (arrays, vector engine, core controller): while the task's job
does not run, the task is not on its core, it is blocked, its core's units sleep or the dies do not act, the command
leaves the whole state as it is. That such a command is no error and no change is the model's choice (log entry 40). -/
def Obligations.InstructionsNeedTheirTaskOnItsCore : Prop :=
  ∀ (i : Instr) (t : TaskRef) (s : State), taskRow i = some t → s.canIssue t = false → exec i s = .next s

/-- For a task that can issue and a word whose format is one that vector arithmetic takes: each of the eight element-wise
rows, on a word with its opcode, completes, and the next state is exactly the one in which element i of dst is the
operation of R63 or R68 on element i of the sources, the bits beyond the last element keep their values, the core's
units are awake, the preemption point is left behind, and the event line of the word is pulsed when SIGNAL is set. A
word with another opcode, or with a format that vector arithmetic does not take, leaves the state as it is. -/
def Obligations.VectorElementwiseResults : Prop :=
  ∀ (s : State) (t : TaskRef) (k : Task) (word : Bytes) (f : Fmt), s.canIssue t = true → s.task t = some k →
    let w := VecWord.ofBytes word
    let a := k.vget w.a f w.count
    let b := k.vget w.b f w.count
    let c := k.vget w.c f w.count
    (vecFmt w.fmt = some f →
      (w.op = 0x40 → exec (.vadd t word) s = .next (s.keep (s.vecDid t k w f (List.zipWith (fAdd f) a b)))) ∧
      (w.op = 0x41 → exec (.vsub t word) s = .next (s.keep (s.vecDid t k w f (List.zipWith (fSub f) a b)))) ∧
      (w.op = 0x42 → exec (.vmul t word) s = .next (s.keep (s.vecDid t k w f (List.zipWith (fMul f) a b)))) ∧
      (w.op = 0x43 → exec (.vfma t word) s =
        .next (s.keep (s.vecDid t k w f (List.zipWith (fun (x : Nat × Nat) z => fFma f x.1 x.2 z) (List.zip a b) c)))) ∧
      (w.op = 0x44 → exec (.vdiv t word) s = .next (s.keep (s.vecDid t k w f (List.zipWith (fDiv f) a b)))) ∧
      (w.op = 0x45 → exec (.vsqrt t word) s = .next (s.keep (s.vecDid t k w f (a.map (fSqrt f))))) ∧
      (w.op = 0x46 → exec (.vmax t word) s = .next (s.keep (s.vecDid t k w f (List.zipWith (fMax f) a b)))) ∧
      (w.op = 0x47 → exec (.vmin t word) s = .next (s.keep (s.vecDid t k w f (List.zipWith (fMin f) a b))))) ∧
    (w.op ≠ 0x40 ∨ vecFmt w.fmt = none → exec (.vadd t word) s = .next s) ∧ (w.op ≠ 0x41 ∨ vecFmt w.fmt = none → exec (.vsub t word) s = .next s) ∧
    (w.op ≠ 0x42 ∨ vecFmt w.fmt = none → exec (.vmul t word) s = .next s) ∧ (w.op ≠ 0x43 ∨ vecFmt w.fmt = none → exec (.vfma t word) s = .next s) ∧
    (w.op ≠ 0x44 ∨ vecFmt w.fmt = none → exec (.vdiv t word) s = .next s) ∧ (w.op ≠ 0x45 ∨ vecFmt w.fmt = none → exec (.vsqrt t word) s = .next s) ∧
    (w.op ≠ 0x46 ∨ vecFmt w.fmt = none → exec (.vmax t word) s = .next s) ∧ (w.op ≠ 0x47 ∨ vecFmt w.fmt = none → exec (.vmin t word) s = .next s)

/-- For a task that can issue and a word with the row's opcode and a format that vector arithmetic takes other than FP64:
each of the six rows completes, and the next state is exactly the one in which element i of dst is the transcendental of
R66 on element i of src_a. Which FP32 value inside the bound of R66 a unit gives is a free value (log entry 2). With
FP64, to which R66 gives no meaning, the row leaves the state as it is. -/
def Obligations.VectorTranscendentalResults : Prop :=
  ∀ (s : State) (t : TaskRef) (k : Task) (word : Bytes) (f : Fmt), s.canIssue t = true → s.task t = some k →
    let w := VecWord.ofBytes word
    let a := k.vget w.a f w.count
    vecFmt w.fmt = some f →
    (f ≠ .fp64 →
      (w.op = 0x50 → exec (.vexp t word) s = .next (s.keep (s.vecDid t k w f (a.map (transIn .exp f))))) ∧
      (w.op = 0x51 → exec (.vlog t word) s = .next (s.keep (s.vecDid t k w f (a.map (transIn .log f))))) ∧
      (w.op = 0x52 → exec (.vrsqrt t word) s = .next (s.keep (s.vecDid t k w f (a.map (transIn .rsqrt f))))) ∧
      (w.op = 0x53 → exec (.vtanh t word) s = .next (s.keep (s.vecDid t k w f (a.map (transIn .tanh f))))) ∧
      (w.op = 0x54 → exec (.verf t word) s = .next (s.keep (s.vecDid t k w f (a.map (transIn .erf f))))) ∧
      (w.op = 0x55 → exec (.vsigm t word) s = .next (s.keep (s.vecDid t k w f (a.map (transIn .sigmoid f)))))) ∧
    (f = .fp64 → exec (.vexp t word) s = .next s ∧ exec (.vlog t word) s = .next s ∧ exec (.vrsqrt t word) s = .next s ∧
      exec (.vtanh t word) s = .next s ∧ exec (.verf t word) s = .next s ∧ exec (.vsigm t word) s = .next s)

/-- For a task that can issue and a word with the row's opcode and a format of vector arithmetic: VRSUM writes to element 0
of dst the sum of src_a over the canonical pairing tree; VRMAX and VRMIN write the canonical NaN when any element is a
NaN and the tree's maximum or minimum else; with no element nothing is written. VPERM writes to element i the element of
src_a at the position held in element i of src_c, and +0 for a position at or beyond count. The next state is exactly
the one these results give. -/
def Obligations.VectorAcrossLanesResults : Prop :=
  ∀ (s : State) (t : TaskRef) (k : Task) (word : Bytes) (f : Fmt), s.canIssue t = true → s.task t = some k →
    let w := VecWord.ofBytes word
    let a := k.vget w.a f w.count
    let pick := fun (g : Nat → Nat → Nat) => if a.any fun x => decodeFloat f x = .nan then [f.nanBits] else (treeOf g a).toList
    vecFmt w.fmt = some f →
    (w.op = 0x58 → exec (.vrsum t word) s = .next (s.keep (s.vecDid t k w f (treeOf (fAdd f) a).toList))) ∧
    (w.op = 0x59 → exec (.vrmax t word) s = .next (s.keep (s.vecDid t k w f (pick (fMax f))))) ∧
    (w.op = 0x5A → exec (.vrmin t word) s = .next (s.keep (s.vecDid t k w f (pick (fMin f))))) ∧
    (w.op = 0x5C → exec (.vperm t word) s =
      .next (s.keep (s.vecDid t k w f ((k.vget w.c f w.count).map fun i => if i < w.count then a.getD i 0 else 0))))

/-- For a task that can issue: VCVT writes each element of src_a converted from the source to the destination format of its
pair, with scale 1.0 and zero point 0; VWSUM writes one FP32 chunk sum for each stretch of imm[7:0] products, 32, 64 or
128 of them, of a pair of R42; VPTREE reads imm partial vectors from plain workspace, one after another at the pitch of
the word, and writes element by element their sum over the canonical pairing tree, nothing when imm is zero. The next
state is exactly the one these results give; reading changes nothing. -/
def Obligations.VectorConversionAndSumResults : Prop :=
  ∀ (s : State) (t : TaskRef) (k : Task) (word : Bytes), s.canIssue t = true → s.task t = some k →
    let w := VecWord.ofBytes word
    (∀ src dst, w.op = 0x48 → vcvtPair w = some (src, dst) → exec (.vcvt t word) s =
      .next (s.keep (s.vecDid t k w dst ((k.vget w.a src w.count).map (convElem src dst .plain))))) ∧
    (∀ fa fb, w.op = 0x60 → w.imm % 256 = 32 ∨ w.imm % 256 = 64 ∨ w.imm % 256 = 128 → Fmt.ofCode w.fmt = some fa →
      Fmt.ofCode (bitsOf w.imm 8 8) = some fb → pairOk fa fb = true →
      let ps := List.zipWith Machine.Num.mul ((k.vget w.a fa w.count).map (decodeFloat fa)) ((k.vget w.b fb w.count).map (decodeFloat fb))
      exec (.vwsum t word) s = .next (s.keep (s.vecDid t k w .fp32 (chunkSums (w.imm % 256) ps.length ps)))) ∧
    (∀ f, w.op = 0x61 → Fmt.ofCode w.fmt = some f → f = .fp32 ∨ f = .fp64 → s.plainWs t k = true →
      let len := w.count * f.size
      let pitch := if w.stride = 0 then roundUp len 64 else 64 * w.stride
      (∀ i < w.imm, w.addr + i * pitch + len ≤ wsBytes) →
      exec (.vptree t word) s = .next (s.keep (s.vecDid t k w f (if w.imm = 0 then [] else (List.range w.count).map fun e =>
        (treeOf (fAdd f) ((List.range w.imm).map fun i =>
          elemAt f (s.mem.read (wsKey t.job k.home (w.addr + i * pitch)) len) e)).getD 0))))

/-- For a task that can issue and a word with the row's opcode and the format FP32 or INT32: VRAND writes to element i of
dst the random word of R40 for the job's seed, the index in the word plus i, the step register and the stream number.
VRNDU writes one word of the entropy source per element: which word is a free value (log entry 3), and the model's own
count of draws goes up by the number of elements. The whole next state is given. -/
def Obligations.RandomNumberResults : Prop :=
  ∀ (s : State) (t : TaskRef) (k : Task) (word : Bytes), s.canIssue t = true → s.task t = some k →
    let w := VecWord.ofBytes word
    Fmt.ofCode w.fmt = some .fp32 ∨ Fmt.ofCode w.fmt = some .int32 →
    (w.op = 0x68 → exec (.vrand t word) s = .next (s.keep (s.vecDid t k w .int32 ((List.range w.count).map fun i =>
      (randomWord (s.job t.job).seed ((w.aux + i) % 2 ^ 64) (s.job t.job).train.step (w.imm % 65536)).toNat)))) ∧
    (w.op = 0x69 → exec (.vrndu t word) s = .next (s.keep
      { s.vecDid t k w .int32 ((List.range w.count).map fun i => (Config.entropy (s.draws + i)).toNat) with draws := s.draws + w.count }))

/-- For a task that can issue, a word with the row's opcode and a format of vector arithmetic, plain workspace and a stretch
inside the 8 MiB of the task's workspace: VLD completes, writes to dst the elements that workspace holds from the word's
address upwards and leaves memory as it was. VST completes; afterwards each byte from wsKey of the task's job, its home
core and the word's address upwards reads as the packed elements of src_a, and every other byte of memory reads as
before. When one line of workspace that VLD reads holds an uncorrectable word, the job stops with UNCORRECTABLE. -/
def Obligations.VectorLoadAndStoreMoveWorkspaceBytes : Prop :=
  ∀ (s : State) (t : TaskRef) (k : Task) (word : Bytes) (f : Fmt), s.canIssue t = true → s.task t = some k →
    let w := VecWord.ofBytes word
    let key := wsKey t.job k.home w.addr
    vecFmt w.fmt = some f →
    (s.plainWs t k = true → w.op = 0x70 → w.addr + f.bytesOf w.count ≤ wsBytes →
      exec (.vld t word) s = .next (s.keep (s.vecDid t k w f (elemsOf f (s.mem.read key (f.bytesOf w.count)) w.count)))) ∧
    (s.plainWs t k = true → cellsWf s.mem.cells = true → w.op = 0x71 →
      let bs := packElems f (k.vget w.a f w.count)
      w.addr + bs.length ≤ wsBytes →
      ∃ m, exec (.vst t word) s = .next (s.keep (((s.unitDid t k.core id).withCells m).signalLine t k (bitOf w.flags 0) w.line)) ∧
        cellsWf m = true ∧ ∀ a, cellGet m a = if key ≤ a ∧ a < key + bs.length then bs.getD (a - key) 0 else cellGet s.mem.cells a) ∧
    (w.op = 0x70 → (s.job t.job).train.tagged = [] → (s.job t.job).tasks.all (fun x => x.decl.epochWorkspace.isEmpty) = true → 0 < f.bytesOf w.count →
      w.addr % 64 + f.bytesOf w.count ≤ 64 → w.addr + f.bytesOf w.count ≤ wsBytes → s.mem.bad key (f.bytesOf w.count) = true →
      exec (.vld t word) s = .next (s.keep (s.faultStop t.job 0x0301 true)))

/-- For every floating-point format of vector arithmetic and any operand bits, the scalar operation of opcode 0x40 to 0x47
gives the same bits as the vector row of that opcode on one element, and 0x50 to 0x55 likewise but for FP64, where they
have no meaning. For a task that can issue, SCALAR_OPERATION completes: the result is in the controller's result
register, and nothing changes but that register and the preemption point left behind. An opcode or format without a
scalar operation changes nothing. -/
def Obligations.ScalarOperationGivesTheVectorBits : Prop :=
  (∀ (f : Fmt) (a b c : Nat),
    let x := a % 2 ^ f.width
    let y := b % 2 ^ f.width
    let z := c % 2 ^ f.width
    scalarOp 0x40 f a b c = some (fAdd f x y) ∧ scalarOp 0x41 f a b c = some (fSub f x y) ∧ scalarOp 0x42 f a b c = some (fMul f x y) ∧
    scalarOp 0x43 f a b c = some (fFma f x y z) ∧ scalarOp 0x44 f a b c = some (fDiv f x y) ∧ scalarOp 0x45 f a b c = some (fSqrt f x) ∧
    scalarOp 0x46 f a b c = some (fMax f x y) ∧ scalarOp 0x47 f a b c = some (fMin f x y) ∧
    (f ≠ .fp64 → scalarOp 0x50 f a b c = some (transIn .exp f x) ∧ scalarOp 0x51 f a b c = some (transIn .log f x) ∧
      scalarOp 0x52 f a b c = some (transIn .rsqrt f x) ∧ scalarOp 0x53 f a b c = some (transIn .tanh f x) ∧
      scalarOp 0x54 f a b c = some (transIn .erf f x) ∧ scalarOp 0x55 f a b c = some (transIn .sigmoid f x))) ∧
  ∀ (s : State) (t : TaskRef) (k : Task) (op fmt : Byte) (a b c : U64), s.canIssue t = true → s.task t = some k →
    (∀ f v, vecFmt fmt.toNat = some f → scalarOp op.toNat f a.toNat b.toNat c.toNat = some v →
      exec (.scalarOperation t op fmt a b c) s = .next (s.did t fun x => { x with scalar := BitVec.ofNat 64 v })) ∧
    ((∀ f, vecFmt fmt.toNat = some f → scalarOp op.toNat f a.toNat b.toNat c.toNat = none) →
      exec (.scalarOperation t op fmt a b c) s = .next s)

/-- For each of the 22 vector rows whose results depend on registers alone, in every state: when the outcome is a next
state, every byte of memory reads as before, and the fabric, the host interface, the health counters, the firmware and
ward registers, the power registers and the update units' queues are unchanged. The event lines may change, since SIGNAL
pulses one, and with a lost pulse the error log. -/
def Obligations.RegisterInstructionsLeaveMemoryAlone : Prop :=
  ∀ (i : Instr) (t : TaskRef) (w : Bytes) (s u : State), registerRow i = some (t, w) → exec i s = .next u →
    s.sameMem u ∧ u.mem = s.mem ∧ u.fabric = s.fabric ∧ u.host = s.host ∧ u.health = s.health ∧ u.fw = s.fw ∧ u.power = s.power ∧ u.hbm = s.hbm

/-- For a task that can issue. TILEKEY sets the tile-key register. PACE stops pacing timer 0 for a zero period, else starts
it on the line with that period and at least 1,000 ns. PHASE with a number up to 255 opens a phase at pacing timer 1, or
closes an open one and notes its duration modulo 2^32 ns, the largest over the job's cores kept; closing a phase that is
not open notes nothing. PPOINT leaves the task at a preemption point and puts its core's margins in effect. A controller
wait with count zero completes at once. Whether or not the task is on its core, a pulse of its timer 0 adds one pulse to
its line; with no timer running nothing happens. Every next state is given whole. -/
def Obligations.ControllerRegistersTakeTheirValues : Prop :=
  ∀ (s : State) (t : TaskRef) (k : Task), s.task t = some k →
    (s.canIssue t = true →
      (∀ key, exec (.tilekey t key) s = .next (s.did t fun x => { x with tileKey := key })) ∧
      (∀ line (period : U32), period = 0 → exec (.pace t line period) s = .next (s.did t fun x => { x with pace := none })) ∧
      (∀ line (period : U32), period ≠ 0 →
        exec (.pace t line period) s = .next (s.did t fun x => { x with pace := some (line, max 1000 period.toNat) })) ∧
      (∀ n timer, n ≤ 255 → exec (.phase t true n timer) s =
        .next (s.did t fun x => { x with phases := x.phases.filter (fun p => p.1 != n) ++ [(n, timer % 2 ^ 32)] })) ∧
      (∀ n timer p, n ≤ 255 → k.phases.find? (fun p => p.1 == n) = some p → exec (.phase t false n timer) s =
        .next ((s.did t fun x => { x with phases := x.phases.filter fun p => p.1 != n }).setTrain t.job
          fun x => { x with phaseTimes := notePhase x.phaseTimes n ((timer + 2 ^ 32 - p.2) % 2 ^ 32) })) ∧
      (∀ n timer, n ≤ 255 → k.phases.find? (fun p => p.1 == n) = none → exec (.phase t false n timer) s = .next (s.did t id)) ∧
      exec (.ppoint t) s =
        .next ((s.setTask t fun x => { x with atPoint := true }).setCore k.core fun c => { c with liveMargins := (c.delay, c.volt) }) ∧
      (∀ line, exec (.controllerWait t line 0) s = .next (s.did t id))) ∧
    (∀ p, k.pace = some p → exec (.pacingPulse t) s = .next (s.keep (s.pulse t.job (dieOf k.home) p.1 1))) ∧
    (k.pace = none → exec (.pacingPulse t) s = .next s)

/-- For a task that can issue and a job-relative line that maps to a physical line of its home die. When no waiter stands on
the line and its counter is at least the count, the wait completes: the counter goes down by the count, the task is not
blocked. When the line's first waiter cannot be served, or there is none and the counter is below the count, the task
becomes blocked on the line and is its last waiter, and the counter is unchanged. -/
def Obligations.ControllerWaitTakesItsPulsesInOrder : Prop :=
  ∀ (s : State) (t : TaskRef) (k : Task) (line l count : Nat), s.canIssue t = true → s.task t = some k → 0 < count →
    (s.job t.job).line (dieOf k.home) line = some l → dieOf k.home < s.dies.length → l < (s.die (dieOf k.home)).lines.length →
    let e : EventLine := (s.die (dieOf k.home)).lines.getD l {}
    let me : Waiter := { agent := .task t, count := count }
    (e.waiters = [] → count ≤ e.count → Completes (.controllerWait t line count) s fun u =>
      u.task t = some { k with atPoint := false, block := none } ∧
        (u.die (dieOf k.home)).lines.getD l {} = { count := e.count - count, waiters := [] } ∧ u.mem = s.mem) ∧
    (((e.waiters ++ [me]).head?.any fun (w : Waiter) => decide (e.count < w.count)) = true →
      Completes (.controllerWait t line count) s fun u =>
        u.task t = some { k with atPoint := false, block := some (.line (dieOf k.home) l) } ∧
          (u.die (dieOf k.home)).lines.getD l {} = { e with waiters := e.waiters ++ [me] } ∧ u.mem = s.mem)

/-- For a task that can issue and a channel of its job, named by kind and number. START on an idle channel runs it at PROG
with no open loop; RETRY on a halted channel runs it again at the same place; NEXT continues it after the failing
instruction; ABORT makes it idle with no open loop. Each takes MODE, and HOME for a die channel. With reserved bit 10
set, or an action that does not match the channel's state, the channel is unchanged and one CHGO_MISMATCH entry is
written, whose arguments are the channel's number and the value. CHSTAT gives CH_STATUS and CH_PC to the controller;
CHCLR clears SKIPPED and MARK_FAIL where its mask has bits 3 and 2. Every next state is given whole. -/
def Obligations.ChannelCommandsFollowTheStateOfTheChannel : Prop :=
  ∀ (s : State) (t : TaskRef) (k : Task) (die : Bool) (num : Nat) (v : U64) (c : Chan), s.canIssue t = true → s.task t = some k →
    let r := k.chanRef t die num
    let x := { c with skip := bitOf v.toNat 11, home := if c.decl.die then bitsOf v.toNat 0 8 else c.home }
    let mismatch := (s.did t id).log 0x0104 2 ((s.job t.job).chanDomain c) t.job c.phys v.toNat 0
    s.chan r = some c →
    (goAction v.toNat = 0 → exec (.chgoStart t die num v) s = .next (if bitOf v.toNat 10 = false ∧ c.state = 0
      then (s.did t id).setChan r fun _ => { x with state := 1, pc := goProg v.toNat, loops := [], issued := false, remote := [], wrote := false }
      else mismatch)) ∧
    (goAction v.toNat = 1 → exec (.chgoRetry t die num v) s = .next (if bitOf v.toNat 10 = false ∧ c.state = 3
      then (s.did t id).setChan r fun _ => { x with state := 1, issued := false, remote := [], wrote := false } else mismatch)) ∧
    (goAction v.toNat = 2 → exec (.chgoNext t die num v) s = .next (if bitOf v.toNat 10 = false ∧ c.state = 3
      then (s.did t id).setChan r fun _ => { x.advance with state := 1 } else mismatch)) ∧
    (goAction v.toNat = 3 → exec (.chgoAbort t die num v) s = .next (if bitOf v.toNat 10 = false ∧ c.state = 3
      then (s.did t id).setChan r fun _ => { x with state := 0, loops := [], issued := false, remote := [], wrote := false } else mismatch)) ∧
    exec (.chstat t die num) s =
      .next (s.did t fun x => { x with scalar := BitVec.ofNat 64 c.status, scalar2 := BitVec.ofNat 64 c.pcReg }) ∧
    exec (.chclr t die num v) s = .next ((s.did t id).setChan r fun x =>
      { x with skipped := x.skipped && !bitOf v.toNat 3, markFail := x.markFail && !bitOf v.toNat 2 })

/-- TASK_READY puts a ready task that stands in no order of its core at the end of its core's order for its class, and
changes nothing else; of a task that is not ready or stands there already it changes nothing. SLICE_END marks the slice
of a running best-effort task as over. SECTION_OVERRUN makes the next gap of the running task a preemption point, counts
one overrun in the step and puts margins in effect. PREEMPT off a preemption point, or on a core out of service, changes
nothing; at one it puts the core's margins in effect, and: a latency-critical task that is not blocked keeps the core,
as does a best-effort one with no other task waiting; a best-effort task inside its slice gives the core to the first
waiting latency-critical task and stands first in the best-effort order. -/
def Obligations.SchedulingEventsMoveTasks : Prop :=
  ∀ (s : State) (core : Nat) (t : TaskRef) (k : Task), s.task t = some k → core < s.cores.length →
    (s.isReady t = true → (s.core k.core).has t = false → exec (.taskReady t) s = .next (s.setCore k.core fun c =>
      if (s.job t.job).bestEffort then { c with readyBe := c.readyBe ++ [t] } else { c with readyLc := c.readyLc ++ [t] })) ∧
    (s.isReady t = false ∨ (s.core k.core).has t = true → exec (.taskReady t) s = .next s) ∧
    ((s.core core).running = some t → (s.job t.job).bestEffort = true →
      exec (.sliceEnd core) s = .next (s.setCore core fun c => { c with sliceOver := true })) ∧
    ((s.core core).running = some t → exec (.sectionOverrun core) s =
      .next (((s.setTask t fun x => { x with atPoint := true }).setTrain t.job fun x => { x with overruns := sat32 (x.overruns + 1) }).setCore core
        fun c => { c with liveMargins := (c.delay, c.volt) })) ∧
    (∀ us, s.inService core = false ∨ s.atGap core = false → exec (.preempt core us) s = .next s) ∧
    (∀ us, s.inService core = true → s.atGap core = true → (s.core core).running = some t → k.block = none → (s.job t.job).live = true →
      ((s.job t.job).bestEffort = false ∨ ((s.core core).readyLc = [] ∧ (s.core core).sliceOver = false) →
        exec (.preempt core us) s = .next ((s.setCore core fun c => { c with liveMargins := (c.delay, c.volt) }).setCore core
          fun c => { c with sliceOver := false })) ∧
      (∀ t' k', (s.job t.job).bestEffort = true → (s.core core).sliceOver = false → (s.core core).readyLc.head? = some t' →
        s.task t' = some k' → t' ≠ t → Completes (.preempt core us) s fun u => (u.core core).running = some t' ∧
          (u.core core).readyLc = (s.core core).readyLc.filter (fun x => !(x == t')) ∧
          (u.core core).readyBe = t :: (s.core core).readyBe.filter (fun x => !(x == t')) ∧ u.mem = s.mem))

/-- For a task that can issue, plain workspace, an array word of a format pair of R42 whose tile is not selected for
recomputation, arrays that need not wait, operand rows inside the workspace and no fault of a unit. Without CLOSE the
command completes, the tile keeps its slot with exactly the totals that R43 to R49 give from the rows of A and B in
workspace, its chunk index goes up by the chunks the instruction took, and memory is as before. With CLOSE the tile's
slot is free afterwards, the packed totals are the bytes from the output address upwards, every other byte of memory
reads as before, and SIGNAL pulses the word's line. -/
def Obligations.ArrayInstructionsFormTheirTotals : Prop :=
  ∀ (s : State) (t : TaskRef) (k : Task) (word : Bytes) (x : TileFaults) (fa fb : Fmt) (tile : Tile), s.canIssue t = true → s.task t = some k →
    s.plainWs t k = true → cellsWf s.mem.cells = true → x.corrected = 0 → x.uncorrectable = false → x.array1 = none →
    let u := s.unitDid t k.core id
    let w := ArrayWord.ofBytes word
    let m := shapeM w.shape
    let n := shapeN w.shape
    w.op = 0x31 → w.pair = some (fa, fb) → u.tileOf t k w = some tile → tile.selected = false → u.arrayWaits t k w tile = false →
    (w.opens && tileSelected (u.job t.job).seed k.tileKey.toNat (u.job t.job).train.step (u.job t.job).sampling) = false →
    (∀ i < m, w.aAddr + i * w.rowA fa + w.kCount * fa.size ≤ wsBytes) → (∀ i < w.kCount, w.bAddr + i * w.rowB fb + n * fb.size ≤ wsBytes) →
    let row := fun (base pitch len i : Nat) => s.mem.read (wsKey t.job k.home (base + i * pitch)) len
    let a := operandRows fa ((List.range m).map (row w.aAddr (w.rowA fa) (w.kCount * fa.size))).flatten m w.kCount
    let b := operandRows fb ((List.range w.kCount).map (row w.bAddr (w.rowB fb) (n * fb.size))).flatten w.kCount n
    let len := (u.job t.job).chunk
    let totals := tileTotals len (totalFmt tile.wide) tile.chunk tile.totals a b n
    let others := fun (y : Tile) => !(y.array == tile.array && y.slot == tile.slot)
    (w.closes = false → exec (.mma t word x) s = .next (s.unitDid t k.core fun y => { y with
      tiles := y.tiles.filter others ++ [{ tile with totals := totals, chunk := tile.chunk + ceilDiv w.kCount len }] })) ∧
    (w.closes = true → w.outAddr + (packElems (totalFmt tile.wide) totals).length ≤ wsBytes → ∃ cells,
      exec (.mma t word x) s = .next (s.keep
        (((s.unitDid t k.core fun y => { y with tiles := y.tiles.filter others }).withCells cells).signalLine t k w.signals w.line)) ∧
      ∀ key, cellGet cells key =
        if wsKey t.job k.home w.outAddr ≤ key ∧ key < wsKey t.job k.home w.outAddr + (packElems (totalFmt tile.wide) totals).length
        then (packElems (totalFmt tile.wide) totals).getD (key - wsKey t.job k.home w.outAddr) 0 else cellGet s.mem.cells key)

/-- With a disagreement pending for a core, whose task, tile and operands in plain workspace are as they were,
RECOMPUTE_VOTE of an instruction that does not close its tile completes: the disagreement is gone, the core is marked to
be fenced at its next gap, the tile keeps the totals that the voting engine computes from the totals before the
instruction, and memory is as before. With none pending it changes nothing. CORE_FENCE of a core so marked that no job
has a task on, with no task waiting on any core, completes with exactly: the core fenced off and no test of it due, one
fence counted, and health copied to flash. Of a core not marked, or fenced already, it changes nothing. -/
def Obligations.FaultyCoresAreVotedOutAndFenced : Prop :=
  ∀ (s : State) (core : Nat), core < s.cores.length →
    (∀ fault, (s.core core).dispute = none → exec (.recomputeVote core fault) s = .next s) ∧
    (∀ fault d k tile fa fb, (s.core core).dispute = some d → s.task d.task = some k → s.plainWs d.task k = true →
      let w := ArrayWord.ofBytes d.word
      w.pair = some (fa, fb) → k.tile d.array d.slot = some tile → w.closes = false →
      (∀ i < shapeM w.shape, w.aAddr + i * w.rowA fa + w.kCount * fa.size ≤ wsBytes) →
      (∀ i < w.kCount, w.bAddr + i * w.rowB fb + shapeN w.shape * fb.size ≤ wsBytes) →
      let row := fun (base pitch len i : Nat) => s.mem.read (wsKey d.task.job k.home (base + i * pitch)) len
      let a := operandRows fa ((List.range (shapeM w.shape)).map (row w.aAddr (w.rowA fa) (w.kCount * fa.size))).flatten (shapeM w.shape) w.kCount
      let b := operandRows fb ((List.range w.kCount).map (row w.bAddr (w.rowB fb) (shapeN w.shape * fb.size))).flatten w.kCount (shapeN w.shape)
      let len := (s.job d.task.job).chunk
      let vote := glitched (totalFmt tile.wide) (tileTotals len (totalFmt tile.wide) tile.chunk d.before a b (shapeN w.shape)) fault
      Completes (.recomputeVote core fault) s fun u => (u.core core).dispute = none ∧ (u.core core).fenceDue = true ∧ u.mem = s.mem ∧
        (u.task d.task).map (·.tiles) = some (k.tiles.filter (fun y => !(y.array == tile.array && y.slot == tile.slot)) ++
          [{ tile with totals := vote, chunk := tile.chunk + ceilDiv w.kCount len }])) ∧
    ((s.core core).fenceDue = false ∨ (s.core core).fenced = true → exec (.coreFence core) s = .next s) ∧
    ((s.core core).fenceDue = true → (s.core core).fenced = false → (∀ c, (s.core c).next = none) →
      (∀ j < 64, ((s.job j).tasks.any fun k => k.core == core) = false) → exec (.coreFence core) s =
        .next (((s.setCore core fun c => { c with fenceDue := false, fenced := true, test := 0 }).setHealth
          fun h => { h with fences := sat16 (h.fences + 1) }).flashCopy))

/-- While the register window answers, a DOORBELL sets TAIL of an enabled ring and is ignored while ENABLE reads 0. A
RING_CFG that takes ENABLE from 0 to 1 stores BASE, SIZE and QUIET, sets HEAD, TAIL and the expected sequence number to
0, and sets STATE to running with CAUSE 0; or to halted with CAUSE 6 after FENCE_ALL, 5 for a reserved SIZE, 4 when the
ring does not lie inside one granted window. One that takes ENABLE from 1 to 0 stores QUIET, clears ENABLE and disables
the ring, and keeps BASE, SIZE, HEAD, TAIL and the commands read. Nothing else of the machine changes. While the window
does not answer, nothing changes. -/
def Obligations.RingRegistersStartAndStopARing : Prop :=
  ∀ (s : State) (q : Nat) (v : U64) (tail : U32), q < s.host.rings.length →
    (s.windowOpen = false → exec (.doorbell q tail) s = .next s ∧ exec (.ringEnable q v) s = .next s ∧ exec (.ringDisable q v) s = .next s) ∧
    (s.windowOpen = true →
      exec (.doorbell q tail) s = .next (s.setRing q fun x => if x.enable then { x with tail := tail.toNat } else x) ∧
      ((s.ring q).enable = false → v.toNat % 2 = 1 →
        let base := v.toNat / 4096 * 4096
        let size := v.toNat / 16 % 16
        let cause := if s.keeper.fenceAll then 6 else if 10 < size then 5 else if s.host.granted base (64 * 2 ^ (size + 6)) then 0 else 4
        exec (.ringEnable q v) s = .next (s.setRing q fun x => { x with
          enable := true, quiet := v.toNat / 512 % 2 == 1, base := base, size := size, head := 0, tail := 0, expect := 0
          cause := cause, state := if cause = 0 then 1 else 2, enabling := x.enabling + 1 })) ∧
      ((s.ring q).enable = true → v.toNat % 2 = 0 →
        exec (.ringDisable q v) s = .next (s.setRing q fun x => { x with enable := false, quiet := v.toNat / 512 % 2 == 1, state := 0 })))

/-- For a queue whose turn it is. If the slots break a rule of R289, the ring halts with the first cause in its order:
OVERRUN when TAIL - HEAD exceeds the ring, then NOT_GRANTED for the first slot, FORMAT for a length over 4,096 bytes or
slots past TAIL or more than 16 MiB of indirect parameters, NOT_GRANTED for a later slot or the indirect range, CRC,
SEQUENCE; nothing else changes. If they break none and the indirect parameters held stay within 64 MiB, the command is
appended to those in progress with its header and parameters, HEAD moves past its slots, the expected sequence number
goes up by one, and no other ring, no job, no core and no byte of memory changes. A queue whose turn it is not is not
read. A limit of 16 MiB on indirect parameters is R292's. -/
def Obligations.CommandReadTakesOneWholeCommand : Prop :=
  ∀ (s : State) (n : Nat) (slots indirect : Bytes), n < s.host.rings.length → s.takesCommands = true → s.switrakUp = true →
    (s.nextQueue ≠ some n → exec (.commandRead n slots indirect) s = .next s) ∧
    (s.nextQueue = some n →
      let q := s.ring n
      let header := sliceZ slots 0 32
      let ind := fieldN header 3 1 % 2
      let length := fieldN header 8 4
      let pointer := fieldN slots 32 8
      let count := (32 + (if ind = 1 then 16 else length) + 63) / 64
      let params := if ind = 1 then sliceZ indirect 0 length else sliceZ slots 32 length
      let ahead := (q.tail + 2 ^ 32 - q.head) % 2 ^ 32
      let granted := fun (i : Nat) => s.host.granted (q.base + 64 * ((q.head + i) % q.slots)) 64
      let cause :=
        if q.slots < ahead then 3 else if granted 0 = false then 4
        else if (ind = 0 ∧ 4096 < 32 + length) ∨ ahead < count ∨ 0x1000000 < length then 7
        else if ((List.range count).all granted) = false ∨ (ind = 1 ∧ s.host.granted pointer length = false) then 4
        else if (crc32c (header.take 28 ++ params)).toNat ≠ fieldN header 0x1C 4 then 1
        else if fieldN header 0x18 4 ≠ q.expect then 2 else 0
      (cause ≠ 0 → exec (.commandRead n slots indirect) s = .next (s.setRing n fun x => { x with state := 2, cause := cause })) ∧
      (cause = 0 → (ind = 1 → s.host.indirectHeld + length ≤ 0x4000000) → Completes (.commandRead n slots indirect) s fun t =>
        t.ring n = { q with head := (q.head + count) % 2 ^ 32, expect := (q.expect + 1) % 2 ^ 32, cmds := q.cmds ++
          [{ ref := ⟨n, q.enabling, q.expect⟩, header := header, params := params, pointerBad := ind == 1 && fieldN slots 40 8 != 0 }] } ∧
        (∀ m, m ≠ n → t.ring m = s.ring m) ∧ t.jobs = s.jobs ∧ t.cores = s.cores ∧ t.mem = s.mem ∧ t.keeper = s.keeper))

/-- While Nerur runs, for a command in progress that has not timed out yet: one that has not begun is answered with TIMEOUT,
whatever kept it waiting gives it up, and no job, core or byte of memory changes. A JOB_WAIT that has begun is answered
with TIMEOUT and the job's other waits stay. Any other that has begun, is not the hinge copy of its job and waits for no
stream boundary, runs on: it stays in progress marked as timed out, and its TIMEOUT reply goes to its reply address when
it has one inside a granted window. With management stopped, or for a command that has ended or timed out, nothing
changes. -/
def Obligations.CommandsTimeOut : Prop :=
  ∀ (s : State) (r : CmdRef) (c : Cmd),
    (s.cmd r = none ∨ s.keeper.management ≠ 0 → exec (.commandTimeout r) s = .next s) ∧
    (s.cmd r = some c → c.timedOut = true → exec (.commandTimeout r) s = .next s) ∧
    (s.cmd r = some c → s.keeper.management = 0 → c.timedOut = false →
      (c.begun = false → exec (.commandTimeout r) s = .next (({ s with waiting := s.waiting.filter fun w => !(w.1 == Agent.cmd r) }).reply r 0x0201 0 0) ∧
        Completes (.commandTimeout r) s fun t => t.jobs = s.jobs ∧ t.cores = s.cores ∧ t.mem = s.mem) ∧
      (c.begun = true → (s.job c.job).waits.contains r = true → exec (.commandTimeout r) s =
        .next ((s.setJob c.job fun b => { b with waits := b.waits.filter fun x => !(x == r) }).reply r 0x0201 0 0)) ∧
      (c.begun = true → (s.job c.job).waits.contains r = false → (s.job c.job).copyOf r = false →
        ((s.job c.job).serving.changes.any fun x => x.2.2 == some r) = false → c.replyAddr ≠ 0 → (s.ring r.queue).quiet = false →
        s.switrakUp = true → s.host.granted c.replyAddr 32 = true → r.queue < s.host.rings.length → Completes (.commandTimeout r) s fun t =>
          t.cmd r = some { c with timedOut := true } ∧
          (let b := replyBytes c.header r.queue r.sequence 0x0201 0 0;
            t.host.far = s.host.far ++ [{ id := s.host.farNext, addr := c.replyAddr + 2, data := b.drop 2, length := 0, use := .replyBody r.queue (b.take 2) }]) ∧
          t.jobs = s.jobs ∧ t.cores = s.cores ∧ t.mem = s.mem))

/-- For an outstanding request x. An acknowledgement of the first write of a reply, on a queue that is not quiet, puts the
write of the two status bytes in front of it; one of the status write ends the command; one of a step record's body puts
the write of its step field; one of a channel's write takes it off the channel's outstanding writes. Data of a channel's
read take it off the outstanding reads and are kept for its MOVE byte by byte. Each leaves only x out of the requests
and changes nothing else. An answer of the wrong kind, or to no outstanding request, changes nothing.
ADAPTER_WINDOW_TABLE_WRITE replaces the window table and the far-tier rate. -/
def Obligations.AnswersOfTheAdapterCompleteRequests : Prop :=
  ∀ (s : State) (id : Nat) (x : FarReq) (b : Bytes),
    let u := s.setHost fun h => { h with far := h.far.filter fun y => y.id != id }
    (∀ a, (s.host.far.find? fun y => y.id == id) = none → exec (.adapterAcknowledgement id a) s = .next s) ∧
    (∀ w n, exec (.adapterWindowTableWrite w n) s = .next (s.setHost fun h => { h with windows := w, farRate := n })) ∧
    ((s.host.far.find? fun y => y.id == id) = some x →
      (x.length ≠ 0 → exec (.adapterAcknowledgement id .ack) s = .next s) ∧
      (x.length = 0 → exec (.adapterAcknowledgement id (.data b)) s = .next s) ∧
      (x.length = 0 →
        (∀ q st, x.use = .replyBody q st → (s.ring q).quiet = false →
          exec (.adapterAcknowledgement id .ack) s = .next (u.farPut (x.addr - 2) st 0 (.replyStatus q))) ∧
        (∀ q c, x.use = .replyStatus q → ((s.ring q).cmds.find? fun c => c.ended && c.replyAddr == x.addr) = some c →
          exec (.adapterAcknowledgement id .ack) s = .next (u.dropCmd c.ref)) ∧
        (∀ n, x.use = .recordBody n → exec (.adapterAcknowledgement id .ack) s = .next (u.farPut (x.addr - 8) (toLe 8 n) 0 .recordStep)) ∧
        (∀ c, x.use = .chanWrite c → exec (.adapterAcknowledgement id .ack) s = .next (u.setChan c fun y => { y with writes := y.writes - 1 }))) ∧
      (x.length ≠ 0 → ∀ c a, x.use = .chanRead c a → exec (.adapterAcknowledgement id (.data b)) s =
        .next (u.setChan c fun y => { y with reads := y.reads - 1, remote := y.remote ++ (sliceZ b 0 x.length).mapIdx fun i v => (a + i, v) })))

/-- For a command that may begin, whose reply address is not zero and lies inside a granted window, on a queue that is not
quiet, with Switrak up. NOP with all parameters zero, and PROFILE_SET with no parameters, complete: one request to the
adapter is added, the write of bytes 2 to 31 of the reply at the reply address plus 2, which carries the two status
bytes for its second step; the reply is the 32 bytes of R295 with status OK and the CRC over the first 28 (for
PROFILE_SET with the row setting as detail and the paces of the dies as value); the command counts as ended; no job,
core, memory byte, register of the keeper or power setting changes. -/
def Obligations.RepliesAreWrittenInTwoSteps : Prop :=
  ∀ (s : State) (r : CmdRef) (c : Cmd) (i : Instr) (op detail value : Nat),
    (i = .nop r ∧ op = 1 ∧ detail = 0 ∧ value = 0 ∧ (∀ n, c.params.getD n 0 = 0)) ∨
      (i = .profileSet r ∧ op = 8 ∧ detail = s.power.rows ∧ value = s.paces ∧ c.params = []) →
    s.mayBegin r c op = true → c.timedOut = false → c.replyAddr ≠ 0 → (s.ring r.queue).quiet = false → s.switrakUp = true →
    s.host.granted c.replyAddr 32 = true → r.queue < s.host.rings.length →
    let body := layRecord 28 [(0, 2, 0), (2, 2, fieldN c.header 0 2), (4, 2, fieldN c.header 4 2), (6, 2, fieldN c.header 6 2), (8, 4, r.sequence),
      (0xC, 4, detail), (0x10, 8, value), (0x18, 2, r.queue)]
    let reply := body ++ toLe 4 (crc32c body).toNat
    Completes i s fun t => t.host.far = s.host.far ++
        [{ id := s.host.farNext, addr := c.replyAddr + 2, data := reply.drop 2, length := 0, use := .replyBody r.queue (reply.take 2) }] ∧
      t.cmd r = none ∧ t.jobs = s.jobs ∧ t.cores = s.cores ∧ t.mem = s.mem ∧ t.keeper = s.keeper ∧ t.power = s.power ∧ t.fabric = s.fabric

/-- For a command of the row that may begin, with parameters that pass its rule's checks. JOB_CONFIGURE puts all its blocks
in force and answers OK. JOB_WAIT of a loaded job that is not RUNNING answers its last fault's status, its state and its
last committed step (all ones for none); of a RUNNING job it leaves the command waiting and answers nothing. DET_ENFORCE
sets, clears or keeps the device-wide flag and answers it; setting it with a loaded job that is not DET_STRICT is
BAD_STATE with the first such job. PROFILE_SET with all claims fitting puts rows, target and cap in force, zeros meaning
the defaults; with a job that does not fit it answers NO_FIT and changes nothing. WAKE_BUDGET sets the device's or the
job's budget and answers the deepest state it permits. Only the named setting and the answer change. -/
def Obligations.SettingCommandsTakeEffectTogether : Prop :=
  ∀ (s : State) (r : CmdRef) (c : Cmd),
    let b := s.job c.job
    let u := s.begin r
    (∀ xs, s.mayBegin r c 0x0103 = true → parseBlocks (c.params.length + 1) 0 c.params [] = .ok xs → jobAccepts b.state 0x0103 = .yes →
      (∀ x ∈ xs, x.body ≠ [] → ∀ y ∈ b.blockBad ((b.configured xs).strict || s.keeper.detEnforced) x, y.1 = false) →
      b.conflict s.keeper.detEnforced xs = none →
      exec (.jobConfigure r) s = .next (s.keep ((u.setJob c.job fun b => b.configured xs).reply r 0 0 0))) ∧
    (s.mayBegin r c 0x010A = true → (∀ n, c.params.getD n 0 = 0) → b.state ≠ 0 →
      exec (.jobWait r) s = .next (s.keep (if b.state = 3 then u.setJob c.job fun b => { b with waits := b.waits ++ [r] }
        else u.reply r b.faultStatus b.state (b.train.committed.getD (2 ^ 64 - 1))))) ∧
    (s.mayBegin r c 0x0010 = true → (∀ n, 1 ≤ n → c.params.getD n 0 = 0) → c.p 0 1 ≤ 2 →
      let on := c.p 0 1 == 1 || (c.p 0 1 == 0 && s.keeper.detEnforced)
      (c.p 0 1 = 1 → s.notStrict = none → exec (.detEnforce r) s = .next (s.keep ((u.setKeeper fun k => { k with detEnforced := true }).reply r 0 1 0))) ∧
      (∀ j, c.p 0 1 = 1 → s.notStrict = some j → exec (.detEnforce r) s = .next (s.keep (u.reply r 0x0104 j 0))) ∧
      (c.p 0 1 ≠ 1 → exec (.detEnforce r) s = .next (s.keep ((u.setKeeper fun k => { k with detEnforced := on }).reply r 0 (if on then 1 else 0) 0)))) ∧
    (s.mayBegin r c 0x0008 = true → c.params ≠ [] → (∀ n, 8 ≤ n → c.params.getD n 0 = 0) → c.p 0 1 ≤ 2 → c.p 1 1 = 0 → c.p 6 2 = 0 →
      let target := if c.p 2 2 = 0 then (if c.p 0 1 = 1 then 1600 else 2000) else c.p 2 2
      let cap := if c.p 4 2 = 0 then (if c.p 0 1 = 1 then 1500 else 2250) else c.p 4 2
      800 ≤ target → target ≤ 2400 → 900 ≤ cap → cap ≤ 2250 →
      (s.firstMisfit target = none → exec (.profileSet r) s =
        .next (s.keep ((u.setPower fun p => { p with rows := c.p 0 1, target := target, cap := cap }).reply r 0 (c.p 0 1) s.paces))) ∧
      (∀ j w, s.firstMisfit target = some (j, w) → exec (.profileSet r) s = .next (s.keep (u.reply r 0x0105 w j)))) ∧
    (s.mayBegin r c 0x0009 = true → c.params ≠ [] → (∀ n, 8 ≤ n → c.params.getD n 0 = 0) → c.p 4 4 = 0 →
      (c.job = 0xFFFF → exec (.wakeBudget r) s = .next (s.keep ((u.setPower fun p => { p with budget := c.p 0 4 }).reply r 0 (deepest (c.p 0 4)) 0))) ∧
      (c.job < s.jobs.length → b.state ≠ 0 → c.job ≠ 0xFFFF →
        exec (.wakeBudget r) s = .next (s.keep ((u.setJob c.job fun b => { b with budget := c.p 0 4 }).reply r 0 (deepest (c.p 0 4)) 0))))

/-- For every state whose KP_EVENT holds no bit outside its five fields: ALERT_N is low if and only if the register reads
non-zero. On a module with input power, KP_EVENT_CLEAR with a one in every bit that is set completes with ALERT_N high;
with any mask it clears exactly the named bits of KP_EVENT and changes nothing else. A write of KP_EVENT through the
open register window does the same. -/
def Obligations.ClearedEventsReleaseAlert : Prop :=
  ∀ (s : State) (mask : U64), s.keeper.event < 32 →
    (s.alertLow = true ↔ s.keeperReg 0x1028 ≠ 0) ∧
    (s.power.input = true → exec (.kpEventClear mask) s = .next (s.setKeeper fun k => { k with event := k.event &&& (31 - mask.toNat % 32) }) ∧
      ((∀ i < 5, s.keeper.event.testBit i = true → mask.getLsbD i = true) → Completes (.kpEventClear mask) s fun t => t.alertLow = false)) ∧
    (s.windowOpen = true → exec (.registerWrite 0x1028 8 mask) s =
      .next (s.setKeeper fun k => { k with event := k.event &&& (31 - mask.toNat % 32) }))

/-- For every state whose patina accumulator is within its cap of 1,048,575 units. With input power, PATINA_DECAY completes
with acc - ((acc x 17) >> 12) computed on 64-bit values, and leaves RETIRE, the flash copy, every job, every core and
memory as they are. Without power it changes nothing at all. POWER_UP of a module without power completes with the
accumulator that its flash copy holds. The half-life that the rule names follows from the formula and is not stated
again. -/
def Obligations.PatinaDecaysByThePoweredHour : Prop :=
  ∀ (s : State), s.health.acc ≤ 1048575 →
    (s.power.input = true → Completes .patinaDecay s fun t =>
      (let a := BitVec.ofNat 64 s.health.acc; BitVec.ofNat 64 t.health.acc = a - ((a * 17) >>> 12)) ∧ t.health.acc ≤ s.health.acc ∧
      t.health.retire = s.health.retire ∧ t.health.flash = s.health.flash ∧ t.jobs = s.jobs ∧ t.cores = s.cores ∧ t.mem = s.mem) ∧
    (s.power.input = false → exec .patinaDecay s = .next s) ∧
    (s.power.input = false → Completes .powerUp s fun t => t.health.acc = s.health.flash.acc ∧ t.power.input = true)

/-- On a powered module a write of MB_CTRL with GO clear changes nothing; with GO set while BUSY it sets REFUSED and nothing
else. With GO set and BUSY clear: the SEQ is taken and DONE cleared; with a reserved bit set the reply BAD_PARAM, detail
0x00FF_FFFF, stands at once in MB_REPLY with DONE set and BUSY clear; for an opcode outside 0x0F01 to 0x0F08 the reply
is BAD_OPCODE; for a class other than 3, INDIRECT, a length above 64, a job other than 0xFFFF, flags above 3 or a wrong
CRC it is BAD_PARAM; else BUSY is set and the command waits for its row. MB_REFUSED_CLEAR clears REFUSED. A 4-byte write
of MB_HEADER or MB_PARAM through the open window stores its bytes while BUSY is clear, and sets REFUSED and stores
nothing while it is set. MB_DATA keeps its bytes through all of these. -/
def Obligations.MailboxTakesOneCommandAtATime : Prop :=
  ∀ (s : State) (ctrl : U32), s.power.input = true →
    let m := s.keeper.mailbox
    let c := m.cmd
    let seq := ctrl.toNat / 256 % 256
    let answered := fun (status detail : Nat) => s.setKeeper fun k => { k with mailbox := { m with
      seq := seq, done := true, busy := false, reply := replyBytes m.header 0xFFFF seq status detail 0, data := m.data.take 3840 } }
    let reserved := ctrl.toNat / 2 % 128 ≠ 0 ∨ ctrl.toNat / 65536 ≠ 0
    let bad := c.cls ≠ 3 ∨ c.flags % 2 = 1 ∨ 3 < c.flags ∨ 64 < fieldN m.header 8 4 ∨ c.job ≠ 0xFFFF ∨
      (crc32c (m.header.take 28 ++ m.param.take (fieldN m.header 8 4))).toNat ≠ fieldN m.header 0x1C 4
    (ctrl.toNat % 2 = 0 → exec (.mbGo ctrl) s = .next s) ∧
    (ctrl.toNat % 2 = 1 → m.busy = true → exec (.mbGo ctrl) s = .next (s.setKeeper fun k => { k with mailbox := { m with refused := true } })) ∧
    (ctrl.toNat % 2 = 1 → m.busy = false →
      (reserved → exec (.mbGo ctrl) s = .next (answered 0x0102 0x00FFFFFF)) ∧
      (¬ reserved → ¬ (0x0F01 ≤ c.opcode ∧ c.opcode ≤ 0x0F08) → exec (.mbGo ctrl) s = .next (answered 0x0101 0)) ∧
      (¬ reserved → 0x0F01 ≤ c.opcode ∧ c.opcode ≤ 0x0F08 → bad → exec (.mbGo ctrl) s = .next (answered 0x0102 0x00FFFFFF)) ∧
      (¬ reserved → 0x0F01 ≤ c.opcode ∧ c.opcode ≤ 0x0F08 → ¬ bad → exec (.mbGo ctrl) s =
        .next (s.setKeeper fun k => { k with mailbox := { m with seq := seq, done := false, busy := true } }))) ∧
    exec .mbRefusedClear s = .next (s.setKeeper fun k => { k with mailbox := { m with refused := false } }) ∧
    (∀ o v, s.windowOpen = true → o % 4 = 0 → o < 0x60 → exec (.registerWrite (0x3000 + o) 4 v) s =
      .next (s.setKeeper fun k => { k with mailbox := if m.busy then { m with refused := true }
        else if o < 0x20 then { m with header := (layBytes m.header o (toLe 4 (v.toNat % 2 ^ 32))).take 32 }
        else { m with param := (layBytes m.param (o - 0x20) (toLe 4 (v.toNat % 2 ^ 32))).take 64 } }))

/-- For a deadbolt command that its row carries out, with parameters zero beyond its layout. MAQUETTE writes the 3,360-byte
record and counts one more reply; nothing else changes. LOG_READ writes at most 60 and at most the asked number of
entries, the first of those held with a number from first on, answers how many and the number of the oldest held.
DUMP_READ without BULK of a VALID dump, in range, with H0 reachable and no copy under way, writes the bytes of the dump
region and unlocks the dump exactly when RELEASE is set. BULK_COPY_DONE of a copy with no write outstanding counts its
bytes, clears BULK_BUSY and then acts on RELEASE; with a write outstanding it changes nothing. DUMP_COPY_FAIL with fewer
bytes written than asked and cause 1 or 2 clears BULK_BUSY, counts those bytes, forgets the copy's writes, logs
DUMP_COPY_FAIL and leaves the dump VALID and LOCKED as it was. -/
def Obligations.DeadboltReadsAnswerFromTheKeeper : Prop :=
  ∀ (s : State),
    let c := s.keeper.mailbox.cmd
    let d := s.keeper.dump
    (s.mbBegins 0x0F01 = true → (∀ n, c.params.getD n 0 = 0) → exec .maquette s =
      .next ((s.mbReply 0 3360 0 s.maquette).setKeeper fun k => { k with maquettes := k.maquettes + 1 })) ∧
    (s.mbBegins 0x0F02 = true → (∀ n, 12 ≤ n → c.params.getD n 0 = 0) →
      let es := (s.keeper.log.filter fun e => decide (c.p 0 8 ≤ e.seq)).take (min (c.p 8 4) 60)
      exec .logRead s = .next (s.mbReply 0 es.length ((s.keeper.log.head?.map (·.seq)).getD (s.keeper.logSeq + 1)) (es.map LogEntry.bytes).flatten)) ∧
    (s.mbBegins 0x0F03 = true → (∀ n, 0x18 ≤ n → c.params.getD n 0 = 0) → s.h0Fenced = false → d.valid = true → d.bulk = none →
      (c.p 0xC 1 = 0 ∨ c.p 0xC 1 = 2) → c.p 0xD 3 = 0 → c.p 8 4 ≤ 3840 → c.p 0 8 + c.p 8 4 ≤ d.length →
      exec .dumpRead s = .next ((if c.p 0xC 1 = 2 then s.setKeeper fun k => { k with dump := { k.dump with locked := false } } else s).mbReply 0 0 0
        (if c.p 8 4 = 0 then s.keeper.mailbox.data else s.mem.read (dumpBase + c.p 0 8) (c.p 8 4)))) ∧
    (∀ off len host rel, d.bulk = some (off, len, host, rel) →
      ((s.host.far.any fun x => x.use == .bulk) = false → exec .bulkCopyDone s = .next (s.setKeeper fun k => { k with
        dump := { k.dump with bulk := none, done := len, locked := k.dump.locked && !rel } })) ∧
      ((s.host.far.any fun x => x.use == .bulk) = true → exec .bulkCopyDone s = .next s) ∧
      (∀ n cause, n < len → cause = 1 ∨ cause = 2 → Completes (.dumpCopyFail n cause) s fun t =>
        t.keeper.dump = { d with bulk := none, done := n } ∧ t.keeper.logSeq = s.keeper.logSeq + 1 ∧
        t.host = { s.host with far := s.host.far.filter fun x => !(x.use == .bulk) } ∧ t.jobs = s.jobs ∧ t.mem = s.mem ∧ t.cores = s.cores)) ∧
    (d.bulk = none → exec .bulkCopyDone s = .next s ∧ ∀ n cause, exec (.dumpCopyFail n cause) s = .next s)

/-- For a deadbolt command that its row carries out, with parameters zero beyond its layout. LASERS_OFF with bits 31 to 17
zero answers OK; with no transaction or message under way it keeps the mask (all 16 ports for zero) in force, puts every
named port DOWN with its laser off, leaves the other ports as they are, and darkens the Switrak laser exactly when bit
16 is set. PORT_GOODBYE outside a device reset sets LEAVING and answers the named ports that are UP. FENCE_ALL of a part
not off puts every core, die and port, Switrak and management into the fenced state, leaves no ring running, and puts
the fence in force. DEVICE_RESET of kind 0 on a part that accepts it fences the device (KP_STATE 1, source 2, step 1)
and halts the rings. POWER_OFF puts the device, every die and core, Switrak and management into state 4, and ends every
request to the adapter. Each writes its reply, status OK, with DONE set and BUSY clear. -/
def Obligations.DeadboltActionsFenceResetAndDarken : Prop :=
  ∀ (s : State),
    let c := s.keeper.mailbox.cmd
    let answered := fun (t : State) (detail : Nat) => t.keeper.mailbox.done = true ∧ t.keeper.mailbox.busy = false ∧
      t.keeper.mailbox.reply = replyBytes s.keeper.mailbox.header 0xFFFF s.keeper.mailbox.seq 0 detail 0
    (s.mbBegins 0x0F05 = true → (∀ n, 4 ≤ n → c.params.getD n 0 = 0) → c.p 0 4 < 2 ^ 17 →
      let mask := if c.p 0 4 = 0 then 0xFFFF else c.p 0 4
      (∃ t, exec .lasersOff s = .next t ∧ t.keeper.mailbox.done = true ∧ t.keeper.mailbox.busy = false) ∧
      (s.fabric.txns = [] → (∀ x ∈ s.fabric.ports, x.link.tx = []) → Completes .lasersOff s fun t => answered t 0 ∧ t.keeper.lasersOff = s.keeper.lasersOff ||| mask ∧
        t.keeper.switrakLaser = (s.keeper.switrakLaser && decide (c.p 0 4 < 65536)) ∧
        ∀ p < 16, if mask.testBit p then (t.port p).state = 0 ∧ (t.port p).laser = false else t.port p = s.port p)) ∧
    (s.mbBegins 0x0F04 = true → (∀ n, 2 ≤ n → c.params.getD n 0 = 0) → s.deviceInReset = false → Completes .portGoodbye s fun t =>
      t.fabric.leaving = true ∧ answered t (maskOf ((List.range 16).filter fun p => (s.port p).state == 2 && (c.p 0 2 == 0 || bitOf (c.p 0 2) p)))) ∧
    (s.mbBegins 0x0F06 = true → (∀ n, c.params.getD n 0 = 0) → s.keeper.off = false → Completes .fenceAll s fun t =>
      t.keeper.fenceAll = true ∧ t.keeper.management = 1 ∧ t.keeper.switrak = 1 ∧ (∀ x ∈ t.cores, x.domain = 1) ∧ (∀ x ∈ t.dies, x.domain = 1) ∧
      (∀ x ∈ t.fabric.ports, x.domain = 1) ∧ (∀ q ∈ t.host.rings, q.state ≠ 1) ∧ t.keeper.mailbox.done = true ∧ t.keeper.mailbox.busy = false) ∧
    (s.mbBegins 0x0F07 = true → (∀ n, 4 ≤ n → c.params.getD n 0 = 0) → c.p 0 1 = 0 → c.p 1 1 ≤ 1 → s.keeper.off = false → s.keeper.device = 0 →
      s.keeper.tripped = false → s.keeper.resets = [] → s.power.resetLow = false → Completes .deviceReset s fun t =>
        t.keeper.device = 1 ∧ (∃ x, t.keeper.resets = [x] ∧ x.domain = devDomain ∧ x.source = 2 ∧ x.stage = 1 ∧ x.noDump = (c.p 1 1 == 1)) ∧
        (∀ q ∈ t.host.rings, q.state ≠ 1) ∧ t.mem = s.mem ∧ t.keeper.mailbox.done = true ∧ t.keeper.mailbox.busy = false) ∧
    (s.mbBegins 0x0F08 = true → (∀ n, c.params.getD n 0 = 0) → Completes .powerOff s fun t =>
      t.keeper.off = true ∧ t.keeper.device = 4 ∧ t.keeper.management = 4 ∧ t.keeper.switrak = 4 ∧ (∀ x ∈ t.dies, x.domain = 4) ∧
      (∀ x ∈ t.cores, x.domain = 4) ∧ t.host.far = [] ∧ t.keeper.mailbox.done = true ∧ t.keeper.mailbox.busy = false)

/-- With input power. I3C_ENTDAA takes the low seven bits of the address and a fresh drawn provisional ID. With an address:
a private write of two offset bytes and fewer than four of data sets the offset to that word and writes nothing; one
with one whole word of data writes it as a 4-byte register write of the keeper's blocks and advances the offset by four.
With the mailbox not BUSY a private read returns the whole words asked for: the bytes of the identity block, the keeper
block and the mailbox, zero for every other offset, and advances the offset by them modulo 64 KiB; nothing else changes.
Without power or without an address reads and writes do nothing. The drawn ID is a free value (log entry 6). -/
def Obligations.I3cPortWorksInWholeWords : Prop :=
  ∀ (s : State) (a : Byte) (b : Bytes) (n : Nat),
    (s.power.input = true → exec (.i3cEntdaa a) s = .next
      { s.setKeeper fun k => { k with i3cAddr := some (a &&& 0x7F#8), i3cId := Config.i3cRandomId s.draws } with draws := s.draws + 1 }) ∧
    (s.power.input = false ∨ s.keeper.i3cAddr = none → exec (.i3cPrivateWrite b) s = .next s ∧ exec (.i3cPrivateRead n) s = .next s) ∧
    (s.power.input = true → s.keeper.i3cAddr ≠ none → 2 ≤ b.length →
      let o := fieldN b 0 2 / 4 * 4
      (b.length < 6 → exec (.i3cPrivateWrite b) s = .next (s.setKeeper fun k => { k with i3cOffset := o })) ∧
      (6 ≤ b.length → b.length < 10 → exec (.i3cPrivateWrite b) s =
        .next (s.keep ((s.keeperWrite o (fieldN b 2 4)).setKeeper fun k => { k with i3cOffset := (o + 4) % 0x10000 })))) ∧
    (s.power.input = true → s.keeper.i3cAddr ≠ none → s.keeper.mailbox.busy = false →
      exec (.i3cPrivateRead n) s = .next (s.setKeeper fun k => { k with
        i3cData := (List.range (n / 4 * 4)).map fun i => let o := (k.i3cOffset + i) % 0x10000; if o < 0x2000 ∨ (0x3000 ≤ o ∧ o < 0x4000) then s.windowByte o else 0
        i3cOffset := (k.i3cOffset + n / 4 * 4) % 0x10000 }))

/-- EVT_IN0_RISE and EVT_IN1_RISE record that their pin is high and change nothing else. EVT_IN0_FALL of a pin that is high,
on a powered part outside a device reset with some port UP, sets LEAVING and leaves two repeats of GOODBYE to send on
each such port; GOODBYE_REPEAT takes one off every port's count. EVT_IN1_FALL on a powered part with nothing under way
on the fabric puts every port DOWN, darkens every laser and keeps all of them off. POWER_LOSS keeps the identity, the
flash copy of health, the log mirrors and their reservation, the two banks, the security floor, the owner key and the
device set, and nothing else of jobs and memory; OVERVOLTAGE above 60.0 V and to 66.0 V does the same, at 60.0 V or
below nothing. LOG_MIRROR_COMPLETE stores the mirrored entries in its slot with a reservation of the latest number plus
65,536; FLASH_COPY copies patina, flags, fences and margins. NERUR_STALL beyond 1 s logs once per stall and sets its
bit; CORRECTED_SUMMARY logs the counts of its domain and clears them. The reservation's size is the model's choice. -/
def Obligations.PinsPowerAndKeeperEntries : Prop :=
  ∀ (s : State),
    exec .evtIn0Rise s = .next (s.setPower fun p => { p with evt0Low := false }) ∧ exec .evtIn1Rise s = .next (s.setPower fun p => { p with evt1Low := false }) ∧
    (s.power.evt0Low = false → s.power.input = true → s.deviceInReset = false → s.upPorts ≠ [] → Completes .evtIn0Fall s fun t =>
      t.fabric.leaving = true ∧ t.power.evt0Low = true ∧ (∀ p ∈ s.upPorts, (p, 2) ∈ t.fabric.goodbyes) ∧ t.keeper = s.keeper) ∧
    (Completes .goodbyeRepeat s fun t => t.fabric.goodbyes = (s.fabric.goodbyes.map fun g => (g.1, g.2 - 1)).filter fun g => g.2 != 0) ∧
    (s.power.input = true → s.fabric.txns = [] → (∀ x ∈ s.fabric.ports, x.link.tx = []) → Completes .evtIn1Fall s fun t =>
      (∀ p < 16, (t.port p).state = 0 ∧ (t.port p).laser = false) ∧ t.keeper.switrakLaser = false ∧ t.keeper.lasersOff = s.keeper.lasersOff ||| 0x1FFFF) ∧
    (s.power.input = true → Completes .powerLoss s fun t => t.power.input = false ∧ t.ident = s.ident ∧ t.health.flash = s.health.flash ∧
      t.keeper.mirrors = s.keeper.mirrors ∧ t.keeper.reservation = s.keeper.reservation ∧ t.fw.bank0 = s.fw.bank0 ∧ t.fw.bank1 = s.fw.bank1 ∧
      t.fw.floor = s.fw.floor ∧ t.fw.owner = s.fw.owner ∧ t.fw.deviceSet = s.fw.deviceSet ∧ t.mem.cells = [] ∧ ∀ j, (t.job j).state = 0) ∧
    (∀ v, 600 < v → v ≤ 660 → exec (.overvoltage v) s = exec .powerLoss s) ∧ (∀ v, v ≤ 600 → exec (.overvoltage v) s = .next s) ∧
    (s.power.input = true → exec .flashCopy s = .next (s.setHealth fun h => { h with flash :=
      { acc := h.acc, retire := h.retire, worn := h.worn, cores := s.cores.map fun c => (c.fenced, c.delay, c.volt) } })) ∧
    (∀ es, s.power.input = true → s.keeper.mirroring = some es → s.keeper.mirrorNext < 8 → s.keeper.mirrors.length = 8 → Completes .logMirrorComplete s fun t =>
      t.keeper.mirrors.getD s.keeper.mirrorNext [] = es ∧ (∀ i, i ≠ s.keeper.mirrorNext → t.keeper.mirrors.getD i [] = s.keeper.mirrors.getD i []) ∧
      t.keeper.reservation = s.keeper.logSeq + 65536 ∧ t.keeper.mirroring = none ∧ t.health.flash.acc = s.health.acc) ∧
    (∀ age, s.power.input = true → 1000000 < age → s.keeper.stallLogged = false → Completes (.nerurStall age) s fun t =>
      t.keeper.logSeq = s.keeper.logSeq + 1 ∧ t.keeper.event.testBit 4 = true ∧ t.keeper.stallLogged = true ∧ t.jobs = s.jobs ∧ exec (.nerurStall age) t = .next t) ∧
    (∀ d c, (s.keeper.corrected.find? fun c => c.domain == d && c.due s.keeper.time) = some c → Completes (.correctedSummary d) s fun t =>
      t.keeper.logSeq = s.keeper.logSeq + 1 ∧ (∀ x ∈ t.keeper.corrected, x.domain = d → x.words = 0 ∧ x.retries = 0 ∧ x.retrains = 0 ∧ x.last = some s.keeper.time) ∧
      t.health = s.health ∧ t.jobs = s.jobs)

/-- RESET_DRAIN_END of a device reset at step 1 leaves the device in state 2; with RESET_N high, no command in progress and
no request to the adapter it leaves every job context EMPTY, every port DOWN, every ring disabled, and no byte of memory
listed outside the dump region. RESET_DRAIN_END of another domain leaves it in state 2. At a later step, or with no
reset of the domain, it changes nothing. RESET_DONE at step 5, with Nerur ready where it is loaded and RESET_N high for
a device reset, puts the domain in state 0, ends its reset and logs RESET_DONE; before that it changes nothing (a device
gated by a thermal trip is not claimed here). RESET_N_FALL of a pin that is high fences a part that runs, with source 3,
and only records the pin on one that is held, gated, off or in a device reset. RESET_N_RISE of a part whose device reset
does not wait for it only records the pin. -/
def Obligations.DeviceResetsClearAndComeBack : Prop :=
  ∀ (s : State) (d : Domain) (us : Nat),
    (∀ x, s.resetOf devDomain = some x → x.stage = 1 → Completes (.resetDrainEnd devDomain) s fun t => t.keeper.device = 2 ∧
      (s.power.resetLow = false → s.host.far = [] → (∀ q, (s.ring q).cmds = []) → (∀ j, (t.job j).state = 0) ∧ (∀ y ∈ t.fabric.ports, y.state = 0) ∧ (∀ q ∈ t.host.rings, q.state = 0 ∧ q.enable = false) ∧
        ∀ c ∈ t.mem.cells, dumpBase ≤ c.1 ∧ c.1 < dumpBase + dumpRegion)) ∧
    (∀ x, s.resetOf d = some x → x.stage = 1 → (d.kind = 4 ∨ d.kind = 5) → Completes (.resetDrainEnd d) s fun t => t.domainState d = 2) ∧
    (s.resetOf d = none → exec (.resetDrainEnd d) s = .next s ∧ exec (.resetDone d us) s = .next s) ∧
    (∀ x, s.resetOf d = some x → x.stage ≠ 1 → exec (.resetDrainEnd d) s = .next s) ∧
    (∀ x, s.resetOf d = some x → (x.stage ≠ 5 ∨ ((d.kind = 0 ∨ d.kind = 5) ∧ s.fw.awaiting = true) ∨ (d.kind = 0 ∧ s.power.resetLow = true)) →
      exec (.resetDone d us) s = .next s) ∧
    (∀ x, s.resetOf d = some x → x.stage = 5 → s.fw.awaiting = false → s.power.resetLow = false → s.keeper.tripped = false →
      (d.kind = 0 ∨ (d.kind = 1 ∧ d.index < s.cores.length) ∨ d.kind = 4 ∨ d.kind = 5) → Completes (.resetDone d us) s fun t =>
        t.domainState d = 0 ∧ t.resetOf d = none ∧ t.keeper.logSeq = s.keeper.logSeq + 1 ∧ t.mem = s.mem) ∧
    (s.power.resetLow = false →
      (s.alive = true → s.deviceInReset = false → Completes .resetNFall s fun t => t.keeper.device = 1 ∧ t.power.resetLow = true ∧
        (∃ x ∈ t.keeper.resets, x.domain = devDomain ∧ x.source = 3 ∧ x.stage = 1) ∧ ∀ q ∈ t.host.rings, q.state ≠ 1) ∧
      (s.alive = false ∨ s.deviceInReset = true → exec .resetNFall s = .next (s.setPower fun p => { p with resetLow := true }))) ∧
    (s.power.resetLow = true → exec .resetNFall s = .next s) ∧
    ((∀ x, s.resetOf devDomain = some x → x.stage ≠ 3) → exec .resetNRise s = .next (s.setPower fun p => { p with resetLow := false }))

/-- ESCALATE of a core's reset fences its die and every core of it; of any other domain's but the device's it fences the
device with source 4; ESCALATED is set in KP_EVENT. Of the device's, or with no reset of the domain, it changes nothing.
DEVICE_HELD of a device reset that RESET_N does not hold leaves the part held in state 3 with no reset under way, every
die gated and ESCALATED set; with none under way it changes nothing. THERMAL_TRIP at 105 °C or more on a part that runs
leaves it tripped with THERM_N low, every die in state 4, THERMAL set, and the device fenced when no reset of it is
under way; below 105 °C, or for a die that is not there, it changes nothing. -/
def Obligations.FailuresEscalateAndTheThermalTripGates : Prop :=
  ∀ (s : State) (d : Domain) (step die deci : Nat),
    (d.kind = 0 ∨ s.resetOf d = none → exec (.escalate d step) s = .next s) ∧
    (∀ x, s.resetOf d = some x → d.kind = 1 → dieOf d.index < s.dies.length → Completes (.escalate d step) s fun t =>
      (t.die (dieOf d.index)).domain = 1 ∧ (∀ c, c < s.cores.length → dieOf c = dieOf d.index → (t.core c).domain = 1) ∧ t.keeper.event.testBit 2 = true ∧
      ∃ y ∈ t.keeper.resets, y.domain = dieDomain (dieOf d.index) ∧ y.source = 4 ∧ y.stage = 1) ∧
    (∀ x, s.resetOf d = some x → 2 ≤ d.kind → Completes (.escalate d step) s fun t => t.keeper.device = 1 ∧ t.keeper.event.testBit 2 = true ∧
      (∃ y ∈ t.keeper.resets, y.domain = devDomain ∧ y.source = 4 ∧ y.stage = 1) ∧ ∀ q ∈ t.host.rings, q.state ≠ 1) ∧
    (s.resetOf devDomain = none → exec (.deviceHeld step) s = .next s) ∧
    (∀ x, s.resetOf devDomain = some x → x.stage ≠ 3 → s.power.resetLow = false → Completes (.deviceHeld step) s fun t =>
      t.keeper.held = true ∧ t.keeper.device = 3 ∧ t.keeper.resets = [] ∧ t.keeper.event.testBit 2 = true ∧ ∀ y ∈ t.dies, y.domain = 4) ∧
    (4 ≤ die ∨ deci < 1050 ∨ s.alive = false → exec (.thermalTrip die deci) s = .next s) ∧
    (s.alive = true → die < 4 → 1050 ≤ deci → Completes (.thermalTrip die deci) s fun t =>
      t.keeper.tripped = true ∧ t.keeper.therm = true ∧ (∀ y ∈ t.dies, y.domain = 4) ∧ t.keeper.event.testBit 1 = true ∧
      (s.deviceInReset = false → t.keeper.device = 1))

/-- On a part that runs, POWER_WINDOW above the cap in force or 52.0 A lowers every die's supply by 10 mV, not below 600 mV,
counts the action and quiesces the arrays when the window before was over too; a window within the limits records its
power and ends the quiescence. REGULATOR_STEP of a running die takes its pace and moves its supply one step down while
it throttles or is faster than the target, one step up to at most 850 mV while it is slower and the ward did not act in
the last window, else not at all. THERMAL_THROTTLE begins at 95.0 °C and ends below 92.0 °C. IDLE_ENTRY takes a core
that may enter I1 or I2, a die that may enter I3 and the device that may enter I4 one state deeper. WAKE_EVENT brings a
core in service to I0 with its die, a gated die to running, and the device out of standby; PACING_WAKE does so for a
core in service with a pacing timer running. Nothing else changes but what waking a die does. -/
def Obligations.PowerWardRegulatorsAndIdleStates : Prop :=
  ∀ (s : State) (w a die n core : Nat),
    (s.alive = true →
      (s.power.cap < w ∨ 520 < a → exec (.powerWindow w a) s = .next { s.setPower fun p => { p with
          window := sat16 w, clamps := sat16 (p.clamps + 1), acted := true, overRun := min 2 (p.overRun + 1), quiesced := decide (1 ≤ p.overRun) } with
        dies := s.dies.map fun d => { d with milliVolts := max 600 (d.milliVolts - 10) } }) ∧
      (¬ (s.power.cap < w ∨ 520 < a) → exec (.powerWindow w a) s =
        .next (s.setPower fun p => { p with window := sat16 w, acted := false, overRun := 0, quiesced := false })) ∧
      ((s.die die).domain = 0 → exec (.regulatorStep die n) s = .next (s.setDie die fun d => { d with paceMhz := n, milliVolts :=
        (if d.throttled then max 600 (d.milliVolts - 10)
        else if n < s.power.target then (if s.power.acted then d.milliVolts else min 850 (d.milliVolts + 10))
        else if s.power.target < n then max 600 (d.milliVolts - 10) else d.milliVolts) }))) ∧
    (s.power.input = true → exec (.thermalThrottle die n) s = .next (s.setDie die fun d => { d with
      deci := n, throttled := decide (950 ≤ n) || (decide (920 ≤ n) && d.throttled) })) ∧
    (s.mayI2 core = true → exec (.idleEntry (.core core)) s = .next (s.setCore core fun c => { c with idle := 2 })) ∧
    (s.mayI2 core = false → s.mayI1 core = true → exec (.idleEntry (.core core)) s = .next (s.setCore core fun c => { c with idle := 1 })) ∧
    (s.mayI3 die = true → die < s.dies.length → Completes (.idleEntry (.die die)) s fun t => t.die die = { s.die die with gated := true, domain := 4 } ∧
      t.mem = s.mem ∧ t.cores = s.cores ∧ ∀ (r : TaskRef) k, s.task r = some k → dieOf k.core = die → t.task r = some { k with inSlot := true }) ∧
    (s.mayI4 = true → exec (.idleEntry .device) s = .next (s.setPower fun p => { p with standby := true })) ∧
    (s.asleep = false →
      exec (.wakeEvent .device) s = .next (s.setPower fun p => { p with standby := false }) ∧
      ((s.die die).gated = true → die < s.dies.length → Completes (.wakeEvent (.die die)) s fun t =>
        t.die die = { s.die die with gated := false, domain := 0 } ∧ t.power.standby = false ∧ t.cores = s.cores ∧ t.mem = s.mem) ∧
      (s.inService core = true → core < s.cores.length → (s.die (dieOf core)).gated = false →
        exec (.wakeEvent (.core core)) s = .next (s.setCore core fun c => { c with idle := 0 }) ∧
        (s.paced core = true → exec (.pacingWake core) s = .next (s.setCore core fun c => { c with idle := 0 }))))

/-- For a command of the row that may begin, with good parameters. FIRMWARE_WRITE of a piece at the bytes received so far,
not LAST, keeps it and answers OK: for kinds 2 to 4 in the staging area alone, for a bundle in the bank that is not
booted too. With LAST the object is installed and OK answered when its check passes; else AUTH_FAIL is answered, owner,
device set and floor stay, and the staging area is empty. FIRMWARE_ACTIVATE with no job under way and a valid bank that
would be chosen begins a management reset with source 6. Nerur's report clears the booted bank's strikes and, after
RAISE_FLOOR, raises the floor to the security version, up to 128, never lower. Without it the booted bank gets a strike,
and is failed at three. ATTEST and HEALTH_READ hand their report to the adapter at the buffer, then answer OK. -/
def Obligations.FirmwareIsWrittenActivatedAndAttested : Prop :=
  ∀ (s : State) (r : CmdRef) (c : Cmd),
    let u := s.begin r
    (s.mayBegin r c 0x0004 = true →
      let kind := c.p 0 1
      let got := s.fw.received kind (c.p 8 8)
      let all := got ++ c.params.drop 24
      1 ≤ kind → kind ≤ 4 → c.p 2 6 = 0 → c.p 0x10 8 ≠ 0 → c.p 0x10 8 ≤ objectLimit kind → c.p 8 8 = got.length → all.length ≤ c.p 0x10 8 →
      (∀ k t b, s.fw.staging = some (k, t, b) → k = kind ∧ c.p 8 8 ≠ 0 → t = c.p 0x10 8) →
      (c.p 1 1 = 0 → exec (.firmwareWrite r) s = .next (s.keep ((u.setFw fun f => f.take kind (c.p 0x10 8) all).reply r 0 0 0)) ∧
        (kind ≠ 1 → s.fw.take kind (c.p 0x10 8) all = { s.fw with staging := some (kind, c.p 0x10 8, all) })) ∧
      (c.p 1 1 = 1 →
        (∀ g, (s.fw.take kind (c.p 0x10 8) all).finish kind (c.p 0x10 8) all = some g →
          exec (.firmwareWrite r) s = .next (s.keep ((u.setFw fun _ => g).reply r 0 0 0))) ∧
        ((s.fw.take kind (c.p 0x10 8) all).finish kind (c.p 0x10 8) all = none → Completes (.firmwareWrite r) s fun t =>
          t.fw.owner = s.fw.owner ∧ t.fw.deviceSet = s.fw.deviceSet ∧ t.fw.floor = s.fw.floor ∧ t.fw.staging = none ∧ t.jobs = s.jobs ∧ t.mem = s.mem))) ∧
    (s.mayBegin r c 0x0005 = true → (∀ n, 1 ≤ n → c.params.getD n 0 = 0) → c.p 0 1 ≤ 3 → s.busyJob = none →
      s.fw.valid (s.fw.bank (1 - s.fw.booted)) = true → (c.p 0 1 % 2 = 1 ∨ s.fw.choose = some (1 - s.fw.booted)) → Completes (.firmwareActivate r) s fun t =>
        t.keeper.management = 1 ∧ t.fw.raiseFloor = (c.p 0 1 / 2 % 2 == 1) ∧ t.fw.awaiting = false ∧
        (∃ y ∈ t.keeper.resets, y.domain = ⟨5, 0⟩ ∧ y.source = 6 ∧ y.stage = 1) ∧ ∀ q ∈ t.host.rings, q.state ≠ 1) ∧
    (s.bootWaits = true → Completes .nerurReady s fun t => (t.fw.bank s.fw.booted).strikes = 0 ∧ t.fw.awaiting = false ∧
      t.fw.floor = (if s.fw.raiseFloor then max s.fw.floor (min s.fw.security 128) else s.fw.floor) ∧ t.jobs = s.jobs ∧ t.keeper = s.keeper) ∧
    (s.bootWaits = true → Completes .nerurReadyTimeout s fun t => (t.fw.bank s.fw.booted).strikes = min 3 ((s.fw.bank s.fw.booted).strikes + 1) ∧
      (t.fw.bank s.fw.booted).failed = ((s.fw.bank s.fw.booted).failed || decide (2 ≤ (s.fw.bank s.fw.booted).strikes)) ∧ t.jobs = s.jobs) ∧
    (s.bootWaits = false → exec .nerurReady s = .next s ∧ exec .nerurReadyTimeout s = .next s) ∧
    (s.mayBegin r c 0x0003 = true → (∀ n, 0x29 ≤ n → c.params.getD n 0 = 0) → c.p 0x28 1 ≤ 1 → s.farOk (c.p 0x20 8) (if c.p 0x28 1 = 1 then 13696 else 5504) = true →
      exec (.attest r) s = .next (s.keep ((u.farPut (c.p 0x20 8 - farBase) (s.attestReport (sliceZ c.params 0 32) (c.p 0x28 1 == 1)) 0 .hostBuffer).reply r 0
        (if c.p 0x28 1 = 1 then 13696 else 5504) 0))) ∧
    (s.mayBegin r c 0x0602 = true → (∀ n, 8 ≤ n → c.params.getD n 0 = 0) → s.farOk (c.p 0 8) 1600 = true →
      exec (.healthRead r) s = .next (s.keep ((u.farPut (c.p 0 8 - farBase) s.healthRecord 0 .hostBuffer).reply r 0 0 0)))

/-- TEST_RUN that may begin, with good parameters, asks for every named core, forced with NOW and due without it, and
answers OK at once when it names none. TEST_DUE of a core whose test is due or asked for takes it at a preemption point
when fewer than four cores of its die are under test or go first; else it only notes that the test is due. TEST_FORCED
takes a core asked for. A test's end leaves the core out of test: a pass restarts the active-time count; the same
failure twice, or margins that are spent, fences it and counts the fence (no job with a task on it, no task waiting);
any other failure is a transient with a margin raise of which patina counts 112 points (below the score 600); a fenced
core is in service again after two passes and else stays fenced. Memory and other cores' fences, margins and counts
stay. -/
def Obligations.TestsTakeCoresAndGiveThemBack : Prop :=
  ∀ (s : State) (core : Nat), core < s.cores.length →
    let others := fun (t : State) => t.mem = s.mem ∧ ∀ c, c ≠ core → (t.core c).fenced = (s.core c).fenced ∧ (t.core c).test = (s.core c).test ∧
      (t.core c).delay = (s.core c).delay ∧ (t.core c).volt = (s.core c).volt ∧ (t.core c).activeUs = (s.core c).activeUs
    let ended := fun (t : State) => (t.core core).test = 0 ∧ (t.core core).testCmds = [] ∧ others t
    (∀ r c, s.mayBegin r c 0x0601 = true → c.p 0x18 1 ≤ 3 → c.p 0x19 7 = 0 → (∀ n, 32 ≤ n → c.params.getD n 0 = 0) →
      (∀ x ∈ coresOf (c.p 0 24), s.coreInReset x = false ∧ s.enabled x = true ∧ ((s.core x).fenced = true → bitOf (c.p 0x18 1) 1 = true)) →
      let asked := fun (i : Nat) (x : Core) => if (coresOf (c.p 0 24)).contains i then x.named r (bitOf (c.p 0x18 1) 0) else x
      (coresOf (c.p 0 24) = [] → exec (.testRun r) s = .next (s.keep ((s.begin r).reply r 0 0 0))) ∧
      (coresOf (c.p 0 24) ≠ [] → exec (.testRun r) s = .next (s.keep { s.begin r with cores := s.cores.mapIdx asked }))) ∧
    (s.testable core = true → (s.core core).test ≠ 3 → ((s.core core).wantsTest = true ∨ 28800000000 ≤ (s.core core).activeUs) →
      (s.atGap core = true → (s.setCore core fun c => if c.test = 0 then { c with test := 1 } else c).testTurn core = true → Completes (.testDue core) s fun t =>
        (t.core core).test = 3 ∧ (t.core core).fenced = (s.core core).fenced ∧ (t.core core).liveMargins = ((s.core core).delay, (s.core core).volt) ∧ others t) ∧
      (s.atGap core = false → exec (.testDue core) s = .next (s.keep (s.setCore core fun c => if c.test = 0 then { c with test := 1 } else c)))) ∧
    ((s.core core).wantsTest = false → (s.core core).activeUs < 28800000000 → exec (.testDue core) s = .next s) ∧
    (s.testable core = true → (s.core core).wantsTest = true → s.testTurn core = true → Completes (.testForced core) s fun t =>
      (t.core core).test = 3 ∧ (t.core core).fenced = (s.core core).fenced ∧ others t) ∧
    ((s.core core).wantsTest = false → exec (.testForced core) s = .next s) ∧
    ∀ first second : TestOutcome,
      ((s.core core).test ≠ 3 → exec (.testDone core first second) s = .next s) ∧
      ((s.core core).test = 3 → (s.core core).fenced = false →
        (first = none → Completes (.testDone core first second) s fun t => ended t ∧ (t.core core).fenced = false ∧ (t.core core).activeUs = 0 ∧
          (t.core core).delay = (s.core core).delay ∧ (t.core core).volt = (s.core core).volt ∧ t.health = s.health) ∧
        (∀ f, first = some f → second = some f ∨ (s.core core).marginsSpent = true → (∀ c, (s.core c).next = none) →
          (∀ j < 64, ((s.job j).tasks.any fun k => k.core == core) = false) → Completes (.testDone core first second) s fun t =>
            ended t ∧ (t.core core).fenced = true ∧ t.health.fences = sat16 (s.health.fences + 1) ∧ t.health.acc = s.health.acc) ∧
        (∀ f, first = some f → second ≠ some f → (s.core core).marginsSpent = false → s.health.acc + 112 * 1024 < 600 * 1024 →
          Completes (.testDone core first second) s fun t => ended t ∧ (t.core core).fenced = false ∧ (t.core core).activeUs = 0 ∧
            ((t.core core).delay, (t.core core).volt) = (if (s.core core).delay < 7 then ((s.core core).delay + 1, (s.core core).volt)
              else ((s.core core).delay, (s.core core).volt + 1)) ∧
            t.health.acc = s.health.acc + 112 * 1024 ∧ t.health.transient = sat16 (s.health.transient + 1) ∧ t.health.raises = sat32 (s.health.raises + 1))) ∧
      ((s.core core).test = 3 → (s.core core).fenced = true →
        (first = none → second = none → Completes (.testDone core first second) s fun t => ended t ∧ (t.core core).fenced = false ∧
          (t.core core).activeUs = 0 ∧ (t.core core).delay = (s.core core).delay ∧ (t.core core).volt = (s.core core).volt) ∧
        (first.isSome = true ∨ second.isSome = true → Completes (.testDone core first second) s fun t => ended t ∧ (t.core core).fenced = true))

/-- For a command of the row that may begin, on a port whose domain runs. PORT_STOP of a port with no transaction and
nothing to send sets it DOWN with its lasers off, its link layer cleared and no fail cause; of any other port, what is
under way ends first as R209 says. PORT_CONFIGURE of a DOWN or FAILED port stores role, ring, flags, size and neighbour.
PORT_START of a DOWN port with a role, EVT_IN1 high, puts it in training with its lasers on. PORT_STATUS hands the
record of R211 to the adapter at the buffer, byte for byte. ROUTE_SET whose entries all pass R204's checks sets one
entry for each device named and keeps the others. Each answers OK and changes nothing else. -/
def Obligations.PortCommandsSetUpAndReportPorts : Prop :=
  ∀ (s : State) (r : CmdRef) (c : Cmd),
    let p := c.p 0 1
    let u := s.begin r
    (s.mayBegin r c 0x0301 = true → (s.port p).domain = 0 → p ≤ 15 → (∀ n, 1 ≤ n → c.params.getD n 0 = 0) →
      exec (.portStop r) s = .next (s.keep ((((u.endPort p).setPort p fun x => { x with state := 0, cause := 0, retrainTimes := [] })).reply r 0 0 0)) ∧
      ((s.fabric.txns.filter fun t => t.port == p) = [] → (s.port p).link.tx = [] → exec (.portStop r) s = .next (s.keep
        ((u.setPort p fun x => { x with link := {}, width := 0, laser := false, state := 0, cause := 0, retrainTimes := [] }).reply r 0 0 0)))) ∧
    (s.mayBegin r c 0x0302 = true → (s.port p).domain = 0 → p ≤ 15 → (∀ n, 12 ≤ n → c.params.getD n 0 = 0) → c.p 1 1 ≤ 4 → c.p 2 1 ≤ 7 → c.p 3 1 ≤ 3 →
      (c.p 1 1 = 1 ∨ c.p 1 1 = 2 → 2 ≤ c.p 4 2 ∧ c.p 4 2 ≤ 4096) → c.p 6 2 = 0 → ((s.port p).state = 0 ∨ (s.port p).state = 4) →
      exec (.portConfigure r) s = .next (s.keep ((u.setPort p fun x => { x with
        role := c.p 1 1, ring := c.p 2 1, dateline := c.p 3 1 % 2 == 1, chain := 2 ≤ c.p 3 1, size := c.p 4 2, expect := BitVec.ofNat 32 (c.p 8 4) }).reply r 0 0 0))) ∧
    (s.mayBegin r c 0x0303 = true → (s.port p).domain = 0 → p ≤ 15 → (∀ n, 1 ≤ n → c.params.getD n 0 = 0) → s.power.evt1Low = false →
      (s.port p).state = 0 → (s.port p).role ≠ 0 → Completes (.portStart r) s fun t => (p < s.fabric.ports.length → t.port p =
        { s.port p with state := 1, laser := true, cause := 0, link := {} }) ∧ (∀ q, q ≠ p → t.port q = s.port q) ∧ t.jobs = s.jobs ∧ t.mem = s.mem) ∧
    (s.mayBegin r c 0x0304 = true → p ≤ 15 → c.p 1 7 = 0 → (∀ n, 16 ≤ n → c.params.getD n 0 = 0) → s.farOk (c.p 8 8) 64 = true →
      let x := s.port p
      let record := layRecord 64 [(0, 1, x.state), (1, 1, x.width), (2, 1, x.cause), (4, 2, x.lanesGood.toNat), (8, 4, x.rttNs), (0x0C, 4, x.neighbour.toNat),
        (0x10, 4, x.count.crc), (0x14, 4, x.count.retries), (0x18, 4, x.count.retrains), (0x1C, 4, x.count.widths), (0x20, 4, x.count.lanes),
        (0x24, 4, x.count.ward), (0x28, 4, x.count.stale), (0x2C, 4, x.count.unreachable), (0x30, 4, x.count.header), (0x34, 4, x.count.busy)]
      exec (.portStatus r) s = .next (s.keep ((u.farPut (c.p 8 8 - farBase) record 0 .hostBuffer).reply r 0 0 0))) ∧
    (s.mayBegin r c 0x0305 = true → 4 + 24 * c.p 0 4 ≤ c.params.length → (∀ n, 4 + 24 * c.p 0 4 ≤ n → c.params.getD n 0 = 0) →
      let entry := fun (i : Nat) => ({ device := BitVec.ofNat 32 (c.p (4 + 24 * i) 4), route := BitVec.ofNat 64 (c.p (4 + 24 * i + 8) 8)
                                       down := BitVec.ofNat 64 (c.p (4 + 24 * i + 16) 8) } : RouteEntry)
      let routes := (List.range (c.p 0 4)).foldl (fun l i => (l.filter fun x => x.device != (entry i).device) ++ [entry i]) s.fabric.routes
      (∀ i < c.p 0 4, ∀ x ∈ s.fabric.routeBad (4 + 24 * i) (entry i).route (entry i).down (c.p (4 + 24 * i + 4) 4), x.1 = false) → routes.length ≤ 16384 →
      exec (.routeSet r) s = .next (s.keep ((u.setFabric fun f => { f with routes := routes }).reply r 0 0 0)))

/-- For one of the 16 ports. A training that finds a width, a round trip of at most 20.5 us and the expected neighbour
brings the port UP at that width with a fresh link layer and what it found in its record. A retrain that finds a width
brings it UP again, counts a width change, and resends every held flit that has been sent again fewer than three times.
The far end's training and a lost lane of the running set start a retrain of an UP port, with its flits' resends at 0,
but at the fourth within 10 ms it fails. A failure (no transaction through the port) leaves it FAILED with its cause,
dark, its link layer cleared: RETRAIN_LIMIT 1, NO_WIDTH 2, TOO_LONG 3, TRAIN_TIME 4, LOSS_OF_LIGHT 5, WRONG_NEIGHBOUR 6.
In any other state the event changes nothing. Memory, the jobs' tasks and other ports' states stay. -/
def Obligations.TrainingEventsMovePorts : Prop :=
  ∀ (s : State) (p : Nat) (r : TrainResult), p < 16 → s.fabric.ports.length = 16 →
    let x := s.port p
    let good := r.lanesHere &&& r.lanesFar
    let lost := newlyBad x.lanesGood.toNat good.toNat
    let kept := fun (t : State) => t.mem = s.mem ∧ (∀ j, (t.job j).tasks = (s.job j).tasks) ∧
      ∀ q, q ≠ p → (t.port q).state = (s.port q).state ∧ (t.port q).width = (s.port q).width ∧ (t.port q).laser = (s.port q).laser
    let failed := fun (cause : Nat) (t : State) => (t.port p).state = 4 ∧ (t.port p).cause = cause ∧ (t.port p).width = 0 ∧ (t.port p).laser = false ∧
      { (t.port p).link with tx := [] } = {} ∧ kept t
    let found := fun (t : State) => (t.port p).lanesGood = good ∧ (t.port p).count.lanes = sat32 (x.count.lanes + lost) ∧ kept t
    let times := (x.retrainTimes.filter fun n => decide (s.keeper.time < n + 10000)) ++ [s.keeper.time]
    let retrained := fun (t : State) => (t.port p).state = 3 ∧ (t.port p).retrainTimes = times ∧ (t.port p).count.retrains = sat32 (x.count.retrains + 1) ∧
      (t.port p).link.retry = x.link.retry.map (fun (f : SentFlit) => { f with resends := 0 }) ∧ t.health.retrains = sat32 (s.health.retrains + 1) ∧ kept t
    (∀ w lo, x.state = 1 → chooseWidth good.toNat = some (w, lo) → r.rttNs ≤ 20500 → r.neighbour = x.expect → Completes (.trainingDone p r) s fun t =>
      (t.port p).state = 2 ∧ (t.port p).width = w ∧ (t.port p).lane = lo ∧ (t.port p).cause = 0 ∧ (t.port p).rttNs = r.rttNs ∧
      (t.port p).neighbour = r.neighbour ∧ (t.port p).link = { shared := 3584, reserved := List.replicate 8 64 } ∧ found t) ∧
    (x.state ≠ 1 → exec (.trainingDone p r) s = .next s) ∧
    (∀ w lo, x.state = 3 → chooseWidth good.toNat = some (w, lo) → (∀ f ∈ x.link.retry, f.resends < 3) → Completes (.retrainDone p r) s fun t =>
      (t.port p).state = 2 ∧ (t.port p).width = w ∧ (t.port p).lane = lo ∧ (t.port p).count.widths = sat32 (x.count.widths + if w = x.width then 0 else 1) ∧
      (t.port p).link.retry = x.link.retry.map (fun (f : SentFlit) => { f with resends := f.resends + 1 }) ∧ found t) ∧
    (x.state ≠ 3 → exec (.retrainDone p r) s = .next s) ∧
    (x.state = 2 → times.length < 4 → Completes (.farEndTraining p) s retrained) ∧
    (x.state ≠ 2 → exec (.farEndTraining p) s = .next s) ∧
    (x.state ≠ 1 → x.state ≠ 3 → exec (.trainTime p) s = .next s) ∧
    (x.state = 0 ∨ x.state = 4 → exec (.lossOfLight p) s = .next s) ∧
    (∀ lane, (x.lane ≤ lane → lane < x.lane + x.width → exec (.laneLossOfLock p lane) s = exec (.farEndTraining p) s) ∧
      (lane < x.lane ∨ x.lane + x.width ≤ lane → exec (.laneLossOfLock p lane) s = .next s)) ∧
    ((s.fabric.txns.filter fun t => t.port == p) = [] →
      (x.state = 1 → chooseWidth good.toNat = none → Completes (.trainingDone p r) s (failed 2)) ∧
      (x.state = 1 → (chooseWidth good.toNat).isSome = true → 20500 < r.rttNs → Completes (.trainingDone p r) s (failed 3)) ∧
      (x.state = 1 → (chooseWidth good.toNat).isSome = true → r.rttNs ≤ 20500 → r.neighbour ≠ x.expect → Completes (.trainingDone p r) s (failed 6)) ∧
      (x.state = 3 → chooseWidth good.toNat = none → Completes (.retrainDone p r) s (failed 2)) ∧
      (x.state = 2 → 4 ≤ times.length → Completes (.farEndTraining p) s (failed 1)) ∧
      (x.state = 1 ∨ x.state = 3 → Completes (.trainTime p) s (failed 4)) ∧
      (x.state = 1 ∨ x.state = 2 ∨ x.state = 3 → Completes (.lossOfLight p) s (failed 5)))

/-- On a port that is not UP none of the first three changes anything. A flit with a bad CRC counts a CRC error and makes
one NAK due per gap. A good flit without NAK returns its credits and acknowledges the held flits up to ACK; a data flit
with the expected SEQ is then received, its groups a new message or the rest of one, and SEQ advances modulo 65,536; one
with another SEQ only makes a NAK due. A NAK for the oldest held flit acts, after the credits, as RETRY_TIMEOUT does:
every held flit, each resent fewer than three times, is resent and counted as a retry. MESSAGE_FORWARD with no whole
message of the channel changes nothing; one whose route goes on leaves by the next port, if it runs, with the next route
word; one with an uncorrectable header is discarded, logged and counted. -/
def Obligations.FlitsAreTakenInOrderAndMessagesForwarded : Prop :=
  ∀ (s : State) (p : Nat) (f : Flit), p < 16 → s.fabric.ports.length = 16 →
    let l := (s.port p).link
    let field := flitField f
    let gap := fun (l : Link) => if l.nakSent then l else { l with nakSent := true, nakDue := true }
    let credited := s.setLink p fun l => if field 15 1 = 1 then { l with shared := min 3584 (l.shared + field 16 7) }
      else { l with reserved := l.reserved.modify (field 23 3) fun c => min 64 (c + field 16 7) }
    let acked := credited.setLink p fun l => { l with
      retry := if (l.retry.any fun x => x.seq == field 27 16) then (l.retry.dropWhile fun x => x.seq != field 27 16).drop 1 else l.retry }
    ((s.port p).state ≠ 2 → exec (.dataFlit p f) s = .next s ∧ exec (.idleFlit p f) s = .next s ∧ exec (.retryTimeout p) s = .next s) ∧
    ((s.port p).state = 2 →
      (flitOk f = false → exec (.dataFlit p f) s = .next ((s.setCount p fun c => { c with crc := sat32 (c.crc + 1) }).setLink p gap) ∧
        exec (.idleFlit p f) s = exec (.dataFlit p f) s) ∧
      (flitOk f = true → field 26 1 = 0 → field 62 2 = 1 → field 43 16 ≠ l.rxSeq → exec (.dataFlit p f) s = .next (acked.setLink p gap)) ∧
      (flitOk f = true → field 26 1 = 0 → field 62 2 = 1 → field 43 16 = l.rxSeq → (field 12 1 = 1 → ∀ c ∈ f.codes.take 8, c ≠ 1) →
        Completes (.dataFlit p f) s fun t =>
          let data := ((List.range (field 13 2)).map (flitGroup f)).flatten
          let x := (t.port p).link
          x.rxSeq = (l.rxSeq + 1) % 65536 ∧ x.nakSent = false ∧ x.retry = (acked.port p).link.retry ∧ x.txSeq = l.txSeq ∧ x.shared = (acked.port p).link.shared ∧
          (field 12 1 = 1 → x.rx = l.rx ++ [{ vc := field 59 3, data := data, bad := flitBadWords f (field 13 2), whole := field 11 1 == 1
                                              flits := if l.sharedFree then (1, 0) else (0, 1) }]) ∧
          (field 12 1 = 0 → ∀ (i : Nat) (y : RxMsg), l.rx[i]? = some y → (x.rx[i]?).map (·.data) =
            some (if y.vc = field 59 3 ∧ y.whole = false then y.data ++ data else y.data)) ∧
          t.jobs = s.jobs ∧ t.mem = s.mem ∧ ∀ q, q ≠ p → t.port q = s.port q) ∧
      (flitOk f = true → field 26 1 = 0 → field 62 2 = 0 → exec (.idleFlit p f) s = .next acked) ∧
      (flitOk f = true → field 26 1 = 1 → field 62 2 = 0 → (l.retry.head?).map (·.seq) = some (field 27 16) →
        exec (.idleFlit p f) s = .next (s.keep (match exec (.retryTimeout p) credited with | .next t => t | _ => s))) ∧
      (l.retry = [] → exec (.retryTimeout p) s = .next s) ∧
      ((∀ x ∈ l.retry, x.resends < 3) → Completes (.retryTimeout p) s fun t =>
        (t.port p).state = 2 ∧ (t.port p).link.retry = l.retry.map (fun (x : SentFlit) => { x with resends := x.resends + 1 }) ∧
        (l.retry ≠ [] → (t.port p).count.retries = sat32 ((s.port p).count.retries + l.retry.length)) ∧ t.mem = s.mem ∧
        ∀ j, (t.job j).tasks = (s.job j).tasks)) ∧
    ∀ vc, ((l.rx.find? fun x => x.vc == vc && x.whole) = none → exec (.messageForward p vc) s = .next s) ∧
      ∀ x, (l.rx.find? fun x => x.vc == vc && x.whole) = some x →
        let m := msgOf x.data x.bad
        let freed := s.setLink p fun l => l.free x
        (∀ q route, (∀ i ∈ x.bad, 8 ≤ i) → s.nextHop p m.hdr = some (some (q, route)) → ((s.port q).state = 2 ∨ (s.port q).state = 3) →
          exec (.messageForward p vc) s = .next (freed.txPut q (vc / 2) route { m with hdr := { m.hdr with route := route } })) ∧
        ((∃ i ∈ x.bad, i < 8) → ∀ q route, s.nextHop p m.hdr = some (some (q, route)) → exec (.messageForward p vc) s = .next
          ((freed.setCount p fun c => { c with header := sat32 (c.header + 1) }).log 0x0205 3 (portDomain p) 0xFFFF p q 0))

/-- A WRITE or READ that is not for this module changes nothing. From a source outside the device set it is counted and
dropped. With an old membership epoch it is counted stale and answered NAK STALE. While this module leaves it is
answered NAK FENCED. With the request table full it is answered NAK BUSY and its source remembered. Else it has its
table entry; for a job that is not loaded it is answered NAK NOT_GRANTED; of committed work on HBM that the job may
reach, nothing in error, a WRITE lays its content and is answered WRITE_ACK and a READ is answered READ_DATA with the
bytes; of zero length both are answered and touch no memory. An answer ends the table entry and leaves memory, jobs and
the keeper as they were. -/
def Obligations.PeerRequestsAreAdmittedAndAnswered : Prop :=
  ∀ (s : State) (p : Nat) (m : Msg),
    let j := m.hdr.job
    let a := m.hdr.address.toNat
    let u := s.takeRx p m
    let v := u.setPort p fun x => { x with requests := x.requests ++ [(m.hdr.source, m.hdr.tag)], refused := x.refused.erase m.hdr.source }
    (∀ (w : State) op reason b bad, (w.answer p m op reason b bad).mem = w.mem ∧ (w.answer p m op reason b bad).jobs = w.jobs ∧
      (w.answer p m op reason b bad).keeper = w.keeper) ∧
    (s.arrived p m 0x01 = false → exec (.write p m) s = .next s) ∧ (s.arrived p m 0x02 = false → exec (.read p m) s = .next s) ∧
    (∀ i, (i = .write p m ∧ s.arrived p m 0x01 = true) ∨ (i = .read p m ∧ s.arrived p m 0x02 = true) →
      (s.inDeviceSet m.hdr.source = false → exec i s = .next (s.keep (u.setCount p fun c => { c with ward := sat32 (c.ward + 1) }))) ∧
      (s.inDeviceSet m.hdr.source = true → m.hdr.membership < (s.job j).memberEpoch →
        exec i s = .next (s.keep ((u.setCount p fun c => { c with stale := sat32 (c.stale + 1) }).nakTo p m 5))) ∧
      (s.inDeviceSet m.hdr.source = true → m.hdr.membership = (s.job j).memberEpoch →
        (s.fabric.leaving = true → exec i s = .next (s.keep (u.nakTo p m 1))) ∧
        (s.fabric.leaving = false → (u.port p).admits m.hdr.source = false → exec i s = .next (s.keep
          (((u.setCount p fun c => { c with busy := sat32 (c.busy + 1) }).setPort p fun x => { x with
            refused := if x.refused.contains m.hdr.source then x.refused else x.refused ++ [m.hdr.source] }).nakTo p m 4))) ∧
        (s.fabric.leaving = false → (u.port p).admits m.hdr.source = true →
          (64 ≤ j ∨ (s.job j).loaded = false → exec i s = .next (s.keep (v.answer p m 0x05 2 [] []))) ∧
          (j < 64 → (s.job j).loaded = true → m.hdr.flags.toNat % 2 = 0 →
            (i = .write p m → m.content = [] → exec i s = .next (s.keep (v.answer p m 0x04 0 [] []))) ∧
            (i = .read p m → m.hdr.length = 0 → exec i s = .next (s.keep (v.answer p m 0x03 0 [] []))) ∧
            (s.plainDev j = true → cellsWf s.mem.cells = true →
              (i = .write p m → m.content ≠ [] → m.bad = [] → s.reaches j a m.content.length → ∃ cells,
                exec i s = .next (s.keep ((v.withCells cells).answer p m 0x04 0 [] [])) ∧ s.laid (s.withCells cells) a m.content) ∧
              (i = .read p m → m.hdr.length ≠ 0 → s.reaches j a m.hdr.length →
                exec i s = .next (s.keep (v.answer p m 0x03 0 (s.mem.read a m.hdr.length) []))))))))

/-- A response that is not for this module changes nothing; from a source outside the device set it is counted and dropped;
of no outstanding transaction it is logged FABRIC_PROTOCOL. READ_DATA of a read takes it off the list and lays its bytes
out for the MOVE of its channel; WRITE_ACK of a write takes it off and off the channel's writes. A NAK ends the
transaction of a channel that does not skip by halting it: cause FENCED 4 for FENCED, UNCORRECTABLE 3 for UNCORRECTABLE,
REMOTE 5 for every other reason but BUSY, which leaves the transaction marked for BUSY_RESEND; STALE also evicts the
job. BUSY_RESEND sends the same request once more and clears the mark. TRANSPORT_TIMEOUT ends the transaction as REMOTE
and suspects its device as UNREACHABLE; of one that no channel waits for, memory and jobs' tasks and channels stay. -/
def Obligations.ResponsesEndTransactionsOnce : Prop :=
  ∀ (s : State) (p : Nat) (m : Msg),
    let u := s.takeRx p m
    let gone := fun (t : Txn) => u.setFabric fun f => { f with txns := f.txns.filter fun x => !(x.port == t.port && x.tag == t.tag) }
    (∀ i op, (i = .readData p m ∧ op = 0x03) ∨ (i = .writeAck p m ∧ op = 0x04) ∨ (i = .nak p m ∧ op = 0x05) →
      (s.arrived p m op = false → exec i s = .next s) ∧
      (s.arrived p m op = true → s.inDeviceSet m.hdr.source = false → exec i s = .next (s.keep (u.setCount p fun c => { c with ward := sat32 (c.ward + 1) }))) ∧
      (s.arrived p m op = true → s.inDeviceSet m.hdr.source = true → s.fabric.txnOf p m.hdr = none → exec i s = .next (s.keep (u.log 0x0204 3 (portDomain p)
        (if m.hdr.job < 64 then m.hdr.job else 0xFFFF) m.hdr.address.toNat m.hdr.source.toNat m.hdr.tag)))) ∧
    (∀ t, s.inDeviceSet m.hdr.source = true → s.fabric.txnOf p m.hdr = some t →
      (s.arrived p m 0x03 = true → t.isWrite = false → m.bad = [] →
        (∀ c, t.use = .chan c → exec (.readData p m) s = .next (s.keep ((gone t).setChan c fun x => { x with
          reads := x.reads - 1, remote := x.remote ++ (m.content.take t.length).mapIdx fun i b => (t.window + i, b) }))) ∧
        (t.use = .dropped → exec (.readData p m) s = .next (s.keep (gone t)))) ∧
      (s.arrived p m 0x04 = true → t.isWrite = true →
        (∀ c, t.use = .chan c → exec (.writeAck p m) s = .next (s.keep ((gone t).setChan c fun x => { x with writes := x.writes - 1 }))) ∧
        (t.use = .dropped → exec (.writeAck p m) s = .next (s.keep (gone t)))) ∧
      (s.arrived p m 0x05 = true →
        (m.hdr.reason = 4 → exec (.nak p m) s = .next (s.keep (u.setFabric fun f => { f with
          txns := f.txns.map fun (x : Txn) => if x.port = t.port ∧ x.tag = t.tag then { x with busy := true } else x }))) ∧
        (m.hdr.reason ≠ 4 → m.hdr.reason ≠ 5 →
          (∀ c x, t.use = .chan c → s.chan c = some x → x.skip = false → exec (.nak p m) s = .next (s.keep
            ((gone t).haltChan c (if m.hdr.reason = 1 then 4 else if m.hdr.reason = 7 then 3 else 5) t.isWrite t.window))) ∧
          (t.use = .dropped → exec (.nak p m) s = .next (s.keep (gone t)))) ∧
        (m.hdr.reason = 5 → t.use = .dropped → exec (.nak p m) s = .next (s.keep ((gone t).evicted t.request.hdr.job))))) ∧
    (∀ tag, (s.fabric.txns.find? fun t => t.port == p && t.tag == tag && t.busy) = none → exec (.busyResend p tag) s = .next s) ∧
    (∀ tag t, (s.fabric.txns.find? fun t => t.port == p && t.tag == tag && t.busy) = some t →
      let unmarked := s.setFabric fun f => { f with txns := f.txns.map fun (x : Txn) => if x.port = p ∧ x.tag = tag then { x with busy := false } else x }
      (∀ q w, unmarked.send (s.job t.request.hdr.job).msgClass t.request = some (q, w) → exec (.busyResend p tag) s = .next (s.keep w) ∧
        w.fabric.txns = unmarked.fabric.txns ∧ w.jobs = s.jobs) ∧
      (unmarked.send (s.job t.request.hdr.job).msgClass t.request = none → exec (.busyResend p tag) s = .next s)) ∧
    (∀ tag, (s.fabric.txns.find? fun t => t.port == p && t.tag == tag) = none → exec (.transportTimeout p tag) s = .next s) ∧
    (∀ tag t c x, (s.fabric.txns.find? fun t => t.port == p && t.tag == tag) = some t → t.use = .chan c → s.chan c = some x → x.skip = false →
      exec (.transportTimeout p tag) s = .next (s.keep (((s.setFabric fun f => { f with txns := f.txns.filter fun x => !(x.port == p && x.tag == tag) }).haltChan c 5
        t.isWrite t.window).suspectAll t.dest 7))) ∧
    (∀ tag t, (s.fabric.txns.find? fun t => t.port == p && t.tag == tag) = some t → t.use = .dropped → Completes (.transportTimeout p tag) s fun w =>
      w.fabric.txns = (s.fabric.txns.filter fun x => !(x.port == p && x.tag == tag)) ∧ w.mem = s.mem ∧ w.keeper = s.keeper ∧
      ∀ j, (w.job j).tasks = (s.job j).tasks ∧ (w.job j).chans = (s.job j).chans)

/-- For a task that can issue, in plain workspace, whose 32-byte call names a collective of the job of which this module is
a member. With two instances in progress COLLSTART waits, its task blocked and the command held. Else it begins an
instance with the next number and the fields of the call: of zero rows it is only counted, its results as written; of
more rows, its src in plain HBM that the job may reach and its counts static, src is read, entered, and what the
instance can do is done, messages that came early for it included. COLLECTIVE_INSTANCE_DONE of a collective with none in
progress changes nothing; else, after what the oldest instance can do, it drops that instance and wakes the waiting
tasks when it is complete, and pulses its line with SIGNAL. -/
def Obligations.CollectiveInstancesBeginAndComplete : Prop :=
  ∀ (s : State) (t : TaskRef) (k : Task) (off : Nat), s.canIssue t = true → s.task t = some k → s.plainWs t k = true → off % 32 = 0 → off + 32 ≤ wsBytes →
    let call := s.mem.read (wsKey t.job k.home off) 32
    let j := t.job
    let n := fieldN call 0 2
    let rows := fieldN call 4 4
    let u := s.did t id
    (∀ c me, u.coll j n = some c → memberIndex c.decl s.ident.device = some me → c.decl.op ≠ 6 →
      (2 ≤ c.active.length → exec (.collstart t off) s = .next (s.keep
        ((s.hold (.task t) (.collstart t off)).setTask t fun x => { x with block := some .collective }))) ∧
      (c.active.length < 2 →
        let i : CollInstance := { number := c.started, signal := bitOf (fieldN call 2 1) 0, line := fieldN call 3 1, rows := rows, src := fieldN call 8 8
                                  dst := fieldN call 0x10 8, counts := fieldN call 0x18 8, step := (u.job j).train.step, prov := k.prov
                                  written := rows == 0, ordinal := if c.inStep.1 = (u.job j).train.step then c.inStep.2 else 0 }
        let begun := u.setColl j n fun c => { c with started := c.started + 1, inStep := (i.step, i.ordinal + 1), active := c.active ++ [i] }
        (rows = 0 → exec (.collstart t off) s = .next (s.keep begun)) ∧
        (rows ≠ 0 → (c.decl.op = 4 → i.counts = 0) → u.plainRead j = true →
          let counts := if c.decl.op = 4 then (List.range c.decl.members.length).map (staticRows c.decl) else []
          u.reaches j i.src (srcBytes c.decl me rows counts) →
          exec (.collstart t off) s = .next (s.keep
            (((begun.collEnter j n c i me counts (u.mem.read i.src (srcBytes c.decl me rows counts))).collProgress j n i.number).collRetry j n))))) ∧
    (∀ j n, (s.coll j n = none ∨ (∃ c, s.coll j n = some c ∧ c.active = []) → exec (.collectiveInstanceDone j n) s = .next s) ∧
      ∀ c i0 l, s.coll j n = some c → c.active = i0 :: l →
        let v := s.collProgress j n i0.number
        ∀ c' i, v.inst j n i0.number = some (c', i) →
          (v.instDone j c' i = false → exec (.collectiveInstanceDone j n) s = .next (s.keep v)) ∧
          (v.instDone j c' i = true → i.signal = false → exec (.collectiveInstanceDone j n) s = .next (s.keep
            ((v.setColl j n fun c => { c with active := c.active.drop 1 }).setJob j fun b => { b with
              tasks := b.tasks.map fun (k : Task) => if k.block = some .collective then { k with block := none } else k }))) ∧
          (v.instDone j c' i = true → i.signal = true → exec (.collectiveInstanceDone j n) s = .next (s.keep
            (((v.setColl j n fun c => { c with active := c.active.drop 1 }).setJob j fun b => { b with
              tasks := b.tasks.map fun (k : Task) => if k.block = some .collective then { k with block := none } else k }).pulse j
                (dieOf c'.decl.reducingCore) i.line 1))))

/-- A collective message that is not for this module, or not of the row's kind, changes nothing; from outside the device set
it is counted and dropped; for a job not loaded it is logged FABRIC_PROTOCOL; of an old membership epoch it is counted
stale. Of committed work for a collective the job has, from a member: when its instance is the next to start it is kept
for it; else, with the instance in progress, a TERM or DATA block that fits the table lands there and its segment's
credit goes back, a credit adds its count to the segments this module may fill, and a count is recorded for its sender,
after which the instance does what it can. A collective the job does not have is a misfit. SUMMARY adds the exact square
sum of a contributor, marked non-finite when it is not finite, or of an owner's reduced elements. -/
def Obligations.CollectiveMessagesReachTheirInstance : Prop :=
  ∀ (s : State) (p : Nat) (m : Msg),
    let u := s.takeRx p m
    let j := m.hdr.job
    let address := m.hdr.address.toNat
    let n := bitsOf address 58 6
    let block := bitsOf address 0 24
    let refused := fun (i : Instr) (kind : Nat) =>
      (¬ (s.arrived p m 0x10 = true ∧ bitsOf address 56 2 = kind) → exec i s = .next s) ∧
      (s.arrived p m 0x10 = true → bitsOf address 56 2 = kind →
        (s.inDeviceSet m.hdr.source = false → exec i s = .next (s.keep (u.setCount p fun c => { c with ward := sat32 (c.ward + 1) }))) ∧
        (s.inDeviceSet m.hdr.source = true → 64 ≤ j ∨ (s.job j).loaded = false → exec i s = .next (s.keep (u.protocolError p j m.hdr))) ∧
        (s.inDeviceSet m.hdr.source = true → j < 64 → (s.job j).loaded = true → m.hdr.membership < (s.job j).memberEpoch →
          exec i s = .next (s.keep (u.setCount p fun c => { c with stale := sat32 (c.stale + 1) }))))
    (∀ i kind, (i = .term p m ∧ kind = 0) ∨ (i = .data p m ∧ kind = 1 ∧ ¬ (j < 64 ∧ (s.job j).permute.any (fun c => c.decl.num == n) = true)) ∨
        (i = .collectiveCredit p m ∧ kind = 3 ∧ block / 2 ^ 22 = 0) ∨ (i = .collectiveCounts p m ∧ kind = 3 ∧ block / 2 ^ 22 = 1) →
      refused i kind ∧
      (s.arrived p m 0x10 = true → bitsOf address 56 2 = kind → s.inDeviceSet m.hdr.source = true → j < 64 → (s.job j).loaded = true →
        m.hdr.membership = (s.job j).memberEpoch → m.hdr.flags.toNat % 2 = 0 →
        (u.coll j n = none → exec i s = .next (s.keep (u.collMisfit p j m.hdr))) ∧
        ∀ c d, u.coll j n = some c → memberIndex c.decl m.hdr.source = some d →
          ((c.active.find? fun y => y.number % 8192 == m.hdr.tag) = none → m.hdr.tag = c.started % 8192 →
            exec i s = .next (s.keep (u.setColl j n fun c => { c with early := c.early ++ [(p, m)] }))) ∧
          ∀ y, (c.active.find? fun y => y.number % 8192 == m.hdr.tag) = some y →
            (i = .collectiveCredit p m → exec i s = .next (s.keep ((u.setInst j n y.number fun z => { z with
              sends := setCounts z.sends d ((countsOf z.sends d).1, (countsOf z.sends d).2 + block % 2 ^ 22) }).collProgress j n y.number))) ∧
            (i = .collectiveCounts p m → exec i s = .next (s.keep ((u.setInst j n y.number fun z => { z with
              gotCounts := (z.gotCounts.filter fun x => x.1 != d) ++ [(d, fieldN m.content 0 4)] }).collProgress j n y.number))) ∧
            (∀ e, kind ≠ 3 → c.decl.members[d]? = some e → fitsTable c.decl kind (bitsOf address 24 32) e = true → m.content ≠ [] → m.bad = [] →
              let index := bitsOf address 24 32
              let x : Landed := { member := d, kind := kind, lo := if kind = 0 then index / 65536 else index, last := if kind = 0 then index % 65536 else 0
                                  block := block, after := m.hdr.reason == 1, content := m.content }
              exec i s = .next (s.keep (((u.setInst j n y.number fun z => { z.land x with
                gets := setCounts z.gets d ((countsOf z.gets d).1 + 1, (countsOf z.gets d).2) }).giveCredit j n y.number false).collProgress j n y.number))))) ∧
    ∀ v finite acc, refused (.summary p m v finite acc) 2 ∧
      (s.arrived p m 0x10 = true → bitsOf address 56 2 = 2 → s.inDeviceSet m.hdr.source = true → j < 64 → (s.job j).loaded = true →
        m.hdr.membership = (s.job j).memberEpoch →
        let step := (s.job j).train.judged
        (v = 0xFFFFFFFF → exec (.summary p m v finite acc) s = .next (s.keep (u.setStrag j fun y => { y with reducedSq := sqPlus y.reducedSq acc }))) ∧
        (v ≠ 0xFFFFFFFF → exec (.summary p m v finite acc) s = .next (s.keep ((if finite then u else u.markNonFinite j step v).setStrag j fun y => { y with
          scanned := addScanned y.scanned step v acc }))))

/-- For a RESHARD that may begin in a state of its job that accepts it, with nothing beyond its layout. Of length 0 it
answers OK and changes nothing. With its plan in a window of the job: a plan that R232 refuses is answered BAD_PARAM;
one it allows, with an allowed epoch, is kept with the command and readiness is sent to every other module of the two
layouts. With other modules to hear from, that is all that happens. With none and no rounds, and an epoch that is 0 or
the present one, the job has the new layout and its tables at once, no RESHARD is under way, and memory is as before. A
DATA message of the PERMUTE context, from the device set: with no RESHARD, or naming no move of the plan, it is a
protocol error; before all are ready or before its round it is kept; with a block in error the RESHARD fails with
UNCORRECTABLE; else its block is written at its place, one less is awaited, and after the last the next round begins.
Messages kept are then tried again. That a DATA index counts the moves between two modules is log entry 37, the plan's
structured form log entry 32. -/
def Obligations.ReshardBeginsMovesAndEnds : Prop :=
  ∀ (s : State) (r : CmdRef) (plan : Plan) (c : Cmd) (p : Nat) (m : Msg),
    let u := s.begin r
    let b := s.job c.job
    let epoch := c.p 0x10 8
    let others := planOthers plan s.ident.device
    (s.mayBegin r c 0x0310 = true → c.job < s.jobs.length → (∀ n, 0x18 ≤ n → c.params.getD n 0 = 0) → jobAccepts b.state 0x0310 = .yes →
      (c.p 8 8 = 0 → exec (.reshard r plan) s = .next (s.keep (u.reply r 0 0 0))) ∧
      (c.p 8 8 ≠ 0 → b.inWindow (c.p 0 8) (c.p 8 8) = true →
        (b.planBad s.ident.device plan = true → exec (.reshard r plan) s = .next (s.keep (u.reply r 0x0102 0 0))) ∧
        (b.planBad s.ident.device plan = false → (epoch = 0 → plan.membersChange = false) →
          (b.member.isSome = true → epoch ≤ b.memberEpoch + 1 ∧ (epoch = 0 ∨ b.memberEpoch < epoch)) →
          (others ≠ [] → exec (.reshard r plan) s = .next (s.keep (others.foldl (fun v d => v.control c.job d 0xF [v.ident.device.toNat])
            (u.setJob c.job fun b => { b with reshard := some { cmd := r, plan := plan, epoch := epoch } })))) ∧
          (others = [] → plan.rounds = [] → (epoch = 0 ∨ b.memberEpoch = epoch) → (∀ k ∈ b.colls, k.early = []) →
            Completes (.reshard r plan) s fun t => (t.job c.job).layout = plan.newLayout ∧ (t.job c.job).reshard = none ∧ t.mem = s.mem ∧
              (t.job c.job).colls.map (·.decl) = b.colls.map (fun (k : Coll) =>
                (plan.collectives.find? fun d => d.num == k.decl.num && k.decl.op != 6).getD k.decl) ∧
              (t.job c.job).grants = b.grants.map fun (g : Grant) => match plan.shards.find? fun y => y.1 == g.decl.number with
                | some y => { g with decl := { g.decl with bytes := y.2 } }
                | none => g)))) ∧
    (s.arrived p m 0x10 = true → bitsOf m.hdr.address.toNat 56 2 = 1 → s.inDeviceSet m.hdr.source = true → m.hdr.job < 64 →
      (s.job m.hdr.job).permute.any (fun k => k.decl.num == bitsOf m.hdr.address.toNat 58 6) = true →
      let v := s.takeRx p m
      let j := m.hdr.job
      let lands := fun (w : State) => exec (.data p m) s = .next (s.keep (w.permuteRetry j))
      ((s.job j).reshard = none → lands (v.protocolError p j m.hdr)) ∧
      ∀ x, (s.job j).reshard = some x →
        ((planBetween x.plan m.hdr.source true)[bitsOf m.hdr.address.toNat 24 32]? = none → lands (v.protocolError p j m.hdr)) ∧
        ∀ round mv, (planBetween x.plan m.hdr.source true)[bitsOf m.hdr.address.toNat 24 32]? = some (round, mv) →
          (x.stage = 1 ∨ x.round < round → lands (v.setColl j (bitsOf m.hdr.address.toNat 58 6) fun k => { k with early := k.early ++ [(p, m)] })) ∧
          (x.stage ≠ 1 → round ≤ x.round → m.bad ≠ [] → lands (v.reshardFail j 0x0301)) ∧
          (x.stage ≠ 1 → round ≤ x.round → m.bad = [] →
            let w := (v.moveWrite j mv (bitsOf m.hdr.address.toNat 0 24) m.content).setJob j fun b => { b with reshard := some { x with toArrive := x.toArrive - 1 } }
            (1 < x.toArrive → lands w) ∧ (x.toArrive ≤ 1 → lands (w.reshardNext j))))

/-- HEARTBEAT_PERIOD with the device reset over counts the next heartbeat, leaves memory, cores and jobs' work alone, and
has the bytes of R241 sent to the far end of every port that is UP, from one port for each device. HEARTBEAT and GOODBYE
from the device beyond the port or a neighbour in some job tree take effect, and from another are dropped and counted:
HEARTBEAT gives, for every job whose members include its sender, the sender's patina score and its worn and retire
flags, which stay once set; GOODBYE, and HEARTBEAT_SILENCE of a neighbour, make the sender suspected in every job of
which it is a member and that still has its membership. SUSPECT, EVICT and the other CONTROL messages of a job take
effect only from a member of it in the device set, else they are dropped and counted. SUSPECT at the coordinator or a
deputy puts the device in the removals gathered, and at the coordinator opens the gather window; elsewhere it changes
nothing. EVICT leaves the job with MEMBERSHIP_STALE as EVICTED; ISOLATE, of a member that has suspects or no running
port to the coordinator and every deputy, as ISOLATED. One suspicion for each device and epoch is log entry 18. -/
def Obligations.HeartbeatsAndSuspicionsSpread : Prop :=
  ∀ (s : State) (p : Nat) (m : Msg),
    let v := s.takeRx p m
    let d := m.hdr.source
    let j := m.hdr.job
    let is := fun (kind : Nat) => s.arrived p m 0x20 = true ∧ bitsOf m.hdr.address.toNat 56 8 = kind
    let dropped := v.setCount p fun c => { c with ward := sat32 (c.ward + 1) }
    let near := (s.port p).neighbour = d ∨ s.treeNeighbour d = true
    let known := j < 64 ∧ s.inDeviceSet d = true ∧ (s.job j).knowsMember d = true
    let joined := fun (t : State) (k : Nat) (x : U32) (y : Membership) => (t.job k).member = some y ∧ y.members.any (fun e => e.device == x) = true
    (s.keeper.device ≠ 0 → exec .heartbeatPeriod s = .next s) ∧
    (s.keeper.device = 0 → s.fabric.beat < 2 ^ 32 → Completes .heartbeatPeriod s fun t => t.fabric.beat = (s.fabric.beat + 1) % 2 ^ 32 ∧ t.mem = s.mem ∧ t.cores = s.cores ∧ t.jobs = s.jobs ∧
      ∀ a, a < 16 → (s.port a).state = 2 → ∃ q x, (s.port q).state = 2 ∧ (s.port q).neighbour = (s.port a).neighbour ∧ x ∈ (t.port q).link.tx ∧
        x.msg.hdr.dest = (s.port a).neighbour ∧ x.msg.hdr.opcode = 0x20 ∧ bitsOf x.msg.hdr.address.toNat 56 8 = 1 ∧ x.msg.content = s.beatBytes) ∧
    (¬ is 1 → exec (.heartbeat p m) s = .next s) ∧ (¬ is 2 → exec (.goodbye p m) s = .next s) ∧
    (is 1 → ¬ near → exec (.heartbeat p m) s = .next (s.keep dropped)) ∧ (is 2 → ¬ near → exec (.goodbye p m) s = .next (s.keep dropped)) ∧
    (is 1 → near → Completes (.heartbeat p m) s fun t => t.mem = s.mem ∧ t.cores = s.cores ∧ ∀ k y, k < 64 → k < s.jobs.length → joined s k d y →
      ∃ z i, (t.job k).member = some z ∧ z.members = y.members ∧ i ∈ z.infos ∧ i.device = d ∧ i.patina = some (fieldN m.content 8 2) ∧
        (bitOf (fieldN m.content 0xA 1) 0 = true → i.worn = true) ∧ (bitOf (fieldN m.content 0xA 1) 1 = true → i.retire = true)) ∧
    (∀ i x reason, (i = .goodbye p m ∧ is 2 ∧ near ∧ x = d ∧ reason = 3) ∨
        (i = .heartbeatSilence x ∧ reason = 1 ∧ (s.treeNeighbour x = true ∨ ∃ q, q < 16 ∧ (s.port q).state = 2 ∧ (s.port q).neighbour = x)) →
      Completes i s fun t => t.mem = s.mem ∧ t.cores = s.cores ∧ ∀ k y, k < 64 → k < s.jobs.length → joined s k x y → y.state ≠ 3 → y.state ≠ 4 →
        ∃ z, (t.job k).member = some z ∧ z.members = y.members ∧ z.epoch = y.epoch ∧ z.suspects.contains x = true) ∧
    (∀ x, s.treeNeighbour x = false → (∀ q, q < 16 → (s.port q).state = 2 → (s.port q).neighbour ≠ x) → exec (.heartbeatSilence x) s = .next s) ∧
    (∀ x reason owns, (¬ is 3 → exec (.suspect p m x reason owns) s = .next s) ∧ (is 3 → ¬ known → exec (.suspect p m x reason owns) s = .next (s.keep dropped)) ∧
      (is 3 → known → j < s.jobs.length → ∀ y, joined s j x y → ¬ (y.root = some s.ident.device ∨ y.deputies.contains s.ident.device = true) →
        exec (.suspect p m x reason owns) s = .next (s.keep v)) ∧
      (is 3 → known → j < s.jobs.length → reason ≠ 5 → reason ≠ 6 → ∀ y, joined s j x y → y.root = some s.ident.device ∨ y.deputies.contains s.ident.device = true →
        Completes (.suspect p m x reason owns) s fun t => t.mem = s.mem ∧ t.cores = s.cores ∧
          ∃ z, (t.job j).member = some z ∧ z.epoch = y.epoch ∧ z.members = y.members ∧ z.gather.contains x = true ∧ (y.root = some s.ident.device → z.gathering = true))) ∧
    (¬ is 8 → exec (.evict p m) s = .next s) ∧ (is 8 → ¬ known → exec (.evict p m) s = .next (s.keep dropped)) ∧
    (is 8 → known → exec (.evict p m) s = .next (s.keep ((v.setMember j fun x => { x with state := 4 }).faultStop j 0x0502 true))) ∧
    ∀ k y, (s.job k).member = some y →
      let heads := (y.root.toList ++ y.deputies).filter fun x => x != s.ident.device
      let cut := heads ≠ [] ∧ ∀ x ∈ heads, ∀ q, s.outPort x = some q → (s.port q).running = false
      (y.state = 3 ∨ y.state = 4 ∨ (y.suspects = [] ∧ ¬ cut) → exec (.isolate k) s = .next s) ∧
      (y.state ≠ 3 → y.state ≠ 4 → y.suspects ≠ [] ∨ cut →
        exec (.isolate k) s = .next (s.keep ((s.setMember k fun x => { x with state := 3, proposal := none, mine := false }).faultStop k 0x0502 false)))

/-- For a job that has a membership and holds no message for a turn. Where a job without collectives, RESHARD and waiting
removals turns, and the tree of R239 has a coordinator, the epoch and that tree are adopted, suspicions and the proposal
are gone, and one more turn is counted. The coordinator, or a deputy that has suspected it, opens a proposal of the next
epoch with the removals gathered when its window closes, or with those of a RESHARD, a deputy's with its rank and the
coordinator removed; it waits for the children in the proposed tree, and with none it turns at once given a majority.
LINEUP_ALLOWANCE: a proposer with a majority turns, without one changes nothing; another member answers once. A proposal
received for the next epoch, when none is open, is taken up, and answered at once by a member without children in it;
every other is ignored. LINEUP adds the sender's count; when every child has answered, a proposer with a majority turns
and another member answers. TURN for the next epoch turns; for another epoch it is ignored. ABANDON of the open
proposal's epoch and PROPOSAL_TIMEOUT at the proposer drop it and count it; the proposer keeps its removals, and a
coordinator that abandons twice in a row isolates. CONTROL messages from outside are dropped and counted. -/
def Obligations.ProposalsLineUpAndTurn : Prop :=
  ∀ (s : State) (p : Nat) (m : Msg) (y : Membership) (epoch count rank : Nat) (removed : List U32) (added : List TreeEntry) (k : Nat),
    let v := s.takeRx p m
    let me := s.ident.device
    let is := fun (kind : Nat) => s.arrived p m 0x20 = true ∧ bitsOf m.hdr.address.toNat 56 8 = kind
    let known := m.hdr.job < 64 ∧ s.inDeviceSet m.hdr.source = true ∧ (s.job m.hdr.job).knowsMember m.hdr.source = true
    (∀ i kind, (i = .propose p m epoch removed added rank ∧ kind = 4) ∨ (i = .lineup p m epoch count ∧ kind = 5) ∨ (i = .turn p m epoch removed added ∧ kind = 6) ∨
        (i = .abandon p m epoch ∧ kind = 7) →
      (¬ is kind → exec i s = .next s) ∧ (is kind → ¬ known → exec i s = .next (s.keep (v.setCount p fun c => { c with ward := sat32 (c.ward + 1) })))) ∧
    (∀ i, i = .gatherWindowClose k ∨ i = .lineupAllowance k ∨ i = .proposalTimeout k ∨ i = .repropose k → (s.job k).member = none → exec i s = .next s) ∧
    (k < s.jobs.length → (s.job k).member = some y → y.held = [] →
      let turns := fun (i : Instr) (e : Nat) (r : List U32) (a : List TreeEntry) =>
        (s.job k).colls = [] → (s.job k).reshard = none → y.removals = [] → y.treeAfter r a ≠ [] → Completes i s fun t => t.mem = s.mem ∧ t.cores = s.cores ∧
          ∃ z, (t.job k).member = some z ∧ z.epoch = e ∧ z.members = y.treeAfter r a ∧ z.state = (if y.state = 3 ∨ y.state = 4 then y.state else 1) ∧
            z.proposal = none ∧ z.mine = false ∧ z.suspects = [] ∧ z.turned = y.turned + 1 ∧ z.abandonedRun = 0
      let has := fun (i : Instr) (P : Membership → Prop) => Completes i s fun t => t.mem = s.mem ∧ t.cores = s.cores ∧
        ∃ z, (t.job k).member = some z ∧ z.epoch = y.epoch ∧ z.members = y.members ∧ P z
      (s.mayPropose y = false → exec (.gatherWindowClose k) s = .next s ∧ exec (.repropose k) s = .next s) ∧
      (y.gathering = false ∨ y.gather = [] → exec (.gatherWindowClose k) s = .next s) ∧
      ((s.job k).reshardChange y = none → y.gather = [] → exec (.repropose k) s = .next s) ∧
      (∀ i r a, (i = .gatherWindowClose k ∧ y.gathering = true ∧ y.gather ≠ [] ∧ r = y.gather ∧ a = []) ∨
          (i = .repropose k ∧ ((s.job k).reshardChange y = some (r, a) ∨ ((s.job k).reshardChange y = none ∧ y.gather ≠ [] ∧ r = y.gather ∧ a = []))) →
        s.mayPropose y = true → ∀ q : Proposal,
          (y.root = some me ∧ q = { epoch := y.epoch + 1, removed := r, added := a, rank := 0 }) ∨
          (∃ d x, y.root = some d ∧ d ≠ me ∧ y.members.find? (fun e => e.device == me) = some x ∧
            q = { epoch := y.epoch + 1, removed := if r.contains d then r else d :: r, added := a, rank := x.deputy }) →
          (childrenIn (y.proposed q) me ≠ [] → has i fun z => z.proposal = some q ∧ z.mine = true ∧ z.state = 2 ∧ z.gathering = false ∧ z.gather = []) ∧
          (childrenIn (y.proposed q) me = [] → q.majority y.members.length = true → turns i (y.epoch + 1) q.removed a)) ∧
      (y.proposal = none → exec (.lineupAllowance k) s = .next s ∧ exec (.proposalTimeout k) s = .next s) ∧
      (∀ q, y.proposal = some q →
        (y.mine = true → q.majority y.members.length = true → turns (.lineupAllowance k) q.epoch q.removed q.added) ∧
        (y.mine = true → q.majority y.members.length = false → exec (.lineupAllowance k) s = .next s) ∧
        (y.mine = false → exec (.proposalTimeout k) s = .next s ∧ (q.answered = true → exec (.lineupAllowance k) s = .next s) ∧
          (q.answered = false → has (.lineupAllowance k) fun z => z.proposal = some { q with answered := true })) ∧
        (y.mine = true → ¬ (q.rank = 0 ∧ 1 ≤ y.abandonedRun) → has (.proposalTimeout k) fun z => z.proposal = none ∧ z.abandoned = y.abandoned + 1 ∧
          z.abandonedRun = y.abandonedRun + 1 ∧ z.gather = (y.gather ++ q.removed).dedup ∧ z.state = if y.state = 2 then 1 else y.state) ∧
        (y.mine = true → q.rank = 0 → 1 ≤ y.abandonedRun → exec (.proposalTimeout k) s = .next (s.keep ((((s.toAll k 7 [q.epoch] (childrenIn (y.proposed q) me)).dropProposal k q).setMember k
          fun z => { z with abandonedRun := z.abandonedRun + 1 }).isolate k)))) ∧
      (known → k = m.hdr.job →
        (is 4 → epoch ≠ y.epoch + 1 ∨ y.proposal.isSome = true ∨ removed.contains me = true ∨ y.state = 3 ∨ y.state = 4 ∨ (rank ≠ 0 ∧ ¬ ∃ d, y.root = some d ∧ removed.contains d = true) →
          exec (.propose p m epoch removed added rank) s = .next (s.keep v)) ∧
        (is 4 → epoch = y.epoch + 1 → y.proposal = none → removed.contains me = false → y.state ≠ 3 → y.state ≠ 4 → (rank ≠ 0 → ∃ d, y.root = some d ∧ removed.contains d = true) →
          let q : Proposal := { epoch := epoch, removed := removed, added := added, rank := rank }
          (childrenIn (y.proposed q) me ≠ [] → has (.propose p m epoch removed added rank) fun z => z.proposal = some q ∧ z.mine = false ∧ z.state = 2) ∧
          (childrenIn (y.proposed q) me = [] → has (.propose p m epoch removed added rank) fun z => z.proposal = some { q with answered := true } ∧ z.mine = false ∧ z.state = 2)) ∧
        (is 5 → ∀ q, y.proposal = some q → q.epoch = epoch →
          let q' : Proposal := { q with counts := (q.counts.filter fun c => c.1 != m.hdr.source) ++ [(m.hdr.source, count)] }
          (y.allAnswered q' me = false → has (.lineup p m epoch count) fun z => z.proposal = some q') ∧
          (y.allAnswered q' me = true → y.mine = true → q'.majority y.members.length = false → has (.lineup p m epoch count) fun z => z.proposal = some q') ∧
          (y.allAnswered q' me = true → y.mine = true → q'.majority y.members.length = true → turns (.lineup p m epoch count) q.epoch q.removed q.added) ∧
          (y.allAnswered q' me = true → y.mine = false → q.answered = false → has (.lineup p m epoch count) fun z => z.proposal = some { q' with answered := true })) ∧
        (is 6 → (epoch ≠ y.epoch + 1 → exec (.turn p m epoch removed added) s = .next (s.keep v)) ∧ (epoch = y.epoch + 1 → turns (.turn p m epoch removed added) epoch removed added)) ∧
        (is 7 → ((∀ q, y.proposal = some q → q.epoch ≠ epoch) → exec (.abandon p m epoch) s = .next (s.keep v)) ∧
          ∀ q, y.proposal = some q → q.epoch = epoch → has (.abandon p m epoch) fun z => z.proposal = none ∧ z.mine = false ∧ z.abandoned = y.abandoned + 1 ∧
            z.state = (if y.state = 2 then 1 else y.state) ∧ z.gather = if y.mine then (y.gather ++ q.removed).dedup else y.gather)))

/-- For a command of the row that may begin, in a state of its job that accepts it, with reserved bytes zero. MEMBERSHIP_SET
with a count that its parameters hold: a table that R238 refuses is answered BAD_PARAM at 0x10, a legal one of an epoch
not above the present one BAD_PARAM at 0, and another is the job's membership from then on, with nothing gathered,
proposed or suspected, and OK is answered. MEMBERSHIP_REMOVE with a count of 0 answers OK; naming a device that is no
member it is answered BAD_PARAM at that device's offset; naming members but not all of them it waits for the turn
without an answer: at the coordinator the devices join the removals gathered and the window opens, elsewhere the
coordinator is sent the request. MEMBERSHIP_STATUS hands the record to the adapter at the buffer, then answers OK. -/
def Obligations.MembershipCommandsSetAskAndReport : Prop :=
  ∀ (s : State) (r : CmdRef) (c : Cmd),
    let u := s.begin r
    let j := c.job
    let b := s.job j
    (s.mayBegin r c 0x0311 = true → jobAccepts b.state 0x0311 = .yes →
      let n := c.p 8 4
      let ms := (List.range n).map c.treeEntry
      n ≠ 0 → n ≤ 16384 → 16 + 16 * n ≤ c.params.length → c.p 0xC 4 = 0 → (∀ i, i < n → c.p (0x19 + 16 * i) 7 = 0) → (∀ i, 16 + 16 * n ≤ i → c.params.getD i 0 = 0) →
      (s.tableBad ms = true → exec (.membershipSet r) s = .next (s.keep (u.reply r 0x0102 0x10 0))) ∧
      (s.tableBad ms = false → b.member.isSome = true → c.p 0 8 ≤ b.memberEpoch → exec (.membershipSet r) s = .next (s.keep (u.reply r 0x0102 0 0))) ∧
      (s.tableBad ms = false → j < s.jobs.length → (b.member.isSome = true → b.memberEpoch < c.p 0 8) → Completes (.membershipSet r) s fun t => t.mem = s.mem ∧ t.cores = s.cores ∧
        t.job j = { b with member := some { epoch := c.p 0 8, members := ms } } ∧ ∀ k, k ≠ j → t.job k = s.job k)) ∧
    (s.mayBegin r c 0x0312 = true → jobAccepts b.state 0x0312 = .yes → ∀ y, b.member = some y →
      let n := c.p 0 4
      let ds := ((List.range n).map fun i => BitVec.ofNat 32 (c.p (4 + 4 * i) 4)).dedup
      (∀ i, 4 + 4 * n ≤ i → c.params.getD i 0 = 0) →
      (n = 0 → exec (.membershipRemove r) s = .next (s.keep (u.reply r 0 0 0))) ∧
      (n ≠ 0 → 4 + 4 * n ≤ c.params.length →
        (∀ off, ((List.range ds.length).find? fun i => !(y.members.any fun e => e.device == ds.getD i 0)) = some off →
          exec (.membershipRemove r) s = .next (s.keep (u.reply r 0x0102 (4 + 4 * off) 0))) ∧
        ((∀ d ∈ ds, y.members.any (fun e => e.device == d) = true) → (∃ e ∈ y.members, ds.contains e.device = false) →
          (y.root = some s.ident.device → j < s.jobs.length → exec (.membershipRemove r) s = .next (s.keep ((u.setMember j fun m => { m with removals := m.removals ++ [(r, ds)] }).setMember j
            fun m => { m with gather := (m.gather ++ ds).dedup, gathering := true }))) ∧
          (∀ d, y.root = some d → d ≠ s.ident.device → j < s.jobs.length →
            exec (.membershipRemove r) s = .next (s.keep ((u.setMember j fun m => { m with removals := m.removals ++ [(r, ds)] }).control j d 0x0D (ds.map (·.toNat)))))))) ∧
    (s.mayBegin r c 0x0313 = true → jobAccepts b.state 0x0313 = .yes → (∀ i, 8 ≤ i → c.params.getD i 0 = 0) → s.farOk (c.p 0 8) (s.memberRecord j).length = true →
      exec (.membershipStatus r) s = .next (s.keep ((u.farPut (c.p 0 8 - farBase) (s.memberRecord j) 0 .hostBuffer).reply r 0 0 0)))

/-- For a task that can issue, with step register s. EPOCH with no epoch open and NO_SPEC clear opens the epoch of s: the
epoch register is s, the step register s + 1, and the task and the step channels that go with it are in provisional
mode, its skip entry recorded. With an epoch open a task that has not joined it joins, and the registers move when the
epoch is that of s (it had been opened by payload); a task that has joined waits for the verdict, its command held.
Under NO_SPEC the first EPOCH of a step moves the registers, opens nothing, and its task waits without being
provisional; one that already waits changes nothing. Every other job and every core is as before, and memory too when
the job has no group table and no paths. NONFIN marks its contributor's flag of step s false, CREADY makes it ready for
step s here and lets readiness go up the tree; for a number that is none both change nothing. LSEXP gives the task 2 to
the loss exponent of step s as FP32, which for exponents from -64 to 64 is exact. Its result register is the model's
choice (log entry 12). -/
def Obligations.TrainingInstructionsOpenTheStepAndReport : Prop :=
  ∀ (s : State) (t : TaskRef) (k : Task) (skip : U64) (c : Nat), s.canIssue t = true → s.task t = some k →
    let j := t.job
    let b := s.job j
    let n := b.train.step
    let u := s.did t id
    let calm := fun (w : State) => w.cores = s.cores ∧ (∀ i, i ≠ j → w.job i = s.job i) ∧ (b.groupCount = 0 → b.train.paths = [] → w.mem = s.mem)
    let joins := fun (w : State) => ∃ x, w.task t = some x ∧ x.atEpoch = true ∧ x.skipEntry = skip ∧ x.prov = true ∧ x.home = k.home ∧
      ∀ y ∈ (w.job j).chans, y.follows t k.home = true → y.prov = true
    (b.noSpec = false → b.train.openEpoch = none → Completes (.epoch t skip) s fun w => calm w ∧ joins w ∧
      (w.job j).train.openEpoch = some n ∧ (w.job j).train.epochReg = n ∧ (w.job j).train.step = n + 1) ∧
    (b.noSpec = false → ∀ e, b.train.openEpoch = some e →
      (k.atEpoch = true → exec (.epoch t skip) s = .next (s.keep ((s.hold (.task t) (.epoch t skip)).setTask t fun x => { x with block := some .verdict }))) ∧
      (k.atEpoch = false → Completes (.epoch t skip) s fun w => calm w ∧ joins w ∧ (w.job j).train.openEpoch = some e ∧
        (n = e → (w.job j).train.epochReg = n ∧ (w.job j).train.step = n + 1) ∧ (n ≠ e → (w.job j).train = b.train))) ∧
    (b.noSpec = true → (b.train.noSpecAt.isSome = true → k.atEpoch = true → exec (.epoch t skip) s = .next s) ∧
      (b.train.noSpecAt.isSome = false ∨ k.atEpoch = false → Completes (.epoch t skip) s fun w => calm w ∧ (w.job j).train.openEpoch = b.train.openEpoch ∧
        (∃ x, w.task t = some x ∧ x.atEpoch = true ∧ x.skipEntry = skip ∧ x.prov = false ∧ x.block = some .verdict) ∧
        (b.train.noSpecAt = none → (w.job j).train.epochReg = n ∧ (w.job j).train.step = n + 1 ∧ (w.job j).train.noSpecAt = some n) ∧
        (b.train.noSpecAt.isSome = true → (w.job j).train = b.train))) ∧
    (b.width ≤ c → exec (.nonfin t c) s = .next s ∧ exec (.cready t c) s = .next s) ∧
    (c < b.width → exec (.nonfin t c) s = .next (s.keep (u.setStrag j fun x => { x with
        nonFinite := if x.nonFinite.contains (n, c) then x.nonFinite else x.nonFinite ++ [(n, c)] })) ∧
      exec (.cready t c) s = .next (s.keep ((u.setStrag j fun x => { x with ready := if x.ready.contains (n, c) then x.ready else x.ready ++ [(n, c)] }).sendReady j false))) ∧
    (∀ l : Int, -64 ≤ l → l ≤ 64 → (n = b.train.judged ∧ l = b.train.loss) ∨ (n = b.train.judged + 1 ∧ l = b.train.lossNext) →
      exec (.lsexp t) s = .next (s.keep (s.did t fun x => { x with scalar := BitVec.ofNat 64 ((l + 127).toNat * 2 ^ 23) })))

/-- For a task that can issue, in plain workspace. OPTUPD of a descriptor that R164 or R165 refuses stops the job with
BAD_PARAM, of no parameters only signals. Else, with the group's entry in plain HBM that the job reaches and every
stretch inside workspace, each parameter is updated by R166 from its old master, moments and gradient, and memory holds
the new masters, first moments, second moments and working copies, laid in that order, and every other byte as before;
the update's square sums are added to its group's, and its fingerprint term to the task's slot. UPDATE on a stack whose
unit has 64 descriptors waits; else its descriptor joins the unit's queue, or stops the job with BAD_PARAM when R129
refuses it. UPDATE_DESCRIPTOR_RUN without a descriptor of a running job changes nothing; it carries out the first one,
erases it from the queue and signals; it waits where an access waits, and stops the job with UNCORRECTABLE where one
fails. For committed work on plain HBM that the job reaches, off its group table, its effect is laid as for OPTUPD. -/
def Obligations.UpdatesRewriteMastersAndMoments : Prop :=
  ∀ (s : State) (t : TaskRef) (k : Task) (stack off : Nat),
    let updates := fun (j : Nat) (prov : Bool) (d : OptDesc) (rd : Nat → Nat → Bytes) =>
      let old := paramsOf (elemsOf .fp32 (rd d.master (4 * d.count)) d.count) (momentsOf .m8s (bitOf d.forms 0) (rd d.m1 (momentSize (bitOf d.forms 0) d.count)) d.count)
        (momentsOf .m8u (bitOf d.forms 0) (rd d.m2 (momentSize (bitOf d.forms 0) d.count)) d.count)
      (old, (s.updateCtx j (s.mem.read ((s.job j).groupTable + 32 * d.group) 32) prov).all d.base 0 old (elemsOf .fp32 (rd d.grad (4 * d.count)) d.count))
    let written := fun (d : OptDesc) (new : List Param) =>
      [(d.master, packElems .fp32 (new.map (·.w))), (d.m1, momentBytes .m8s (bitOf d.forms 1) (new.map (·.m1))), (d.m2, momentBytes .m8u (bitOf d.forms 1) (new.map (·.m2)))] ++
        (match Fmt.ofCode d.workFmt with
          | some f => if d.workFmt = 0 then [] else [(d.work, packElems f (new.map fun p => fCast .fp32 f p.w))]
          | none => [])
    (s.canIssue t = true → s.task t = some k → s.plainWs t k = true → off + 64 ≤ wsBytes →
      let j := t.job
      let u := s.did t id
      let at_ := fun (a : Nat) => wsKey j k.home a
      let bytes := s.mem.read (at_ off) 64
      let d := OptDesc.ofOpt bytes
      (off % 64 = 0 →
        (d.bad = true → exec (.optupd t off) s = .next (s.keep (u.faultStop j 0x0102 true))) ∧
        (d.bad = false → d.count = 0 → exec (.optupd t off) s = .next (s.keep (u.signalLine t k d.signal d.line))) ∧
        (d.bad = false → d.count ≠ 0 → u.plainRead j = true → cellsWf s.mem.cells = true → u.reaches j ((s.job j).groupTable + 32 * d.group) 32 →
          d.master + 4 * d.count ≤ wsBytes → d.grad + 4 * d.count ≤ wsBytes → d.m1 + momentSize (bitOf d.forms 0) d.count ≤ wsBytes → d.m2 + momentSize (bitOf d.forms 0) d.count ≤ wsBytes →
          let x := updates j false d fun a n => s.mem.read (at_ a) n
          (∀ y ∈ written d x.2, y.1 + y.2.length ≤ wsBytes) →
          ∃ m, exec (.optupd t off) s = .next (s.keep (((u.withCells m).noteUpdate t d x.1 x.2).signalLine t k d.signal d.line)) ∧
            ∀ key, cellGet m key = laidByte s.mem.cells ((written d x.2).map fun y => (at_ y.1, y.2)) key)) ∧
      (12 ≤ stack → exec (.update t stack off) s = .next s) ∧
      (stack < 12 → 64 ≤ (s.hbm.getD stack {}).queue.length → exec (.update t stack off) s = .next (s.keep (s.hold (.task t) (.update t stack off)))) ∧
      (stack < 12 → (s.hbm.getD stack {}).queue.length < 64 →
        ((s.job j).updateBad stack (OptDesc.ofUpdate bytes) = true → exec (.update t stack off) s = .next (s.keep (u.faultStop j 0x0102 true))) ∧
        ((s.job j).updateBad stack (OptDesc.ofUpdate bytes) = false → exec (.update t stack off) s = .next (s.keep { u with
          hbm := u.hbm.modify stack fun h => { h with queue := h.queue ++ [{ task := t, desc := bytes, prov := k.prov }] } })))) ∧
    (((s.hbm.getD stack {}).queue.find? fun q => (s.job q.task.job).live) = none → exec (.updateDescriptorRun stack) s = .next s) ∧
    ∀ q, ((s.hbm.getD stack {}).queue.find? fun q => (s.job q.task.job).live) = some q →
      let d := OptDesc.ofUpdate q.desc
      let j := q.task.job
      let io : UpdateIO := { rd := fun s a n => s.readDev j q.prov a n, wr := fun s a b => s.writeDev j q.prov a b }
      (∀ b w, s.runUpdate io q.task q.prov d = .ok b w → exec (.updateDescriptorRun stack) s = .next (s.keep (
        if d.signal then ({ w with hbm := w.hbm.modify stack fun h => { h with queue := h.queue.erase q } } : State).pulse j (stack / 3) d.line 1
        else { w with hbm := w.hbm.modify stack fun h => { h with queue := h.queue.erase q } }))) ∧
      (s.runUpdate io q.task q.prov d = .wait → exec (.updateDescriptorRun stack) s = .next (s.keep (s.hold .other (.updateDescriptorRun stack)))) ∧
      (∀ e, s.runUpdate io q.task q.prov d = .err e → exec (.updateDescriptorRun stack) s = .next (s.keep (s.faultStop j 0x0301 true))) ∧
      (d.count = 0 → s.runUpdate io q.task q.prov d = .ok [] s) ∧
      (d.count ≠ 0 → q.prov = false → s.plainRead j = true → cellsWf s.mem.cells = true → s.reaches j ((s.job j).groupTable + 32 * d.group) 32 →
        s.reaches j d.master (4 * d.count) → s.reaches j d.grad (4 * d.count) → s.reaches j d.m1 (momentSize (bitOf d.forms 0) d.count) →
        s.reaches j d.m2 (momentSize (bitOf d.forms 0) d.count) →
        let x := updates j false d s.mem.read
        (∀ y ∈ written d x.2, s.reaches j y.1 y.2.length ∧ s.offTable j y.1 y.2.length) →
        ∃ m, s.runUpdate io q.task q.prov d = .ok [] ((s.withCells m).noteUpdate q.task d x.1 x.2) ∧ ∀ key, cellGet m key = laidByte s.mem.cells (written d x.2) key)

/-- The ranges of a list of contributors name exactly the contributors of the list. READY of a member, for the step judged,
is kept with the sender's ranges, those it sent before for the step first, and READY goes to the parent when every child
has reported and no part is missing; for another step it changes nothing. READY_DEADLINE of a module with a parent and
at most 500 ranges, READY of the step not yet sent, sends them, and marks the step sent; else it changes nothing.
INCLUSION for another step than the one judged, or a step whose INCLUDE is known, changes nothing. Else its decisions
are the given ones at a member that is not the coordinator; at the coordinator, without REPLAY, one for each late
contributor by the policy (DROPPED_LATE, DEFERRED or WAIT_EXPIRED), REMOVED for a contributor removed, and one for each
contribution deferred from the step before; with REPLAY those of the list, which stops the job with BAD_PARAM where it
does not parse and with DIVERGED where a late contributor is not named. They go down the tree with the count n, and
where no instance of the step is in progress they are kept as the step's INCLUDE and ledger and nothing else changes. -/
def Obligations.LatenessIsReportedAndDecided : Prop :=
  ∀ (s : State) (p : Nat) (m : Msg) (step : Nat),
    let v := s.takeRx p m
    let d := m.hdr.source
    let is9 := s.arrived p m 0x20 = true ∧ bitsOf m.hdr.address.toNat 56 8 = 9
    let dropped := v.setCount p fun c => { c with ward := sat32 (c.ward + 1) }
    let known := fun (j : Nat) => j < 64 ∧ s.inDeviceSet d = true ∧ (s.job j).knowsMember d = true
    (∀ (l : List Nat) v, v ∈ expandRanges (toRanges l) ↔ v ∈ l) ∧
    (∀ ranges, let i := Instr.ready p m step ranges
      (¬ is9 → exec i s = .next s) ∧ (is9 → ¬ known m.hdr.job → exec i s = .next (s.keep dropped)) ∧
      (is9 → known m.hdr.job → step ≠ (s.job m.hdr.job).train.judged → exec i s = .next (s.keep v)) ∧
      (is9 → known m.hdr.job → step = (s.job m.hdr.job).train.judged → m.hdr.job < s.jobs.length → Completes i s fun t =>
        t.mem = s.mem ∧ t.cores = s.cores ∧ ∃ old sent, (old = [] ∧ (∀ r ∈ (s.job m.hdr.job).strag.reports, ¬ (r.1 = d ∧ r.2.1 = step)) ∨ (d, step, old) ∈ (s.job m.hdr.job).strag.reports) ∧
          (t.job m.hdr.job).strag.reports = ((s.job m.hdr.job).strag.reports.filter fun r => r.1 != d && r.2.1 == step) ++ [(d, step, old ++ ranges)] ∧
          (t.job m.hdr.job).strag = { (s.job m.hdr.job).strag with reports := (t.job m.hdr.job).strag.reports, sentReady := sent } ∧
          (sent = (s.job m.hdr.job).strag.sentReady ∨ (sent = some step ∧ (t.job m.hdr.job).childrenDone s.ident.device step = true ∧
            (s.job m.hdr.job).ownMissing s.ident.device step = [] ∧ (t.job m.hdr.job).childMissing s.ident.device step = [])))) ∧
    ∀ j, let b := s.job j
      (((b.member.bind fun y => y.parent s.ident.device) = none ∨ b.strag.sentReady = some b.train.judged) → exec (.readyDeadline j) s = .next s) ∧
      (∀ x, (b.member.bind fun y => y.parent s.ident.device) = some x → b.strag.sentReady ≠ some b.train.judged →
        let rs := toRanges ((b.ownMissing s.ident.device b.train.judged ++ b.childMissing s.ident.device b.train.judged).dedup)
        rs.length ≤ 500 → exec (.readyDeadline j) s = .next (s.keep
          ((s.control j x 9 ([b.train.judged, rs.length] ++ rs.flatMap fun r => [r.1, r.2])).setStrag j fun y => { y with sentReady := some b.train.judged }))) ∧
      (∀ n given bytes, (64 ≤ j ∨ b.loaded = false ∨ b.state = 7 ∨ step ≠ b.train.judged ∨ (∃ l, b.strag.knows step = some l) → exec (.inclusion j step n given bytes) s = .next s) ∧
        (j < 64 → b.loaded = true → b.state ≠ 7 → step = b.train.judged → b.strag.knows step = none →
          let taken := fun (n : Nat) (ds : List Decision) (u : State) =>
            exec (.inclusion j step n given bytes) s = .next (s.keep ((u.toChildren j 0xA ([step, n, ds.length] ++ ds.flatMap fun x => [x.contributor, x.code, x.origin])).takeInclude j step n ds))
          (s.decides j = false → taken n given s) ∧
          (s.decides j = true → b.replay = false → ∃ n' ds,
            exec (.inclusion j step n given bytes) s = .next (s.keep ((s.toChildren j 0xA ([step, n', ds.length] ++ ds.flatMap fun x => [x.contributor, x.code, x.origin])).takeInclude j step n' ds)) ∧
            n' = b.width - (ds.filter fun x => (x.code == 1 || x.code == 3 || x.code == 8 || x.code == 9) && x.origin == step).length + (ds.filter fun x => x.code == 2).length ∧
            (∀ c, c ∈ b.ownMissing s.ident.device step ∨ c ∈ b.childMissing s.ident.device step → c ∉ b.strag.removed →
              { contributor := c, code := if b.policy = 1 then 1 else if b.policy = 2 then 3 else 8, origin := step } ∈ ds) ∧
            (∀ c ∈ b.strag.removed, { contributor := c, code := 9, origin := step } ∈ ds) ∧
            (∀ x ∈ b.strag.deferred, x.origin + 1 = step → ∃ code, { contributor := x.contributor, code := code, origin := x.origin } ∈ ds ∧
              (x.contributor ∈ b.strag.removed → code = 9) ∧
              (x.contributor ∉ b.strag.removed → b.strag.nonFinite.contains (x.origin, x.contributor) = true → code = 4))) ∧
          (s.decides j = true → b.replay = true → replayStep bytes (fieldN (b.block 2) 0x10 8 - b.strag.replayPos) b.width step = none →
            exec (.inclusion j step n given bytes) s = .next (s.keep (s.faultStop j 0x0102 true))) ∧
          (s.decides j = true → b.replay = true → ∀ ds k, replayStep bytes (fieldN (b.block 2) 0x10 8 - b.strag.replayPos) b.width step = some (ds, k) →
            let u := s.setStrag j fun x => { x with replayPos := x.replayPos + k }
            let late := fun (c : Nat) => c ∈ b.ownMissing s.ident.device step ∨ c ∈ b.childMissing s.ident.device step
            let named := fun (c : Nat) => ∃ x ∈ ds, x.contributor = c ∧ excludes x.code = true ∧ x.origin = step
            ((∃ c, late c ∧ c ∉ b.strag.removed ∧ ¬ named c) → exec (.inclusion j step n given bytes) s = .next (s.keep (u.faultStop j 0x0302 true))) ∧
            ((∀ c, late c → c ∉ b.strag.removed → named c) → taken (includedBy b.width step ds) ds u)))) ∧
      (∀ n ds, (∀ c ∈ b.colls, ∀ i ∈ c.active, i.step ≠ step) → j < s.jobs.length → s.takeInclude j step n ds = s.setStrag j fun x => { x with included := some (step, n, ds), ledger := ds })

/-- VERDICT for another step than the one judged, or of a job that is not loaded, FAULTED or LAYOUT_LOST, changes nothing;
before the epoch of the step is open, or while the job neither runs nor stops, it waits. Where the module decides, its
code is 1, 2, 3 or 4 as R160 says from the flags of the included contributors and from n and the quorum count; elsewhere
it is the one that came. Where fingerprints differ and no repeat has come they are counted, and after a repeat that
differs too the job diverges; where the repeat agrees the verdict is applied, with a transient test failure where the
slot is held. Where nothing differs, for a job without collectives, held accesses, stops, loans and drains in progress:
on COMMIT the owner of every dirty page flips, no page stays dirty and no line tagged, no byte of memory changes when no
group changes its form, the update count rises by one, the step is the last committed one and the epoch resolved; on
SKIP no owner changes, nothing stays dirty or tagged, memory holds zeros in the tagged lines and every other byte as
before, counts and committed step stay, and every provisional task starts at its skip entry. No task is provisional
afterwards, the step register is kept, and the loss exponents and the clean count follow R162. -/
def Obligations.VerdictsCommitOrSkipTheStep : Prop :=
  ∀ (s : State) (j : Nat) (v : VerdictMsg),
    let b := s.job j
    let x := b.train
    let i := Instr.verdict j v
    let w := s.combined j v
    let applies := j < 64 ∧ b.loaded = true ∧ v.step = x.judged ∧ b.state ≠ 7 ∧ b.state ≠ 8
    let bad := ∃ c, (c ∈ v.nonFinite ∨ (v.step, c) ∈ b.strag.nonFinite) ∧ b.includes v.step c = true
    let short := b.includedCount v.step < b.quorum
    let begun := x.openEpoch = some v.step ∨ x.noSpecAt = some v.step
    (¬ applies → exec i s = .next s) ∧
    (applies → ¬ begun ∨ (b.state ≠ 3 ∧ b.state ≠ 4) → exec i s = .next (s.keep (if s.waiting.contains (.other, i) then s else s.hold .other i))) ∧
    (s.decides j = false → w = v) ∧
    (s.decides j = true → w.step = v.step ∧ (¬ bad → ¬ short → w.code = 1) ∧ (bad → ¬ short → w.code = 2) ∧ (¬ bad → short → w.code = 3) ∧ (bad → short → w.code = 4)) ∧
    (applies → begun → b.state = 3 ∨ b.state = 4 →
      (∀ n, s.printCase j w = .wait n → exec i s = .next (s.keep (s.setHealth fun h => { h with fingerprint := sat16 (h.fingerprint + n) }))) ∧
      (∀ classes slots, s.printCase j w = .diverged classes slots → exec i s = .next (s.keep ((s.toChildren j 0xB (verdictBody w)).diverge j w.step classes slots))) ∧
      (∀ slots, s.printCase j w = .hashing slots → let u := s.toChildren j 0xB (verdictBody w)
        exec i s = .next (s.keep ((if (b.ownSlots.any fun n => slots.contains n) = true then u.testTransient else u).applyVerdict j w))) ∧
      (s.printCase j w = .agree → j < s.jobs.length → b.colls = [] → x.heldMsgs = [] → b.stopper = none → b.vecLoan = none →
        (∀ y, b.member = some y → y.drains = []) →
        (w.code = 1 → Completes i s fun t => let z := (t.job j).train
          (∀ p, p ∈ z.owner ↔ (p ∈ x.owner ∧ p ∉ x.dirty) ∨ (p ∈ x.dirty ∧ p ∉ x.owner)) ∧ z.dirty = [] ∧ z.tagged = [] ∧ (x.paths = [] → t.mem = s.mem) ∧
          z.openEpoch = none ∧ z.noSpecAt = none ∧ z.updates = x.updates + 1 ∧ z.committed = some w.step ∧ z.resolved = some (w.step, true) ∧ z.judged = w.step + 1 ∧ z.step = x.step ∧
          z.loss = x.lossNext ∧ (x.clean + 1 < b.cleanLimit → z.lossNext = x.lossNext ∧ z.clean = x.clean + 1 ∧ z.raise = false) ∧
          (b.cleanLimit ≤ x.clean + 1 → z.lossNext = max (-64) (min 64 (x.lossNext + b.up)) ∧ z.clean = 0 ∧ z.raise = true) ∧
          (t.job j).state = b.state ∧ ∀ k ∈ (t.job j).tasks, k.prov = false ∧ k.atEpoch = false ∧ k.block ≠ some .verdict) ∧
        (w.code ≠ 1 → cellsWf s.mem.cells = true → Completes i s fun t => let z := (t.job j).train
          z.owner = x.owner ∧ z.dirty = [] ∧ z.tagged = [] ∧ (∀ key, cellGet t.mem.cells key = if key / 64 ∈ x.tagged then 0 else cellGet s.mem.cells key) ∧
          z.openEpoch = none ∧ z.noSpecAt = none ∧ z.updates = x.updates ∧ z.committed = x.committed ∧ z.resolved = some (w.step, false) ∧ z.judged = w.step + 1 ∧ z.step = x.step ∧
          (w.code = 3 → z.loss = x.lossNext ∧ z.lossNext = x.lossNext ∧ z.clean = x.clean) ∧
          (w.code = 2 ∨ w.code = 4 → z.loss = max (-64) (min 64 (x.loss - b.down)) ∧ z.lossNext = z.loss ∧ z.clean = 0) ∧
          (t.job j).state = b.state ∧ (∀ k ∈ (t.job j).tasks, k.prov = false ∧ k.atEpoch = false ∧ k.block ≠ some .verdict) ∧
          ∀ (n : Nat) k, b.tasks[n]? = some k → k.prov = true → ∃ k', (t.job j).tasks[n]? = some k' ∧ k'.resume = some k.skipEntry)))

/-- A channel that is absent, not running or whose device sleeps does nothing, nor does a row for another opcode than the
one fetched. A misaligned PC, and a fetched instruction that is reserved, halt the channel with INSTRUCTION at its PC; a
fetch that waits is held and one that fails halts the channel with its cause. A PC in plain HBM that the job reaches
fetches the 32 bytes of memory. END makes the channel idle. LOOP deeper than four or across the enclosing body's end
halts it; of an empty body or no iterations it goes on after the body, else it opens the loop. WAIT of zero goes on; of
more, on a line without waiters that has enough pulses it takes them and goes on, else the channel waits at the end of
the line's order. SIGNAL waits for the channel's own writes, then goes on and pulses its line. An empty MOVE goes on. A
RAW MOVE whose two sides lie in plain HBM that the job reaches, do not overlap and hold no byte of the group table
leaves the bytes of every source run at its destination run, in run order, every other byte as before, and goes on. -/
def Obligations.ChannelProgramsRunTheirInstructions : Prop :=
  ∀ (s : State) (r : ChanRef),
    let rows : List (Nat × Instr) := [(0, .dmaEnd r), (1, .move r), (2, .loop r), (3, .wait r), (4, .signal r)]
    let same := ∀ x ∈ rows, exec x.2 s = .next s
    (s.chan r = none → same) ∧
    ∀ c, s.chan r = some c →
      (c.state ≠ 1 ∨ s.asleep = true ∨ s.chanIdle r.job c = true → same) ∧
      (c.state = 1 → s.asleep = false → s.chanIdle r.job c = false →
        (c.pc % 32 ≠ 0 → ∀ x ∈ rows, exec x.2 s = .next (s.keep (s.haltChan r 7 false c.pc))) ∧
        (c.pc % 32 = 0 → c.prov = false → s.plainRead r.job = true → s.reaches r.job c.pc 32 → s.fetch r c = .ok (s.mem.read c.pc 32) s) ∧
        (s.fetch r c = .wait → ∀ x ∈ rows, exec x.2 s = .next (s.keep (s.hold .other x.2))) ∧
        (∀ e, s.fetch r c = .err e → ∀ x ∈ rows, exec x.2 s = .next (s.keep (s.haltChan r e false c.pc))) ∧
        ∀ b, s.fetch r c = .ok b s →
          let op := fieldN b 0 1
          let pc := c.pc
          let on := fun (a : Nat) => s.setChan r fun x => let q := loopBack x.loops a; { x with loops := q.1, pc := q.2, issued := false, remote := [], wrote := false }
          (∀ x ∈ rows, op ≤ 4 → op ≠ x.1 → exec x.2 s = .next s) ∧
          (∀ x ∈ rows, ¬ (op ≤ 4 ∧ op ≠ x.1) → dmaBad b = true → exec x.2 s = .next (s.keep (s.haltChan r 7 false pc))) ∧
          (dmaBad b = false →
            (op = 0 → exec (.dmaEnd r) s = .next (s.keep (s.setChan r fun x => { x with state := 0, loops := [] }))) ∧
            (op = 2 → let stop := pc + 32 + 32 * fieldN b 2 2
              let deep := 4 ≤ c.loops.length ∨ ∃ l, c.loops.head? = some l ∧ l.stop < stop
              (deep → exec (.loop r) s = .next (s.keep (s.haltChan r 7 false pc))) ∧
              (¬ deep → fieldN b 2 2 = 0 ∨ fieldN b 4 4 = 0 → exec (.loop r) s = .next (s.keep (on stop))) ∧
              (¬ deep → fieldN b 2 2 ≠ 0 → fieldN b 4 4 ≠ 0 → exec (.loop r) s = .next (s.keep (s.setChan r fun x => { x with pc := pc + 32, loops :=
                { start := pc + 32, stop := stop, index := 0, count := fieldN b 4 4, src := signedOf (fieldN b 8 8) 64, dst := signedOf (fieldN b 0x10 8) 64 } :: x.loops })))) ∧
            (op = 3 → let n := fieldN b 4 2
              (n = 0 → exec (.wait r) s = .next (s.keep (s.setChan r Chan.advance))) ∧
              (n ≠ 0 → ∀ l, let d := (s.job r.job).chanDie c
                (s.job r.job).line d (fieldN b 2 1) = some l → d < s.dies.length → l < (s.die d).lines.length → r.job < s.jobs.length →
                let e : EventLine := (s.die d).lines.getD l {}
                let me : Waiter := { agent := .chan r, count := n }
                (e.waiters = [] → n ≤ e.count → Completes (.wait r) s fun t => t.chan r = some c.advance ∧ (t.die d).lines.getD l {} = { count := e.count - n, waiters := [] } ∧
                  t.mem = s.mem ∧ t.cores = s.cores) ∧
                (((e.waiters ++ [me]).head?.any fun (w : Waiter) => decide (e.count < w.count)) = true → Completes (.wait r) s fun t =>
                  t.chan r = some { c with state := 2 } ∧ (t.die d).lines.getD l {} = { e with waiters := e.waiters ++ [me] } ∧ t.mem = s.mem ∧ t.cores = s.cores))) ∧
            (op = 4 → (0 < c.writes → exec (.signal r) s = .next (s.keep (s.hold .other (.signal r)))) ∧
              (c.writes = 0 → exec (.signal r) s = .next (s.keep ((s.setChan r Chan.advance).pulse r.job
                (if fieldN b 3 1 = 0 then (s.job r.job).chanDie c else fieldN b 3 1 - 4) (fieldN b 2 1) (fieldN b 4 2))))) ∧
            (op = 1 → let w := MoveWord.ofNat (leNat b)
              let p : MovePlan := { w := w, src := (w.src : Int) + c.offsets.1, dst := (w.dst : Int) + c.offsets.2, fs := .raw, fd := .raw, conv := none }
              let runs := w.count1 * w.count2 * w.count3
              let step := fun (i : Nat) => ((i / w.count1 / w.count2 : Nat) : Int) * w.stride3 + ((i / w.count1 % w.count2 : Nat) : Int) * w.stride2 + ((i % w.count1 : Nat) : Int) * w.stride1
              let src := fun (i : Nat) => p.src + if w.strideDst then ((i * w.length : Nat) : Int) else step i
              let dst := fun (i : Nat) => p.dst + if w.strideDst then step i else ((i * w.length : Nat) : Int)
              (w.length = 0 ∨ runs = 0 → exec (.move r) s = .next (s.keep (s.setChan r Chan.advance))) ∧
              (w.length ≠ 0 → runs ≠ 0 → w.conv = 0 → p.overlaps = false → c.prov = false → c.writes = 0 → c.reads = 0 → c.wrote = false → s.plainRead r.job = true →
                cellsWf s.mem.cells = true → r.job < s.jobs.length →
                (∀ i < runs, 0 ≤ src i ∧ 0 ≤ dst i ∧ s.reaches r.job (src i).toNat w.length ∧ s.reaches r.job (dst i).toNat w.length ∧ s.offTable r.job (dst i).toNat w.length) →
                ∃ m, exec (.move r) s = .next (s.keep ((s.withCells m).setChan r Chan.advance)) ∧
                  ∀ key, cellGet m key = laidByte s.mem.cells ((List.range runs).map fun i => ((dst i).toNat, s.mem.read (src i).toNat w.length)) key))))

/-- HBM_SCRUB from a stack's scrub position, its die in service, leaves every byte, every uncorrectable word and every word
outside the stretch as it was, no correctable error inside, and the position after the stretch; else it changes nothing.
HINGE_PREPARE that passes its checks, the inactive slot EMPTY, makes it BUILDING with the generation and leaves the
command order. HINGE_COPY_DONE without a copy, or while the source's epoch is open, changes nothing; of an HBM source
with an uncorrectable word it ends as an abort; else the slot's regions hold the image and zeros after it, every other
byte as before, the slot is READY with its fingerprint, and the prepare is answered OK with it. HINGE_COPY_FAIL of a
copy empties the slot, logs HINGE_ABORT and answers the prepare with the failure's status. HINGE_ABANDON of a BUILDING
or READY slot empties it, ends a copy with ABORTED_BY_RESET and is answered OK. HINGE_SWITCH to the READY generation,
every other member's report in and ready, records the switch at the highest batch step plus 2 and sends it over the job
tree; before that it stands as it was read. -/
def Obligations.ScrubbingAndTheHingeKeepGenerations : Prop :=
  ∀ (s : State),
    (∀ stack word count found, let i := Instr.hbmScrub stack word count found
      let base := 2 ^ 33 * stack + word
      (12 ≤ stack ∨ (s.die (stack / 3)).domain ≠ 0 ∨ s.power.input = false ∨ (s.hbm.getD stack {}).scrub ≠ word ∨ count = 0 ∨ 2 ^ 33 < word + count → exec i s = .next s) ∧
      (stack < 12 → stack < s.hbm.length → (s.die (stack / 3)).domain = 0 → s.power.input = true → (s.hbm.getD stack {}).scrub = word → count ≠ 0 → word + count ≤ 2 ^ 33 →
        Completes i s fun t => t.mem.cells = s.mem.cells ∧ t.cores = s.cores ∧ (t.hbm.getD stack {}).scrub = (word + count) % 2 ^ 33 ∧
          (∀ e ∈ t.mem.ecc, e.2 = false → e ∈ s.mem.ecc ∧ ¬ (base ≤ e.1 ∧ e.1 < base + count)) ∧ (∀ e ∈ s.mem.ecc, e.2 = true ∨ ¬ (base ≤ e.1 ∧ e.1 < base + count) → e ∈ t.mem.ecc))) ∧
    (∀ r c h, let b := s.job c.job
      let u := s.begin r
      let other := h.slot h.other
      b.hinge = some h → h.switch = none → (
      (s.mayBegin r c 0x0201 = true → jobAccepts b.state 0x0201 = .yes → h.maxTag < c.p 0 4 → c.p 4 1 ≤ 2 → c.p 5 1 = 0 → (c.p 6 2 ≠ 0 → c.p 4 1 = 1 ∧ c.p 6 2 ≤ 64) →
        u.hingeSourceOk c.job (c.p 4 1) (if c.p 6 2 = 0 then c.job else c.p 6 2 - 1) (c.p 8 8) (c.p 0x10 8) = true → c.p 0x10 8 ≤ h.slotBytes →
        (∀ n, 0x18 ≤ n → c.params.getD n 0 = 0) → other.state = 0 → exec (.hingePrepare r) s = .next (s.keep
          ((u.setHinge c.job fun x => { (x.setSlot x.other { state := 1, generation := c.p 0 4 }) with maxTag := c.p 0 4, copy := some { cmd := r, source := c.p 8 8, length := c.p 0x10 8, kind := c.p 4 1, owner := if c.p 6 2 = 0 then c.job else c.p 6 2 - 1 } }).setHost
            fun x => { x with order := x.order.filter fun y => !(y == r) }))) ∧
      (s.mayBegin r c 0x0203 = true → jobAccepts b.state 0x0203 = .yes → (∀ n, c.params.getD n 0 = 0) →
        (other.state = 2 → h.copy = none → exec (.hingeAbandon r) s = .next (s.keep ((u.setHinge c.job fun x => x.setSlot x.other {}).reply r 0 0 0))) ∧
        (other.state = 1 → ∀ x, h.copy = some x → exec (.hingeAbandon r) s = .next (s.keep
          (((((u.setHinge c.job fun y => { (y.setSlot y.other {}) with copy := none }).log 0x0206 3 devDomain c.job other.generation 0x0203 0).reply x.cmd 0x0203 0 0).setHinge c.job
            fun y => y.setSlot y.other {}).reply r 0 0 0)))) ∧
      (∀ reports, s.mayBegin r c 0x0202 = true → jobAccepts b.state 0x0202 = .yes → c.p 0 4 ≠ 0 → c.p 4 1 ≤ 1 → c.p 5 3 = 0 → (∀ n, 8 ≤ n → c.params.getD n 0 = 0) →
        other.state = 2 → other.generation = c.p 0 4 →
        let theirs := reports.filter fun (x : HingeReport) => (u.others c.job).contains x.device
        (∀ x ∈ theirs, x.ready = true) →
        ((∀ d ∈ u.others c.job, ∃ x ∈ theirs, x.device = d) →
          let target := theirs.foldl (fun n x => max n x.batchStep) b.serving.batchStep + 2
          exec (.hingeSwitch r reports) s = .next (s.keep ((u.setHinge c.job fun x => { x with switch := some (c.p 0 4, bitOf (c.p 4 1) 0, target, some r) }).toTree c.job 0x0C
            [c.p 0 4, target, if bitOf (c.p 4 1) 0 then 1 else 0] none))) ∧
        ((∃ d ∈ u.others c.job, ∀ x ∈ theirs, x.device ≠ d) → exec (.hingeSwitch r reports) s = .next (s.keep (u.unbegin r)))))) ∧
    ∀ j image cause, let b := s.job j
      ((b.hinge.bind fun h => h.copy) = none → exec (.hingeCopyDone j image) s = .next s ∧ exec (.hingeCopyFail j cause) s = .next s) ∧
      ∀ h x, b.hinge = some h → h.copy = some x →
        let aborted := fun (st : Nat) => ((s.setHinge j fun y => { (y.setSlot y.other {}) with copy := none }).log 0x0206 3 devDomain j (h.slot h.other).generation st 0).reply x.cmd st 0 0
        exec (.hingeCopyFail j cause) s = .next (s.keep (aborted (if cause = 0 then 0x0201 else if cause = 3 then 0x0301 else if cause = 4 then 0x0202 else 0x0501))) ∧
        (x.kind = 1 → (s.job x.owner).train.openEpoch.isSome = true → (s.job x.owner).inEpoch x.source = true → exec (.hingeCopyDone j image) s = .next s) ∧
        (s.hingeWaits x = false →
          (x.kind = 1 → s.mem.bad x.source x.length = true → exec (.hingeCopyDone j image) s = .next (s.keep (aborted 0x0301))) ∧
          (¬ (x.kind = 1 ∧ s.mem.bad x.source x.length = true) → cellsWf s.mem.cells = true → j < s.jobs.length →
            let data := if x.kind = 1 then s.committedBytes x.owner x.source x.length else sliceZ image 0 x.length
            let whole := data.take h.slotBytes ++ List.replicate (h.slotBytes - (data.take h.slotBytes).length) 0
            let parts := (b.slotRegions h.other).foldl (fun (acc : List (Nat × Bytes) × Bytes) g =>
              (acc.1 ++ [(g.addr, acc.2.take (g.decl.blocks * blockBytes))], acc.2.drop (g.decl.blocks * blockBytes))) ([], whole)
            ∃ u : State, exec (.hingeCopyDone j image) s = .next (s.keep (u.reply x.cmd 0 0 (fingerprintBytes whole).toNat)) ∧ u.cores = s.cores ∧
              (∀ key, cellGet u.mem.cells key = laidByte s.mem.cells parts.1 key) ∧
              (u.job j).hinge = some { (h.setSlot h.other { h.slot h.other with state := 2, fingerprint := fingerprintBytes whole }) with copy := none }))

/-- For a command of the row that may begin with good parameters, in a context of the device. JOB_LOAD of a binary that
passes every check into an EMPTY context, when the resources are there, leaves the job STOPPED with its grants, bindings
and tasks on their home cores and replies with its layout; bytes outside its workspace, grants, slots and images stay; a
shortage replies NO_FIT with the resource word and loads nothing. JOB_START of a STOPPED job fixes chunk length and
seed, and starts at its first start every die channel with a program. JOB_STOP of a STOPPED or FAULTED job changes
nothing; of a RUNNING one without an open epoch it saves the die channels, takes the job off every core and answers its
waiters; with one it leaves the job STOPPING until the verdict. JOB_UNLOAD empties the context and returns borrowed
cores. A job in no state for the command refuses with BAD_STATE and its code. Memory and other jobs' registers stay. -/
def Obligations.JobsLoadStartStopAndUnload : Prop :=
  ∀ (s : State) (r : CmdRef) (c : Cmd) (x : Binary),
    let j := c.job
    let u := s.begin r
    let b := s.job j
    j < s.jobs.length →
    let zeros := ∀ n, c.params.getD n 0 = 0
    let off := fun (t : State) => ∀ core, ∀ k, (t.core core).running = some k → k.job ≠ j
    let dieChans := fun (l : List Chan) => l.filter fun y => y.decl.die
    let others := fun (t : State) => ∀ i, i ≠ j → ∃ ts cs, t.job i = { s.job i with tasks := ts, chans := cs }
    (s.mayBegin r c 0x0101 = true → s.farOk (c.p 0 8) (c.p 8 8) = true → c.p 8 8 ≠ 0 → c.p 0x10 1 ≤ 1 → c.p 0x11 7 = 0 → c.p 0x34 12 = 0 →
      0x40 + 24 * c.p 0x30 4 ≤ c.params.length → (∀ n, 0x40 + 24 * c.p 0x30 4 ≤ n → c.params.getD n 0 = 0) → (∀ y ∈ u.bindChecks c, y.1 = false) →
      let cores := u.homeCores (c.p 0x18 24)
      let held := match u.placeTasks x cores x.tasks [] with
        | .ok hs => hs
        | .error _ => x.collectives.map (·.reducingCore)
      (∀ y ∈ binaryChecks x s.ident.device (x.detStrict || s.keeper.detEnforced) held, y.1 = false) →
      let far := (c.bindings.filter fun y => y.kind == 2).foldl (fun n y => n + y.size) 0
      (b.state ≠ 0 → exec (.jobLoad r x) s = .next (s.keep (u.reply r 0x0104 (b.state % 256) 0))) ∧
      (b.state = 0 →
        (∀ d, u.shortfall x cores far = .error d → exec (.jobLoad r x) s = .next (s.keep (u.reply r 0x0105 d 0))) ∧
        ∀ p, u.shortfall x cores far = .ok p →
          let g := u.loadedJob x (c.p 0x10 1 == 1) (c.p 0x18 24) (c.bindings.filter fun y => y.size != 0) p
          (∀ t ∈ x.tasks, ∀ y ∈ t.updates, g.updateBad y.1 (OptDesc.ofUpdate y.2) = false) → cellsWf s.mem.cells = true →
          Completes (.jobLoad r x) s fun t => t.job j = g ∧ g.state = 2 ∧ g.bin = some x ∧ g.grants = p.grants ∧ g.layout = x.layout ∧
            g.bestEffort = (c.p 0x10 1 == 1) ∧ (∀ k ∈ g.tasks, k.decl ∈ x.tasks ∧ k.home ∈ p.homes ∧ k.core = k.home ∧ k.block = none) ∧
            (∀ i, i ≠ j → t.job i = s.job i) ∧ t.cores = s.cores ∧
            ∀ key, ¬ (2 ^ 52 * (j + 1) ≤ key ∧ key < 2 ^ 52 * (j + 1) + 2 ^ 52) →
              (∀ y ∈ p.grants, ¬ (y.addr ≤ key ∧ key < y.addr + y.decl.blocks * blockBytes) ∧
                ¬ (y.addr + halfShift ≤ key ∧ key < y.addr + halfShift + y.decl.blocks * blockBytes) ∧ ∀ z ∈ y.decl.image, key ≠ y.addr + z.1) →
              (∀ y ∈ g.tasks, ¬ (y.slotAddr ≤ key ∧ key < y.slotAddr + y.slotBlocks * blockBytes) ∧
                ¬ (y.slotAddr + halfShift ≤ key ∧ key < y.slotAddr + halfShift + y.slotBlocks * blockBytes) ∧
                (∀ z ∈ y.decl.image, key ≠ wsKey j y.home 0 + z.1) ∧ ∀ z ∈ y.decl.relocs, ¬ (wsKey j y.home z.off ≤ key ∧ key < wsKey j y.home z.off + 8)) →
              cellGet t.mem.cells key = cellGet s.mem.cells key)) ∧
    (s.mayBegin r c 0x0104 = true → zeros →
      (b.state ≠ 2 → exec (.jobStart r) s = .next (s.keep (u.reply r 0x0104 (b.state % 256) 0))) ∧
      (b.state = 2 → Completes (.jobStart r) s fun t => t.mem = s.mem ∧ others t ∧ ∃ ts cs, t.job j =
        { b with state := 3, started := true, chunk := if b.classF then 32 else if s.power.rows = 2 then 128 else if s.power.rows = 1 then 32 else 64, seed := fieldN (b.block 3) 0 8, faultStatus := 0, train := { b.train with fresh := false }, tasks := ts, chans := cs } ∧ ts.length = b.tasks.length ∧
        cs.length = b.chans.length ∧ dieChans cs = if b.started then (dieChans b.chans).map fun y => if y.state = 4 then { y with state := y.savedState } else y
          else (dieChans b.chans).map fun y => match y.decl.entry with
            | some a => { y with pc := b.placeAddr y.home a, skip := y.decl.skip, loops := [], savedState := 1, state := 1 }
            | none => y)) ∧
    (s.mayBegin r c 0x0105 = true → zeros →
      (b.state = 2 ∨ b.state = 7 → exec (.jobStop r) s = .next (s.keep (u.reply r 0 0 0))) ∧
      (b.state = 3 → b.train.openEpoch.isSome = true → Completes (.jobStop r) s fun t => t.mem = s.mem ∧ t.cores = s.cores ∧
        t.job j = { b with state := 4, waits := [], stopper := some { cmd := r, cast := false } } ∧ ∀ i, i ≠ j → t.job i = s.job i) ∧
      (b.state = 3 → b.train.openEpoch = none → Completes (.jobStop r) s fun t => t.mem = s.mem ∧ others t ∧ off t ∧ ∃ ts cs,
        t.job j = { b with state := 2, waits := [], stopper := none, faultStatus := 0, tasks := ts, chans := cs } ∧ ts.length = b.tasks.length ∧
        cs.length = b.chans.length ∧ dieChans cs = (dieChans b.chans).map fun y => if y.state = 1 ∨ y.state = 2 then { y with state := 4, savedState := y.state } else y) ∧
      (b.state = 0 ∨ b.state = 8 → exec (.jobStop r) s = .next (s.keep (u.reply r 0x0104 b.state 0)))) ∧
    (s.mayBegin r c 0x0102 = true → zeros →
      (b.state = 0 ∨ b.state = 3 → exec (.jobUnload r) s = .next (s.keep (u.reply r 0x0104 b.state 0))) ∧
      (b.state = 2 ∨ b.state = 7 ∨ b.state = 8 →
        (b.lent ≠ [] → exec (.jobUnload r) s = .next (s.keep (u.reply r 0x0104 b.state 0))) ∧
        (b.lent = [] → Completes (.jobUnload r) s fun t => t.mem = s.mem ∧ t.job j = {} ∧ off t ∧
          ∀ i, i ≠ j → ∃ ts cs, t.job i = { s.job i with tasks := ts, chans := cs, lent := (s.job i).lent.filter fun y =>
            !(b.borrowed.any fun z => z.2 == i && (y.1 == z.1 && y.2.2 == j)) })))
end

