-- ==== Sys2Proof/Laws/Mem.lean ====
section
/-! SUPPORT. The byte store: every operation keeps its canonical form, and what a read finds after each operation. -/

namespace Sys2Proof.Machine

/-! ## The canonical form -/

theorem cellsWfFrom_mono {lo lo' : Nat} {m : Cells} (h : cellsWfFrom lo m = true) (hl : lo' ≤ lo) : cellsWfFrom lo' m = true := by
  cases m with
  | nil => rfl
  | cons c r =>
    obtain ⟨k, v⟩ := c
    simp only [cellsWfFrom, Bool.and_eq_true, decide_eq_true_eq] at h ⊢
    exact ⟨⟨by omega, h.1.2⟩, h.2⟩

/-- In a canonical store no key lies below the bound. -/
theorem cellsWfFrom_le {lo : Nat} {m : Cells} (h : cellsWfFrom lo m = true) : ∀ c ∈ m, lo ≤ c.1 := by
  induction m generalizing lo with
  | nil => simp
  | cons c r ih =>
    obtain ⟨k, v⟩ := c
    simp only [cellsWfFrom, Bool.and_eq_true, decide_eq_true_eq] at h
    intro x hx
    rcases List.mem_cons.mp hx with rfl | hx
    · exact h.1.1
    · have := ih h.2 x hx; omega

/-- Two canonical stores with every key of the first below every key of the second make one canonical store. -/
theorem cellsWfFrom_append {lo a : Nat} {p q : Cells} (hp : cellsWfFrom lo p = true) (hq : cellsWfFrom a q = true) (hla : lo ≤ a)
    (hb : ∀ c ∈ p, c.1 < a) : cellsWfFrom lo (p ++ q) = true := by
  induction p generalizing lo with
  | nil => exact cellsWfFrom_mono hq hla
  | cons c r ih =>
    obtain ⟨k, v⟩ := c
    simp only [cellsWfFrom, Bool.and_eq_true, decide_eq_true_eq, List.cons_append] at hp ⊢
    have hk : k < a := hb (k, v) (by simp)
    exact ⟨hp.1, ih hp.2 (by omega) fun c hc => hb c (by simp [hc])⟩

/-- A canonical store with entries taken out is canonical. -/
theorem cellsWfFrom_filter (keepIt : Cell → Bool) {lo : Nat} {m : Cells} (h : cellsWfFrom lo m = true) :
    cellsWfFrom lo (m.filter keepIt) = true := by
  induction m generalizing lo with
  | nil => rfl
  | cons c r ih =>
    obtain ⟨k, v⟩ := c
    simp only [cellsWfFrom, Bool.and_eq_true, decide_eq_true_eq] at h
    by_cases hc : keepIt (k, v) = true
    · simp only [List.filter_cons_of_pos hc, cellsWfFrom, Bool.and_eq_true, decide_eq_true_eq]
      exact ⟨h.1, ih h.2⟩
    · rw [List.filter_cons_of_neg hc]
      exact cellsWfFrom_mono (ih h.2) (by omega)

theorem cellsBelow_wf {lo : Nat} {m : Cells} (a : Nat) (h : cellsWfFrom lo m = true) : cellsWfFrom lo (cellsBelow m a) = true := by
  induction m generalizing lo with
  | nil => rfl
  | cons c r ih =>
    obtain ⟨k, v⟩ := c
    simp only [cellsWfFrom, Bool.and_eq_true, decide_eq_true_eq] at h
    by_cases hk : k < a
    · simp only [cellsBelow, List.takeWhile_cons, hk, decide_true, if_true, cellsWfFrom, Bool.and_eq_true, decide_eq_true_eq]
      exact ⟨h.1, ih h.2⟩
    · simp [cellsBelow, hk, cellsWfFrom]

theorem cellsBelow_lt (m : Cells) (a : Nat) : ∀ c ∈ cellsBelow m a, c.1 < a := by
  intro c hc
  have := List.mem_takeWhile_imp hc
  simpa using this

theorem cellsFrom_wf {lo : Nat} {m : Cells} (a : Nat) (h : cellsWfFrom lo m = true) : cellsWfFrom a (cellsFrom m a) = true := by
  induction m generalizing lo with
  | nil => rfl
  | cons c r ih =>
    obtain ⟨k, v⟩ := c
    simp only [cellsWfFrom, Bool.and_eq_true, decide_eq_true_eq] at h
    by_cases hk : k < a
    · simpa [cellsFrom, List.dropWhile_cons, hk] using ih h.2
    · simp only [cellsFrom, List.dropWhile_cons, hk, decide_false, cellsWfFrom, Bool.and_eq_true, decide_eq_true_eq,
        Bool.false_eq_true, if_false]
      exact ⟨⟨by omega, h.1.2⟩, h.2⟩

theorem cellsOf_wf (a : Nat) (bs : Bytes) : cellsWfFrom a (cellsOf a bs) = true := by
  induction bs generalizing a with
  | nil => rfl
  | cons b bs ih =>
    by_cases hb : b = 0
    · simpa [cellsOf, hb] using cellsWfFrom_mono (ih (a + 1)) (by omega)
    · have hb' : (b != 0) = true := by simpa using hb
      simp only [cellsOf, if_neg hb, cellsWfFrom, hb', ih, Nat.le_refl, decide_true, Bool.and_self]

theorem cellsOf_lt (a : Nat) (bs : Bytes) : ∀ c ∈ cellsOf a bs, c.1 < a + bs.length := by
  induction bs generalizing a with
  | nil => simp [cellsOf]
  | cons b bs ih =>
    intro c hc
    by_cases hb : b = 0
    · simp only [cellsOf, hb, if_true] at hc
      have := ih (a + 1) c hc; simp; omega
    · simp only [cellsOf, hb, if_false, List.mem_cons] at hc
      rcases hc with rfl | hc
      · simp
      · have := ih (a + 1) c hc; simp; omega

/-- Laying bytes keeps the canonical form. -/
theorem cellWrite_wf {m : Cells} (a : Nat) (bs : Bytes) (h : cellsWf m = true) : cellsWf (cellWrite m a bs) = true := by
  unfold cellWrite cellsWf
  have hq : cellsWfFrom a (cellsOf a bs ++ cellsFrom m (a + bs.length)) = true :=
    cellsWfFrom_append (cellsOf_wf a bs) (cellsFrom_wf _ h) (by omega) (cellsOf_lt a bs)
  exact cellsWfFrom_append (cellsBelow_wf a h) hq (by omega) (cellsBelow_lt m a)

/-- Putting one byte keeps the canonical form. -/
theorem cellPut_wfFrom {lo a : Nat} {m : Cells} (b : Byte) (h : cellsWfFrom lo m = true) (hla : lo ≤ a) :
    cellsWfFrom lo (cellPut m a b) = true := by
  have hb' : ¬ b = 0 → (b != 0) = true := fun hb => by simpa using hb
  induction m generalizing lo with
  | nil =>
    by_cases hb : b = 0
    · simp only [cellPut, if_pos hb, cellsWfFrom]
    · simp only [cellPut, if_neg hb, cellsWfFrom, hb' hb, decide_eq_true hla, Bool.and_self]
  | cons c r ih =>
    obtain ⟨k, v⟩ := c
    have h0 := h
    simp only [cellsWfFrom, Bool.and_eq_true, decide_eq_true_eq] at h
    unfold cellPut
    by_cases h1 : a < k
    · by_cases hb : b = 0
      · rw [if_pos h1, if_pos hb]; exact h0
      · rw [if_pos h1, if_neg hb]
        simp only [cellsWfFrom, Bool.and_eq_true, decide_eq_true_eq]
        exact ⟨⟨hla, hb' hb⟩, ⟨⟨by omega, h.1.2⟩, h.2⟩⟩
    · by_cases h2 : a = k
      · by_cases hb : b = 0
        · rw [if_neg h1, if_pos h2, if_pos hb]
          exact cellsWfFrom_mono h.2 (by omega)
        · rw [if_neg h1, if_pos h2, if_neg hb]
          simp only [cellsWfFrom, Bool.and_eq_true, decide_eq_true_eq]
          exact ⟨⟨hla, hb' hb⟩, h2 ▸ h.2⟩
      · rw [if_neg h1, if_neg h2]
        simp only [cellsWfFrom, Bool.and_eq_true, decide_eq_true_eq]
        exact ⟨h.1, ih h.2 (by omega)⟩

theorem cellPut_wf {m : Cells} (a : Nat) (b : Byte) (h : cellsWf m = true) : cellsWf (cellPut m a b) = true :=
  cellPut_wfFrom b h (Nat.zero_le a)

/-- Zeroing keeps the canonical form. -/
theorem cellZero_wf {m : Cells} (lo n : Nat) (h : cellsWf m = true) : cellsWf (cellZero m lo n) = true :=
  cellsWfFrom_filter _ h

theorem cellsMoved_wf {lo : Nat} {m : Cells} (src dst n : Nat) (h : cellsWfFrom lo m = true) :
    cellsWfFrom (if lo < src then dst else lo - src + dst)
      (m.filterMap fun c => if src ≤ c.1 ∧ c.1 < src + n then some (c.1 - src + dst, c.2) else none) = true := by
  induction m generalizing lo with
  | nil => rfl
  | cons c r ih =>
    obtain ⟨k, v⟩ := c
    simp only [cellsWfFrom, Bool.and_eq_true, decide_eq_true_eq] at h
    have hr := ih h.2
    by_cases hk : src ≤ k ∧ k < src + n
    · simp only [List.filterMap_cons, hk, and_self, if_true, cellsWfFrom, Bool.and_eq_true, decide_eq_true_eq]
      refine ⟨⟨?_, h.1.2⟩, cellsWfFrom_mono hr ?_⟩ <;> split <;> omega
    · simp only [List.filterMap_cons, hk, if_false]
      refine cellsWfFrom_mono hr ?_
      split <;> split <;> omega

/-- Copying keeps the canonical form. -/
theorem cellCopy_wf {m : Cells} (src dst n : Nat) (h : cellsWf m = true) : cellsWf (cellCopy m src dst n) = true := by
  unfold cellCopy cellsWf
  have hm := cellsMoved_wf src dst n h
  have hm' : cellsWfFrom dst (m.filterMap fun c => if src ≤ c.1 ∧ c.1 < src + n then some (c.1 - src + dst, c.2) else none) = true :=
    cellsWfFrom_mono hm (by split <;> omega)
  refine cellsWfFrom_append (cellsBelow_wf dst h) (cellsWfFrom_append hm' (cellsFrom_wf _ h) (by omega) ?_) (by omega) (cellsBelow_lt m dst)
  intro c hc
  simp only [List.mem_filterMap] at hc
  obtain ⟨x, -, hx⟩ := hc
  split at hx
  · simp only [Option.some.injEq] at hx; subst hx; simp; omega
  · cases hx

/-! ## Reads -/

theorem cellGet_of_lt {lo k : Nat} {m : Cells} (h : cellsWfFrom lo m = true) (hk : k < lo) : cellGet m k = 0 := by
  cases m with
  | nil => rfl
  | cons c r =>
    obtain ⟨q, v⟩ := c
    simp only [cellsWfFrom, Bool.and_eq_true, decide_eq_true_eq] at h
    have : k < q := by omega
    simp [cellGet, this]

theorem cellGet_of_above {a k : Nat} {m : Cells} (hb : ∀ c ∈ m, c.1 < a) (hk : a ≤ k) : cellGet m k = 0 := by
  induction m with
  | nil => rfl
  | cons c r ih =>
    obtain ⟨q, v⟩ := c
    have hq : q < a := hb (q, v) (by simp)
    have h1 : ¬ k < q := by omega
    have h2 : ¬ k = q := by omega
    simpa [cellGet, h1, h2] using ih fun c hc => hb c (by simp [hc])

/-- A read in two stores laid one above the other. -/
theorem cellGet_append {lo a k : Nat} {p q : Cells} (hp : cellsWfFrom lo p = true) (hq : cellsWfFrom a q = true)
    (hb : ∀ c ∈ p, c.1 < a) : cellGet (p ++ q) k = if k < a then cellGet p k else cellGet q k := by
  induction p generalizing lo with
  | nil =>
    by_cases hk : k < a
    · simp [hk, cellGet, cellGet_of_lt hq hk]
    · simp [hk]
  | cons c r ih =>
    obtain ⟨x, v⟩ := c
    simp only [cellsWfFrom, Bool.and_eq_true, decide_eq_true_eq] at hp
    have hx : x < a := hb (x, v) (by simp)
    have hr := ih hp.2 fun c hc => hb c (by simp [hc])
    simp only [List.cons_append, cellGet, hr]
    by_cases h1 : k < x
    · have : k < a := by omega
      simp [h1, this]
    · by_cases h2 : k = x
      · simp [h2, hx]
      · by_cases h3 : k < a <;> simp [h1, h2, h3]

theorem cellGet_below {lo a k : Nat} {m : Cells} (h : cellsWfFrom lo m = true) (hk : k < a) : cellGet (cellsBelow m a) k = cellGet m k := by
  induction m generalizing lo with
  | nil => rfl
  | cons c r ih =>
    obtain ⟨x, v⟩ := c
    simp only [cellsWfFrom, Bool.and_eq_true, decide_eq_true_eq] at h
    by_cases hx : x < a
    · have := ih h.2
      simp only [cellsBelow] at this ⊢
      simp [hx, cellGet, this]
    · have : k < x := by omega
      simp [cellsBelow, hx, cellGet, this]

theorem cellGet_from {lo a k : Nat} {m : Cells} (h : cellsWfFrom lo m = true) (hk : a ≤ k) : cellGet (cellsFrom m a) k = cellGet m k := by
  induction m generalizing lo with
  | nil => rfl
  | cons c r ih =>
    obtain ⟨x, v⟩ := c
    simp only [cellsWfFrom, Bool.and_eq_true, decide_eq_true_eq] at h
    by_cases hx : x < a
    · have h1 : ¬ k < x := by omega
      have h2 : ¬ k = x := by omega
      have := ih h.2
      simp only [cellsFrom] at this ⊢
      simp [hx, cellGet, h1, h2, this]
    · simp [cellsFrom, hx]

theorem cellGet_cellsOf (a k : Nat) (bs : Bytes) : cellGet (cellsOf a bs) k = if a ≤ k then bs.getD (k - a) 0 else 0 := by
  induction bs generalizing a with
  | nil => simp [cellsOf, cellGet]
  | cons b bs ih =>
    by_cases hb : b = 0
    · simp only [cellsOf, hb, if_true, ih]
      by_cases h1 : a + 1 ≤ k
      · have h2 : a ≤ k := by omega
        have h3 : k - a = (k - (a + 1)) + 1 := by omega
        simp only [h1, h2, h3, if_true, List.getD_cons_succ]
      · by_cases h2 : a ≤ k
        · have h3 : k - a = 0 := by omega
          simp [h1, h2, h3]
        · simp [h1, h2]
    · simp only [cellsOf, hb, if_false, cellGet, ih]
      by_cases h1 : k < a
      · have : ¬ a ≤ k := by omega
        simp [h1, this]
      · by_cases h2 : k = a
        · simp [h2]
        · have h3 : a ≤ k := by omega
          have h4 : a + 1 ≤ k := by omega
          have h5 : k - a = (k - (a + 1)) + 1 := by omega
          simp only [h1, h2, h3, h4, if_true, if_false, h5, List.getD_cons_succ]

/-- A read after laying bytes: the bytes laid where they lie, the store as it was everywhere else. -/
theorem cellGet_cellWrite {m : Cells} (a k : Nat) (bs : Bytes) (h : cellsWf m = true) :
    cellGet (cellWrite m a bs) k = if a ≤ k ∧ k < a + bs.length then bs.getD (k - a) 0 else cellGet m k := by
  have hf := cellsFrom_wf (a + bs.length) h
  have hq : cellsWfFrom a (cellsOf a bs ++ cellsFrom m (a + bs.length)) = true :=
    cellsWfFrom_append (cellsOf_wf a bs) hf (by omega) (cellsOf_lt a bs)
  unfold cellWrite
  rw [cellGet_append (cellsBelow_wf a h) hq (cellsBelow_lt m a), cellGet_append (cellsOf_wf a bs) hf (cellsOf_lt a bs), cellGet_cellsOf]
  by_cases h1 : k < a
  · have : ¬ a ≤ k := by omega
    simp [h1, this, cellGet_below h h1]
  · by_cases h2 : k < a + bs.length
    · have : a ≤ k := by omega
      simp [h1, h2, this]
    · have : a + bs.length ≤ k := by omega
      simp [h1, h2, cellGet_from h this]

/-- A read after putting one byte. -/
theorem cellGet_cellPut {lo : Nat} {m : Cells} (a k : Nat) (b : Byte) (h : cellsWfFrom lo m = true) :
    cellGet (cellPut m a b) k = if k = a then b else cellGet m k := by
  induction m generalizing lo with
  | nil =>
    by_cases hb : b = 0
    · simp [cellPut, hb, cellGet]
    · simp only [cellPut, hb, if_false, cellGet]
      by_cases h1 : k < a
      · have : ¬ k = a := by omega
        simp [h1, this]
      · simp [h1]
  | cons c r ih =>
    obtain ⟨x, v⟩ := c
    simp only [cellsWfFrom, Bool.and_eq_true, decide_eq_true_eq] at h
    have hr := ih h.2
    unfold cellPut
    by_cases h1 : a < x
    · by_cases hb : b = 0
      · simp only [h1, hb, if_true, cellGet]
        by_cases hk : k = a
        · have : k < x := by omega
          simp [hk, h1]
        · simp [hk]
      · simp only [h1, hb, if_true, if_false, cellGet]
        by_cases hk : k < a
        · have h3 : ¬ k = a := by omega
          have h4 : k < x := by omega
          simp [hk, h3, h4]
        · simp [hk]
    · by_cases h2 : a = x
      · subst h2
        have hl : ∀ q, q < a + 1 → cellGet r q = 0 := fun q hq => cellGet_of_lt h.2 hq
        by_cases hb : b = 0
        · simp only [h1, hb, if_true, if_false, cellGet]
          by_cases hk : k < a
          · have : ¬ k = a := by omega
            simp [hk, this, hl k (by omega)]
          · by_cases hk2 : k = a
            · simp [hk2, hl a (by omega)]
            · simp [hk, hk2]
        · simp only [h1, hb, if_true, if_false, cellGet]
          by_cases hk : k < a
          · have : ¬ k = a := by omega
            simp [hk, this]
          · by_cases hk2 : k = a <;> simp [hk, hk2]
      · simp only [h1, h2, if_false, cellGet, hr]
        by_cases h3 : k < x
        · have : ¬ k = a := by omega
          simp [h3, this]
        · by_cases h4 : k = x
          · have : ¬ x = a := fun h => h2 h.symm
            simp [h4, this]
          · simp [h3, h4]

/-! ## Memory -/

@[simp] theorem Memory.write_cells (m : Memory) (a : Nat) (b : Bytes) : (m.write a b).cells = cellWrite m.cells a b := rfl
@[simp] theorem Memory.zero_cells (m : Memory) (a n : Nat) : (m.zero a n).cells = cellZero m.cells a n := rfl
@[simp] theorem Memory.copy_cells (m : Memory) (x y n : Nat) : (m.copy x y n).cells = cellCopy m.cells x y n := rfl
@[simp] theorem Memory.corrected_cells (m : Memory) (a n : Nat) : (m.corrected a n).cells = m.cells := rfl

theorem Memory.write_wf {m : Memory} (a : Nat) (b : Bytes) (h : m.wf = true) : (m.write a b).wf = true := cellWrite_wf a b h
theorem Memory.zero_wf {m : Memory} (a n : Nat) (h : m.wf = true) : (m.zero a n).wf = true := cellZero_wf a n h
theorem Memory.copy_wf {m : Memory} (x y n : Nat) (h : m.wf = true) : (m.copy x y n).wf = true := cellCopy_wf x y n h
theorem Memory.corrected_wf {m : Memory} (a n : Nat) (h : m.wf = true) : (m.corrected a n).wf = true := h

/-- Bytes written read back. -/
theorem Memory.read_write {m : Memory} (a : Nat) (b : Bytes) (h : m.wf = true) : (m.write a b).read a b.length = b := by
  unfold Memory.read cellRead
  apply List.ext_getElem
  · simp
  · intro i h1 h2
    have h3 : i < b.length := h2
    simp [cellGet_cellWrite _ _ _ h, h3]

end Sys2Proof.Machine
end

