-- ==== Sys2Proof/Laws/State.lean ====
section
/-! SUPPORT. What each named update of the state leaves as it was, field by field, and what the part it changes reads
afterwards. -/

namespace Sys2Proof.Machine

variable (s : State)

/-! ## `setJob` -/

@[simp] theorem State.setJob_ident (j : Nat) (f : Job → Job) : (s.setJob j f).ident = s.ident := rfl

@[simp] theorem State.setJob_mem (j : Nat) (f : Job → Job) : (s.setJob j f).mem = s.mem := rfl

@[simp] theorem State.setJob_jobs (j : Nat) (f : Job → Job) : (s.setJob j f).jobs = s.jobs.modify j f := rfl

@[simp] theorem State.setJob_cores (j : Nat) (f : Job → Job) : (s.setJob j f).cores = s.cores := rfl

@[simp] theorem State.setJob_dies (j : Nat) (f : Job → Job) : (s.setJob j f).dies = s.dies := rfl

@[simp] theorem State.setJob_hbm (j : Nat) (f : Job → Job) : (s.setJob j f).hbm = s.hbm := rfl

@[simp] theorem State.setJob_fabric (j : Nat) (f : Job → Job) : (s.setJob j f).fabric = s.fabric := rfl

@[simp] theorem State.setJob_host (j : Nat) (f : Job → Job) : (s.setJob j f).host = s.host := rfl

@[simp] theorem State.setJob_keeper (j : Nat) (f : Job → Job) : (s.setJob j f).keeper = s.keeper := rfl

@[simp] theorem State.setJob_health (j : Nat) (f : Job → Job) : (s.setJob j f).health = s.health := rfl

@[simp] theorem State.setJob_fw (j : Nat) (f : Job → Job) : (s.setJob j f).fw = s.fw := rfl

@[simp] theorem State.setJob_power (j : Nat) (f : Job → Job) : (s.setJob j f).power = s.power := rfl

@[simp] theorem State.setJob_draws (j : Nat) (f : Job → Job) : (s.setJob j f).draws = s.draws := rfl

@[simp] theorem State.setJob_waiting (j : Nat) (f : Job → Job) : (s.setJob j f).waiting = s.waiting := rfl

@[simp] theorem State.setJob_pending (j : Nat) (f : Job → Job) : (s.setJob j f).pending = s.pending := rfl

/-! ## `setTrain` -/

@[simp] theorem State.setTrain_ident (j : Nat) (f : Training → Training) : (s.setTrain j f).ident = s.ident := rfl

@[simp] theorem State.setTrain_mem (j : Nat) (f : Training → Training) : (s.setTrain j f).mem = s.mem := rfl

@[simp] theorem State.setTrain_cores (j : Nat) (f : Training → Training) : (s.setTrain j f).cores = s.cores := rfl

@[simp] theorem State.setTrain_dies (j : Nat) (f : Training → Training) : (s.setTrain j f).dies = s.dies := rfl

@[simp] theorem State.setTrain_hbm (j : Nat) (f : Training → Training) : (s.setTrain j f).hbm = s.hbm := rfl

@[simp] theorem State.setTrain_fabric (j : Nat) (f : Training → Training) : (s.setTrain j f).fabric = s.fabric := rfl

@[simp] theorem State.setTrain_host (j : Nat) (f : Training → Training) : (s.setTrain j f).host = s.host := rfl

@[simp] theorem State.setTrain_keeper (j : Nat) (f : Training → Training) : (s.setTrain j f).keeper = s.keeper := rfl

@[simp] theorem State.setTrain_health (j : Nat) (f : Training → Training) : (s.setTrain j f).health = s.health := rfl

@[simp] theorem State.setTrain_fw (j : Nat) (f : Training → Training) : (s.setTrain j f).fw = s.fw := rfl

@[simp] theorem State.setTrain_power (j : Nat) (f : Training → Training) : (s.setTrain j f).power = s.power := rfl

@[simp] theorem State.setTrain_draws (j : Nat) (f : Training → Training) : (s.setTrain j f).draws = s.draws := rfl

@[simp] theorem State.setTrain_waiting (j : Nat) (f : Training → Training) : (s.setTrain j f).waiting = s.waiting := rfl

@[simp] theorem State.setTrain_pending (j : Nat) (f : Training → Training) : (s.setTrain j f).pending = s.pending := rfl

/-! ## `setStrag` -/

@[simp] theorem State.setStrag_ident (j : Nat) (f : Straggler → Straggler) : (s.setStrag j f).ident = s.ident := rfl

@[simp] theorem State.setStrag_mem (j : Nat) (f : Straggler → Straggler) : (s.setStrag j f).mem = s.mem := rfl

@[simp] theorem State.setStrag_cores (j : Nat) (f : Straggler → Straggler) : (s.setStrag j f).cores = s.cores := rfl

@[simp] theorem State.setStrag_dies (j : Nat) (f : Straggler → Straggler) : (s.setStrag j f).dies = s.dies := rfl

@[simp] theorem State.setStrag_hbm (j : Nat) (f : Straggler → Straggler) : (s.setStrag j f).hbm = s.hbm := rfl

@[simp] theorem State.setStrag_fabric (j : Nat) (f : Straggler → Straggler) : (s.setStrag j f).fabric = s.fabric := rfl

@[simp] theorem State.setStrag_host (j : Nat) (f : Straggler → Straggler) : (s.setStrag j f).host = s.host := rfl

@[simp] theorem State.setStrag_keeper (j : Nat) (f : Straggler → Straggler) : (s.setStrag j f).keeper = s.keeper := rfl

@[simp] theorem State.setStrag_health (j : Nat) (f : Straggler → Straggler) : (s.setStrag j f).health = s.health := rfl

@[simp] theorem State.setStrag_fw (j : Nat) (f : Straggler → Straggler) : (s.setStrag j f).fw = s.fw := rfl

@[simp] theorem State.setStrag_power (j : Nat) (f : Straggler → Straggler) : (s.setStrag j f).power = s.power := rfl

@[simp] theorem State.setStrag_draws (j : Nat) (f : Straggler → Straggler) : (s.setStrag j f).draws = s.draws := rfl

@[simp] theorem State.setStrag_waiting (j : Nat) (f : Straggler → Straggler) : (s.setStrag j f).waiting = s.waiting := rfl

@[simp] theorem State.setStrag_pending (j : Nat) (f : Straggler → Straggler) : (s.setStrag j f).pending = s.pending := rfl

/-! ## `setMember` -/

@[simp] theorem State.setMember_ident (j : Nat) (f : Membership → Membership) : (s.setMember j f).ident = s.ident := rfl

@[simp] theorem State.setMember_mem (j : Nat) (f : Membership → Membership) : (s.setMember j f).mem = s.mem := rfl

@[simp] theorem State.setMember_cores (j : Nat) (f : Membership → Membership) : (s.setMember j f).cores = s.cores := rfl

@[simp] theorem State.setMember_dies (j : Nat) (f : Membership → Membership) : (s.setMember j f).dies = s.dies := rfl

@[simp] theorem State.setMember_hbm (j : Nat) (f : Membership → Membership) : (s.setMember j f).hbm = s.hbm := rfl

@[simp] theorem State.setMember_fabric (j : Nat) (f : Membership → Membership) : (s.setMember j f).fabric = s.fabric := rfl

@[simp] theorem State.setMember_host (j : Nat) (f : Membership → Membership) : (s.setMember j f).host = s.host := rfl

@[simp] theorem State.setMember_keeper (j : Nat) (f : Membership → Membership) : (s.setMember j f).keeper = s.keeper := rfl

@[simp] theorem State.setMember_health (j : Nat) (f : Membership → Membership) : (s.setMember j f).health = s.health := rfl

@[simp] theorem State.setMember_fw (j : Nat) (f : Membership → Membership) : (s.setMember j f).fw = s.fw := rfl

@[simp] theorem State.setMember_power (j : Nat) (f : Membership → Membership) : (s.setMember j f).power = s.power := rfl

@[simp] theorem State.setMember_draws (j : Nat) (f : Membership → Membership) : (s.setMember j f).draws = s.draws := rfl

@[simp] theorem State.setMember_waiting (j : Nat) (f : Membership → Membership) : (s.setMember j f).waiting = s.waiting := rfl

@[simp] theorem State.setMember_pending (j : Nat) (f : Membership → Membership) : (s.setMember j f).pending = s.pending := rfl

/-! ## `setServing` -/

@[simp] theorem State.setServing_ident (j : Nat) (f : Serving → Serving) : (s.setServing j f).ident = s.ident := rfl

@[simp] theorem State.setServing_mem (j : Nat) (f : Serving → Serving) : (s.setServing j f).mem = s.mem := rfl

@[simp] theorem State.setServing_cores (j : Nat) (f : Serving → Serving) : (s.setServing j f).cores = s.cores := rfl

@[simp] theorem State.setServing_dies (j : Nat) (f : Serving → Serving) : (s.setServing j f).dies = s.dies := rfl

@[simp] theorem State.setServing_hbm (j : Nat) (f : Serving → Serving) : (s.setServing j f).hbm = s.hbm := rfl

@[simp] theorem State.setServing_fabric (j : Nat) (f : Serving → Serving) : (s.setServing j f).fabric = s.fabric := rfl

@[simp] theorem State.setServing_host (j : Nat) (f : Serving → Serving) : (s.setServing j f).host = s.host := rfl

@[simp] theorem State.setServing_keeper (j : Nat) (f : Serving → Serving) : (s.setServing j f).keeper = s.keeper := rfl

@[simp] theorem State.setServing_health (j : Nat) (f : Serving → Serving) : (s.setServing j f).health = s.health := rfl

@[simp] theorem State.setServing_fw (j : Nat) (f : Serving → Serving) : (s.setServing j f).fw = s.fw := rfl

@[simp] theorem State.setServing_power (j : Nat) (f : Serving → Serving) : (s.setServing j f).power = s.power := rfl

@[simp] theorem State.setServing_draws (j : Nat) (f : Serving → Serving) : (s.setServing j f).draws = s.draws := rfl

@[simp] theorem State.setServing_waiting (j : Nat) (f : Serving → Serving) : (s.setServing j f).waiting = s.waiting := rfl

@[simp] theorem State.setServing_pending (j : Nat) (f : Serving → Serving) : (s.setServing j f).pending = s.pending := rfl

/-! ## `setHinge` -/

@[simp] theorem State.setHinge_ident (j : Nat) (f : Hinge → Hinge) : (s.setHinge j f).ident = s.ident := rfl

@[simp] theorem State.setHinge_mem (j : Nat) (f : Hinge → Hinge) : (s.setHinge j f).mem = s.mem := rfl

@[simp] theorem State.setHinge_cores (j : Nat) (f : Hinge → Hinge) : (s.setHinge j f).cores = s.cores := rfl

@[simp] theorem State.setHinge_dies (j : Nat) (f : Hinge → Hinge) : (s.setHinge j f).dies = s.dies := rfl

@[simp] theorem State.setHinge_hbm (j : Nat) (f : Hinge → Hinge) : (s.setHinge j f).hbm = s.hbm := rfl

@[simp] theorem State.setHinge_fabric (j : Nat) (f : Hinge → Hinge) : (s.setHinge j f).fabric = s.fabric := rfl

@[simp] theorem State.setHinge_host (j : Nat) (f : Hinge → Hinge) : (s.setHinge j f).host = s.host := rfl

@[simp] theorem State.setHinge_keeper (j : Nat) (f : Hinge → Hinge) : (s.setHinge j f).keeper = s.keeper := rfl

@[simp] theorem State.setHinge_health (j : Nat) (f : Hinge → Hinge) : (s.setHinge j f).health = s.health := rfl

@[simp] theorem State.setHinge_fw (j : Nat) (f : Hinge → Hinge) : (s.setHinge j f).fw = s.fw := rfl

@[simp] theorem State.setHinge_power (j : Nat) (f : Hinge → Hinge) : (s.setHinge j f).power = s.power := rfl

@[simp] theorem State.setHinge_draws (j : Nat) (f : Hinge → Hinge) : (s.setHinge j f).draws = s.draws := rfl

@[simp] theorem State.setHinge_waiting (j : Nat) (f : Hinge → Hinge) : (s.setHinge j f).waiting = s.waiting := rfl

@[simp] theorem State.setHinge_pending (j : Nat) (f : Hinge → Hinge) : (s.setHinge j f).pending = s.pending := rfl

/-! ## `setTask` -/

@[simp] theorem State.setTask_ident (t : TaskRef) (f : Task → Task) : (s.setTask t f).ident = s.ident := rfl

@[simp] theorem State.setTask_mem (t : TaskRef) (f : Task → Task) : (s.setTask t f).mem = s.mem := rfl

@[simp] theorem State.setTask_cores (t : TaskRef) (f : Task → Task) : (s.setTask t f).cores = s.cores := rfl

@[simp] theorem State.setTask_dies (t : TaskRef) (f : Task → Task) : (s.setTask t f).dies = s.dies := rfl

@[simp] theorem State.setTask_hbm (t : TaskRef) (f : Task → Task) : (s.setTask t f).hbm = s.hbm := rfl

@[simp] theorem State.setTask_fabric (t : TaskRef) (f : Task → Task) : (s.setTask t f).fabric = s.fabric := rfl

@[simp] theorem State.setTask_host (t : TaskRef) (f : Task → Task) : (s.setTask t f).host = s.host := rfl

@[simp] theorem State.setTask_keeper (t : TaskRef) (f : Task → Task) : (s.setTask t f).keeper = s.keeper := rfl

@[simp] theorem State.setTask_health (t : TaskRef) (f : Task → Task) : (s.setTask t f).health = s.health := rfl

@[simp] theorem State.setTask_fw (t : TaskRef) (f : Task → Task) : (s.setTask t f).fw = s.fw := rfl

@[simp] theorem State.setTask_power (t : TaskRef) (f : Task → Task) : (s.setTask t f).power = s.power := rfl

@[simp] theorem State.setTask_draws (t : TaskRef) (f : Task → Task) : (s.setTask t f).draws = s.draws := rfl

@[simp] theorem State.setTask_waiting (t : TaskRef) (f : Task → Task) : (s.setTask t f).waiting = s.waiting := rfl

@[simp] theorem State.setTask_pending (t : TaskRef) (f : Task → Task) : (s.setTask t f).pending = s.pending := rfl

/-! ## `setChan` -/

@[simp] theorem State.setChan_ident (r : ChanRef) (f : Chan → Chan) : (s.setChan r f).ident = s.ident := rfl

@[simp] theorem State.setChan_mem (r : ChanRef) (f : Chan → Chan) : (s.setChan r f).mem = s.mem := rfl

@[simp] theorem State.setChan_cores (r : ChanRef) (f : Chan → Chan) : (s.setChan r f).cores = s.cores := rfl

@[simp] theorem State.setChan_dies (r : ChanRef) (f : Chan → Chan) : (s.setChan r f).dies = s.dies := rfl

@[simp] theorem State.setChan_hbm (r : ChanRef) (f : Chan → Chan) : (s.setChan r f).hbm = s.hbm := rfl

@[simp] theorem State.setChan_fabric (r : ChanRef) (f : Chan → Chan) : (s.setChan r f).fabric = s.fabric := rfl

@[simp] theorem State.setChan_host (r : ChanRef) (f : Chan → Chan) : (s.setChan r f).host = s.host := rfl

@[simp] theorem State.setChan_keeper (r : ChanRef) (f : Chan → Chan) : (s.setChan r f).keeper = s.keeper := rfl

@[simp] theorem State.setChan_health (r : ChanRef) (f : Chan → Chan) : (s.setChan r f).health = s.health := rfl

@[simp] theorem State.setChan_fw (r : ChanRef) (f : Chan → Chan) : (s.setChan r f).fw = s.fw := rfl

@[simp] theorem State.setChan_power (r : ChanRef) (f : Chan → Chan) : (s.setChan r f).power = s.power := rfl

@[simp] theorem State.setChan_draws (r : ChanRef) (f : Chan → Chan) : (s.setChan r f).draws = s.draws := rfl

@[simp] theorem State.setChan_waiting (r : ChanRef) (f : Chan → Chan) : (s.setChan r f).waiting = s.waiting := rfl

@[simp] theorem State.setChan_pending (r : ChanRef) (f : Chan → Chan) : (s.setChan r f).pending = s.pending := rfl

/-! ## `setCore` -/

@[simp] theorem State.setCore_ident (c : Nat) (f : Core → Core) : (s.setCore c f).ident = s.ident := rfl

@[simp] theorem State.setCore_mem (c : Nat) (f : Core → Core) : (s.setCore c f).mem = s.mem := rfl

@[simp] theorem State.setCore_jobs (c : Nat) (f : Core → Core) : (s.setCore c f).jobs = s.jobs := rfl

@[simp] theorem State.setCore_cores (c : Nat) (f : Core → Core) : (s.setCore c f).cores = s.cores.modify c f := rfl

@[simp] theorem State.setCore_dies (c : Nat) (f : Core → Core) : (s.setCore c f).dies = s.dies := rfl

@[simp] theorem State.setCore_hbm (c : Nat) (f : Core → Core) : (s.setCore c f).hbm = s.hbm := rfl

@[simp] theorem State.setCore_fabric (c : Nat) (f : Core → Core) : (s.setCore c f).fabric = s.fabric := rfl

@[simp] theorem State.setCore_host (c : Nat) (f : Core → Core) : (s.setCore c f).host = s.host := rfl

@[simp] theorem State.setCore_keeper (c : Nat) (f : Core → Core) : (s.setCore c f).keeper = s.keeper := rfl

@[simp] theorem State.setCore_health (c : Nat) (f : Core → Core) : (s.setCore c f).health = s.health := rfl

@[simp] theorem State.setCore_fw (c : Nat) (f : Core → Core) : (s.setCore c f).fw = s.fw := rfl

@[simp] theorem State.setCore_power (c : Nat) (f : Core → Core) : (s.setCore c f).power = s.power := rfl

@[simp] theorem State.setCore_draws (c : Nat) (f : Core → Core) : (s.setCore c f).draws = s.draws := rfl

@[simp] theorem State.setCore_waiting (c : Nat) (f : Core → Core) : (s.setCore c f).waiting = s.waiting := rfl

@[simp] theorem State.setCore_pending (c : Nat) (f : Core → Core) : (s.setCore c f).pending = s.pending := rfl

/-! ## `setDie` -/

@[simp] theorem State.setDie_ident (d : Nat) (f : Die → Die) : (s.setDie d f).ident = s.ident := rfl

@[simp] theorem State.setDie_mem (d : Nat) (f : Die → Die) : (s.setDie d f).mem = s.mem := rfl

@[simp] theorem State.setDie_jobs (d : Nat) (f : Die → Die) : (s.setDie d f).jobs = s.jobs := rfl

@[simp] theorem State.setDie_cores (d : Nat) (f : Die → Die) : (s.setDie d f).cores = s.cores := rfl

@[simp] theorem State.setDie_dies (d : Nat) (f : Die → Die) : (s.setDie d f).dies = s.dies.modify d f := rfl

@[simp] theorem State.setDie_hbm (d : Nat) (f : Die → Die) : (s.setDie d f).hbm = s.hbm := rfl

@[simp] theorem State.setDie_fabric (d : Nat) (f : Die → Die) : (s.setDie d f).fabric = s.fabric := rfl

@[simp] theorem State.setDie_host (d : Nat) (f : Die → Die) : (s.setDie d f).host = s.host := rfl

@[simp] theorem State.setDie_keeper (d : Nat) (f : Die → Die) : (s.setDie d f).keeper = s.keeper := rfl

@[simp] theorem State.setDie_health (d : Nat) (f : Die → Die) : (s.setDie d f).health = s.health := rfl

@[simp] theorem State.setDie_fw (d : Nat) (f : Die → Die) : (s.setDie d f).fw = s.fw := rfl

@[simp] theorem State.setDie_power (d : Nat) (f : Die → Die) : (s.setDie d f).power = s.power := rfl

@[simp] theorem State.setDie_draws (d : Nat) (f : Die → Die) : (s.setDie d f).draws = s.draws := rfl

@[simp] theorem State.setDie_waiting (d : Nat) (f : Die → Die) : (s.setDie d f).waiting = s.waiting := rfl

@[simp] theorem State.setDie_pending (d : Nat) (f : Die → Die) : (s.setDie d f).pending = s.pending := rfl

/-! ## `setFabric` -/

@[simp] theorem State.setFabric_ident (f : Fabric → Fabric) : (s.setFabric f).ident = s.ident := rfl

@[simp] theorem State.setFabric_mem (f : Fabric → Fabric) : (s.setFabric f).mem = s.mem := rfl

@[simp] theorem State.setFabric_jobs (f : Fabric → Fabric) : (s.setFabric f).jobs = s.jobs := rfl

@[simp] theorem State.setFabric_cores (f : Fabric → Fabric) : (s.setFabric f).cores = s.cores := rfl

@[simp] theorem State.setFabric_dies (f : Fabric → Fabric) : (s.setFabric f).dies = s.dies := rfl

@[simp] theorem State.setFabric_hbm (f : Fabric → Fabric) : (s.setFabric f).hbm = s.hbm := rfl

@[simp] theorem State.setFabric_fabric (f : Fabric → Fabric) : (s.setFabric f).fabric = f s.fabric := rfl

@[simp] theorem State.setFabric_host (f : Fabric → Fabric) : (s.setFabric f).host = s.host := rfl

@[simp] theorem State.setFabric_keeper (f : Fabric → Fabric) : (s.setFabric f).keeper = s.keeper := rfl

@[simp] theorem State.setFabric_health (f : Fabric → Fabric) : (s.setFabric f).health = s.health := rfl

@[simp] theorem State.setFabric_fw (f : Fabric → Fabric) : (s.setFabric f).fw = s.fw := rfl

@[simp] theorem State.setFabric_power (f : Fabric → Fabric) : (s.setFabric f).power = s.power := rfl

@[simp] theorem State.setFabric_draws (f : Fabric → Fabric) : (s.setFabric f).draws = s.draws := rfl

@[simp] theorem State.setFabric_waiting (f : Fabric → Fabric) : (s.setFabric f).waiting = s.waiting := rfl

@[simp] theorem State.setFabric_pending (f : Fabric → Fabric) : (s.setFabric f).pending = s.pending := rfl

/-! ## `setPort` -/

@[simp] theorem State.setPort_ident (p : Nat) (f : Port → Port) : (s.setPort p f).ident = s.ident := rfl

@[simp] theorem State.setPort_mem (p : Nat) (f : Port → Port) : (s.setPort p f).mem = s.mem := rfl

@[simp] theorem State.setPort_jobs (p : Nat) (f : Port → Port) : (s.setPort p f).jobs = s.jobs := rfl

@[simp] theorem State.setPort_cores (p : Nat) (f : Port → Port) : (s.setPort p f).cores = s.cores := rfl

@[simp] theorem State.setPort_dies (p : Nat) (f : Port → Port) : (s.setPort p f).dies = s.dies := rfl

@[simp] theorem State.setPort_hbm (p : Nat) (f : Port → Port) : (s.setPort p f).hbm = s.hbm := rfl

@[simp] theorem State.setPort_host (p : Nat) (f : Port → Port) : (s.setPort p f).host = s.host := rfl

@[simp] theorem State.setPort_keeper (p : Nat) (f : Port → Port) : (s.setPort p f).keeper = s.keeper := rfl

@[simp] theorem State.setPort_health (p : Nat) (f : Port → Port) : (s.setPort p f).health = s.health := rfl

@[simp] theorem State.setPort_fw (p : Nat) (f : Port → Port) : (s.setPort p f).fw = s.fw := rfl

@[simp] theorem State.setPort_power (p : Nat) (f : Port → Port) : (s.setPort p f).power = s.power := rfl

@[simp] theorem State.setPort_draws (p : Nat) (f : Port → Port) : (s.setPort p f).draws = s.draws := rfl

@[simp] theorem State.setPort_waiting (p : Nat) (f : Port → Port) : (s.setPort p f).waiting = s.waiting := rfl

@[simp] theorem State.setPort_pending (p : Nat) (f : Port → Port) : (s.setPort p f).pending = s.pending := rfl

/-! ## `setLink` -/

@[simp] theorem State.setLink_ident (p : Nat) (f : Link → Link) : (s.setLink p f).ident = s.ident := rfl

@[simp] theorem State.setLink_mem (p : Nat) (f : Link → Link) : (s.setLink p f).mem = s.mem := rfl

@[simp] theorem State.setLink_jobs (p : Nat) (f : Link → Link) : (s.setLink p f).jobs = s.jobs := rfl

@[simp] theorem State.setLink_cores (p : Nat) (f : Link → Link) : (s.setLink p f).cores = s.cores := rfl

@[simp] theorem State.setLink_dies (p : Nat) (f : Link → Link) : (s.setLink p f).dies = s.dies := rfl

@[simp] theorem State.setLink_hbm (p : Nat) (f : Link → Link) : (s.setLink p f).hbm = s.hbm := rfl

@[simp] theorem State.setLink_host (p : Nat) (f : Link → Link) : (s.setLink p f).host = s.host := rfl

@[simp] theorem State.setLink_keeper (p : Nat) (f : Link → Link) : (s.setLink p f).keeper = s.keeper := rfl

@[simp] theorem State.setLink_health (p : Nat) (f : Link → Link) : (s.setLink p f).health = s.health := rfl

@[simp] theorem State.setLink_fw (p : Nat) (f : Link → Link) : (s.setLink p f).fw = s.fw := rfl

@[simp] theorem State.setLink_power (p : Nat) (f : Link → Link) : (s.setLink p f).power = s.power := rfl

@[simp] theorem State.setLink_draws (p : Nat) (f : Link → Link) : (s.setLink p f).draws = s.draws := rfl

@[simp] theorem State.setLink_waiting (p : Nat) (f : Link → Link) : (s.setLink p f).waiting = s.waiting := rfl

@[simp] theorem State.setLink_pending (p : Nat) (f : Link → Link) : (s.setLink p f).pending = s.pending := rfl

/-! ## `setCount` -/

@[simp] theorem State.setCount_ident (p : Nat) (f : PortCounters → PortCounters) : (s.setCount p f).ident = s.ident := rfl

@[simp] theorem State.setCount_mem (p : Nat) (f : PortCounters → PortCounters) : (s.setCount p f).mem = s.mem := rfl

@[simp] theorem State.setCount_jobs (p : Nat) (f : PortCounters → PortCounters) : (s.setCount p f).jobs = s.jobs := rfl

@[simp] theorem State.setCount_cores (p : Nat) (f : PortCounters → PortCounters) : (s.setCount p f).cores = s.cores := rfl

@[simp] theorem State.setCount_dies (p : Nat) (f : PortCounters → PortCounters) : (s.setCount p f).dies = s.dies := rfl

@[simp] theorem State.setCount_hbm (p : Nat) (f : PortCounters → PortCounters) : (s.setCount p f).hbm = s.hbm := rfl

@[simp] theorem State.setCount_host (p : Nat) (f : PortCounters → PortCounters) : (s.setCount p f).host = s.host := rfl

@[simp] theorem State.setCount_keeper (p : Nat) (f : PortCounters → PortCounters) : (s.setCount p f).keeper = s.keeper := rfl

@[simp] theorem State.setCount_health (p : Nat) (f : PortCounters → PortCounters) : (s.setCount p f).health = s.health := rfl

@[simp] theorem State.setCount_fw (p : Nat) (f : PortCounters → PortCounters) : (s.setCount p f).fw = s.fw := rfl

@[simp] theorem State.setCount_power (p : Nat) (f : PortCounters → PortCounters) : (s.setCount p f).power = s.power := rfl

@[simp] theorem State.setCount_draws (p : Nat) (f : PortCounters → PortCounters) : (s.setCount p f).draws = s.draws := rfl

@[simp] theorem State.setCount_waiting (p : Nat) (f : PortCounters → PortCounters) : (s.setCount p f).waiting = s.waiting := rfl

@[simp] theorem State.setCount_pending (p : Nat) (f : PortCounters → PortCounters) : (s.setCount p f).pending = s.pending := rfl

/-! ## `setHost` -/

@[simp] theorem State.setHost_ident (f : HostIf → HostIf) : (s.setHost f).ident = s.ident := rfl

@[simp] theorem State.setHost_mem (f : HostIf → HostIf) : (s.setHost f).mem = s.mem := rfl

@[simp] theorem State.setHost_jobs (f : HostIf → HostIf) : (s.setHost f).jobs = s.jobs := rfl

@[simp] theorem State.setHost_cores (f : HostIf → HostIf) : (s.setHost f).cores = s.cores := rfl

@[simp] theorem State.setHost_dies (f : HostIf → HostIf) : (s.setHost f).dies = s.dies := rfl

@[simp] theorem State.setHost_hbm (f : HostIf → HostIf) : (s.setHost f).hbm = s.hbm := rfl

@[simp] theorem State.setHost_fabric (f : HostIf → HostIf) : (s.setHost f).fabric = s.fabric := rfl

@[simp] theorem State.setHost_host (f : HostIf → HostIf) : (s.setHost f).host = f s.host := rfl

@[simp] theorem State.setHost_keeper (f : HostIf → HostIf) : (s.setHost f).keeper = s.keeper := rfl

@[simp] theorem State.setHost_health (f : HostIf → HostIf) : (s.setHost f).health = s.health := rfl

@[simp] theorem State.setHost_fw (f : HostIf → HostIf) : (s.setHost f).fw = s.fw := rfl

@[simp] theorem State.setHost_power (f : HostIf → HostIf) : (s.setHost f).power = s.power := rfl

@[simp] theorem State.setHost_draws (f : HostIf → HostIf) : (s.setHost f).draws = s.draws := rfl

@[simp] theorem State.setHost_waiting (f : HostIf → HostIf) : (s.setHost f).waiting = s.waiting := rfl

@[simp] theorem State.setHost_pending (f : HostIf → HostIf) : (s.setHost f).pending = s.pending := rfl

/-! ## `setRing` -/

@[simp] theorem State.setRing_ident (q : Nat) (f : Ring → Ring) : (s.setRing q f).ident = s.ident := rfl

@[simp] theorem State.setRing_mem (q : Nat) (f : Ring → Ring) : (s.setRing q f).mem = s.mem := rfl

@[simp] theorem State.setRing_jobs (q : Nat) (f : Ring → Ring) : (s.setRing q f).jobs = s.jobs := rfl

@[simp] theorem State.setRing_cores (q : Nat) (f : Ring → Ring) : (s.setRing q f).cores = s.cores := rfl

@[simp] theorem State.setRing_dies (q : Nat) (f : Ring → Ring) : (s.setRing q f).dies = s.dies := rfl

@[simp] theorem State.setRing_hbm (q : Nat) (f : Ring → Ring) : (s.setRing q f).hbm = s.hbm := rfl

@[simp] theorem State.setRing_fabric (q : Nat) (f : Ring → Ring) : (s.setRing q f).fabric = s.fabric := rfl

@[simp] theorem State.setRing_keeper (q : Nat) (f : Ring → Ring) : (s.setRing q f).keeper = s.keeper := rfl

@[simp] theorem State.setRing_health (q : Nat) (f : Ring → Ring) : (s.setRing q f).health = s.health := rfl

@[simp] theorem State.setRing_fw (q : Nat) (f : Ring → Ring) : (s.setRing q f).fw = s.fw := rfl

@[simp] theorem State.setRing_power (q : Nat) (f : Ring → Ring) : (s.setRing q f).power = s.power := rfl

@[simp] theorem State.setRing_draws (q : Nat) (f : Ring → Ring) : (s.setRing q f).draws = s.draws := rfl

@[simp] theorem State.setRing_waiting (q : Nat) (f : Ring → Ring) : (s.setRing q f).waiting = s.waiting := rfl

@[simp] theorem State.setRing_pending (q : Nat) (f : Ring → Ring) : (s.setRing q f).pending = s.pending := rfl

/-! ## `setKeeper` -/

@[simp] theorem State.setKeeper_ident (f : Keeper → Keeper) : (s.setKeeper f).ident = s.ident := rfl

@[simp] theorem State.setKeeper_mem (f : Keeper → Keeper) : (s.setKeeper f).mem = s.mem := rfl

@[simp] theorem State.setKeeper_jobs (f : Keeper → Keeper) : (s.setKeeper f).jobs = s.jobs := rfl

@[simp] theorem State.setKeeper_cores (f : Keeper → Keeper) : (s.setKeeper f).cores = s.cores := rfl

@[simp] theorem State.setKeeper_dies (f : Keeper → Keeper) : (s.setKeeper f).dies = s.dies := rfl

@[simp] theorem State.setKeeper_hbm (f : Keeper → Keeper) : (s.setKeeper f).hbm = s.hbm := rfl

@[simp] theorem State.setKeeper_fabric (f : Keeper → Keeper) : (s.setKeeper f).fabric = s.fabric := rfl

@[simp] theorem State.setKeeper_host (f : Keeper → Keeper) : (s.setKeeper f).host = s.host := rfl

@[simp] theorem State.setKeeper_keeper (f : Keeper → Keeper) : (s.setKeeper f).keeper = f s.keeper := rfl

@[simp] theorem State.setKeeper_health (f : Keeper → Keeper) : (s.setKeeper f).health = s.health := rfl

@[simp] theorem State.setKeeper_fw (f : Keeper → Keeper) : (s.setKeeper f).fw = s.fw := rfl

@[simp] theorem State.setKeeper_power (f : Keeper → Keeper) : (s.setKeeper f).power = s.power := rfl

@[simp] theorem State.setKeeper_draws (f : Keeper → Keeper) : (s.setKeeper f).draws = s.draws := rfl

@[simp] theorem State.setKeeper_waiting (f : Keeper → Keeper) : (s.setKeeper f).waiting = s.waiting := rfl

@[simp] theorem State.setKeeper_pending (f : Keeper → Keeper) : (s.setKeeper f).pending = s.pending := rfl

/-! ## `setHealth` -/

@[simp] theorem State.setHealth_ident (f : Health → Health) : (s.setHealth f).ident = s.ident := rfl

@[simp] theorem State.setHealth_mem (f : Health → Health) : (s.setHealth f).mem = s.mem := rfl

@[simp] theorem State.setHealth_jobs (f : Health → Health) : (s.setHealth f).jobs = s.jobs := rfl

@[simp] theorem State.setHealth_cores (f : Health → Health) : (s.setHealth f).cores = s.cores := rfl

@[simp] theorem State.setHealth_dies (f : Health → Health) : (s.setHealth f).dies = s.dies := rfl

@[simp] theorem State.setHealth_hbm (f : Health → Health) : (s.setHealth f).hbm = s.hbm := rfl

@[simp] theorem State.setHealth_fabric (f : Health → Health) : (s.setHealth f).fabric = s.fabric := rfl

@[simp] theorem State.setHealth_host (f : Health → Health) : (s.setHealth f).host = s.host := rfl

@[simp] theorem State.setHealth_keeper (f : Health → Health) : (s.setHealth f).keeper = s.keeper := rfl

@[simp] theorem State.setHealth_health (f : Health → Health) : (s.setHealth f).health = f s.health := rfl

@[simp] theorem State.setHealth_fw (f : Health → Health) : (s.setHealth f).fw = s.fw := rfl

@[simp] theorem State.setHealth_power (f : Health → Health) : (s.setHealth f).power = s.power := rfl

@[simp] theorem State.setHealth_draws (f : Health → Health) : (s.setHealth f).draws = s.draws := rfl

@[simp] theorem State.setHealth_waiting (f : Health → Health) : (s.setHealth f).waiting = s.waiting := rfl

@[simp] theorem State.setHealth_pending (f : Health → Health) : (s.setHealth f).pending = s.pending := rfl

/-! ## `setFw` -/

@[simp] theorem State.setFw_ident (f : Firmware → Firmware) : (s.setFw f).ident = s.ident := rfl

@[simp] theorem State.setFw_mem (f : Firmware → Firmware) : (s.setFw f).mem = s.mem := rfl

@[simp] theorem State.setFw_jobs (f : Firmware → Firmware) : (s.setFw f).jobs = s.jobs := rfl

@[simp] theorem State.setFw_cores (f : Firmware → Firmware) : (s.setFw f).cores = s.cores := rfl

@[simp] theorem State.setFw_dies (f : Firmware → Firmware) : (s.setFw f).dies = s.dies := rfl

@[simp] theorem State.setFw_hbm (f : Firmware → Firmware) : (s.setFw f).hbm = s.hbm := rfl

@[simp] theorem State.setFw_fabric (f : Firmware → Firmware) : (s.setFw f).fabric = s.fabric := rfl

@[simp] theorem State.setFw_host (f : Firmware → Firmware) : (s.setFw f).host = s.host := rfl

@[simp] theorem State.setFw_keeper (f : Firmware → Firmware) : (s.setFw f).keeper = s.keeper := rfl

@[simp] theorem State.setFw_health (f : Firmware → Firmware) : (s.setFw f).health = s.health := rfl

@[simp] theorem State.setFw_fw (f : Firmware → Firmware) : (s.setFw f).fw = f s.fw := rfl

@[simp] theorem State.setFw_power (f : Firmware → Firmware) : (s.setFw f).power = s.power := rfl

@[simp] theorem State.setFw_draws (f : Firmware → Firmware) : (s.setFw f).draws = s.draws := rfl

@[simp] theorem State.setFw_waiting (f : Firmware → Firmware) : (s.setFw f).waiting = s.waiting := rfl

@[simp] theorem State.setFw_pending (f : Firmware → Firmware) : (s.setFw f).pending = s.pending := rfl

/-! ## `setPower` -/

@[simp] theorem State.setPower_ident (f : Power → Power) : (s.setPower f).ident = s.ident := rfl

@[simp] theorem State.setPower_mem (f : Power → Power) : (s.setPower f).mem = s.mem := rfl

@[simp] theorem State.setPower_jobs (f : Power → Power) : (s.setPower f).jobs = s.jobs := rfl

@[simp] theorem State.setPower_cores (f : Power → Power) : (s.setPower f).cores = s.cores := rfl

@[simp] theorem State.setPower_dies (f : Power → Power) : (s.setPower f).dies = s.dies := rfl

@[simp] theorem State.setPower_hbm (f : Power → Power) : (s.setPower f).hbm = s.hbm := rfl

@[simp] theorem State.setPower_fabric (f : Power → Power) : (s.setPower f).fabric = s.fabric := rfl

@[simp] theorem State.setPower_host (f : Power → Power) : (s.setPower f).host = s.host := rfl

@[simp] theorem State.setPower_keeper (f : Power → Power) : (s.setPower f).keeper = s.keeper := rfl

@[simp] theorem State.setPower_health (f : Power → Power) : (s.setPower f).health = s.health := rfl

@[simp] theorem State.setPower_fw (f : Power → Power) : (s.setPower f).fw = s.fw := rfl

@[simp] theorem State.setPower_power (f : Power → Power) : (s.setPower f).power = f s.power := rfl

@[simp] theorem State.setPower_draws (f : Power → Power) : (s.setPower f).draws = s.draws := rfl

@[simp] theorem State.setPower_waiting (f : Power → Power) : (s.setPower f).waiting = s.waiting := rfl

@[simp] theorem State.setPower_pending (f : Power → Power) : (s.setPower f).pending = s.pending := rfl

/-! ## `setMem` -/

@[simp] theorem State.setMem_ident (f : Memory → Memory) : (s.setMem f).ident = s.ident := rfl

@[simp] theorem State.setMem_mem (f : Memory → Memory) : (s.setMem f).mem = f s.mem := rfl

@[simp] theorem State.setMem_jobs (f : Memory → Memory) : (s.setMem f).jobs = s.jobs := rfl

@[simp] theorem State.setMem_cores (f : Memory → Memory) : (s.setMem f).cores = s.cores := rfl

@[simp] theorem State.setMem_dies (f : Memory → Memory) : (s.setMem f).dies = s.dies := rfl

@[simp] theorem State.setMem_hbm (f : Memory → Memory) : (s.setMem f).hbm = s.hbm := rfl

@[simp] theorem State.setMem_fabric (f : Memory → Memory) : (s.setMem f).fabric = s.fabric := rfl

@[simp] theorem State.setMem_host (f : Memory → Memory) : (s.setMem f).host = s.host := rfl

@[simp] theorem State.setMem_keeper (f : Memory → Memory) : (s.setMem f).keeper = s.keeper := rfl

@[simp] theorem State.setMem_health (f : Memory → Memory) : (s.setMem f).health = s.health := rfl

@[simp] theorem State.setMem_fw (f : Memory → Memory) : (s.setMem f).fw = s.fw := rfl

@[simp] theorem State.setMem_power (f : Memory → Memory) : (s.setMem f).power = s.power := rfl

@[simp] theorem State.setMem_draws (f : Memory → Memory) : (s.setMem f).draws = s.draws := rfl

@[simp] theorem State.setMem_waiting (f : Memory → Memory) : (s.setMem f).waiting = s.waiting := rfl

@[simp] theorem State.setMem_pending (f : Memory → Memory) : (s.setMem f).pending = s.pending := rfl

/-! ## `log` -/

@[simp] theorem State.log_ident (code cls : Nat) (d : Domain) (job a0 a1 a2 : Nat) : (s.log code cls d job a0 a1 a2).ident = s.ident := rfl

@[simp] theorem State.log_mem (code cls : Nat) (d : Domain) (job a0 a1 a2 : Nat) : (s.log code cls d job a0 a1 a2).mem = s.mem := rfl

@[simp] theorem State.log_jobs (code cls : Nat) (d : Domain) (job a0 a1 a2 : Nat) : (s.log code cls d job a0 a1 a2).jobs = s.jobs := rfl

@[simp] theorem State.log_cores (code cls : Nat) (d : Domain) (job a0 a1 a2 : Nat) : (s.log code cls d job a0 a1 a2).cores = s.cores := rfl

@[simp] theorem State.log_dies (code cls : Nat) (d : Domain) (job a0 a1 a2 : Nat) : (s.log code cls d job a0 a1 a2).dies = s.dies := rfl

@[simp] theorem State.log_hbm (code cls : Nat) (d : Domain) (job a0 a1 a2 : Nat) : (s.log code cls d job a0 a1 a2).hbm = s.hbm := rfl

@[simp] theorem State.log_fabric (code cls : Nat) (d : Domain) (job a0 a1 a2 : Nat) : (s.log code cls d job a0 a1 a2).fabric = s.fabric := rfl

@[simp] theorem State.log_host (code cls : Nat) (d : Domain) (job a0 a1 a2 : Nat) : (s.log code cls d job a0 a1 a2).host = s.host := rfl

@[simp] theorem State.log_health (code cls : Nat) (d : Domain) (job a0 a1 a2 : Nat) : (s.log code cls d job a0 a1 a2).health = s.health := rfl

@[simp] theorem State.log_fw (code cls : Nat) (d : Domain) (job a0 a1 a2 : Nat) : (s.log code cls d job a0 a1 a2).fw = s.fw := rfl

@[simp] theorem State.log_power (code cls : Nat) (d : Domain) (job a0 a1 a2 : Nat) : (s.log code cls d job a0 a1 a2).power = s.power := rfl

@[simp] theorem State.log_draws (code cls : Nat) (d : Domain) (job a0 a1 a2 : Nat) : (s.log code cls d job a0 a1 a2).draws = s.draws := rfl

@[simp] theorem State.log_waiting (code cls : Nat) (d : Domain) (job a0 a1 a2 : Nat) : (s.log code cls d job a0 a1 a2).waiting = s.waiting := rfl

@[simp] theorem State.log_pending (code cls : Nat) (d : Domain) (job a0 a1 a2 : Nat) : (s.log code cls d job a0 a1 a2).pending = s.pending := rfl

/-! ## `farPut` -/

@[simp] theorem State.farPut_ident (addr : Nat) (data : Bytes) (length : Nat) (use : FarUse) : (s.farPut addr data length use).ident = s.ident := rfl

@[simp] theorem State.farPut_mem (addr : Nat) (data : Bytes) (length : Nat) (use : FarUse) : (s.farPut addr data length use).mem = s.mem := rfl

@[simp] theorem State.farPut_jobs (addr : Nat) (data : Bytes) (length : Nat) (use : FarUse) : (s.farPut addr data length use).jobs = s.jobs := rfl

@[simp] theorem State.farPut_cores (addr : Nat) (data : Bytes) (length : Nat) (use : FarUse) : (s.farPut addr data length use).cores = s.cores := rfl

@[simp] theorem State.farPut_dies (addr : Nat) (data : Bytes) (length : Nat) (use : FarUse) : (s.farPut addr data length use).dies = s.dies := rfl

@[simp] theorem State.farPut_hbm (addr : Nat) (data : Bytes) (length : Nat) (use : FarUse) : (s.farPut addr data length use).hbm = s.hbm := rfl

@[simp] theorem State.farPut_fabric (addr : Nat) (data : Bytes) (length : Nat) (use : FarUse) : (s.farPut addr data length use).fabric = s.fabric := rfl

@[simp] theorem State.farPut_keeper (addr : Nat) (data : Bytes) (length : Nat) (use : FarUse) : (s.farPut addr data length use).keeper = s.keeper := rfl

@[simp] theorem State.farPut_health (addr : Nat) (data : Bytes) (length : Nat) (use : FarUse) : (s.farPut addr data length use).health = s.health := rfl

@[simp] theorem State.farPut_fw (addr : Nat) (data : Bytes) (length : Nat) (use : FarUse) : (s.farPut addr data length use).fw = s.fw := rfl

@[simp] theorem State.farPut_power (addr : Nat) (data : Bytes) (length : Nat) (use : FarUse) : (s.farPut addr data length use).power = s.power := rfl

@[simp] theorem State.farPut_draws (addr : Nat) (data : Bytes) (length : Nat) (use : FarUse) : (s.farPut addr data length use).draws = s.draws := rfl

@[simp] theorem State.farPut_waiting (addr : Nat) (data : Bytes) (length : Nat) (use : FarUse) : (s.farPut addr data length use).waiting = s.waiting := rfl

@[simp] theorem State.farPut_pending (addr : Nat) (data : Bytes) (length : Nat) (use : FarUse) : (s.farPut addr data length use).pending = s.pending := rfl

/-! ## `hold` -/

@[simp] theorem State.hold_ident (a : Agent) (i : Instr) : (s.hold a i).ident = s.ident := rfl

@[simp] theorem State.hold_mem (a : Agent) (i : Instr) : (s.hold a i).mem = s.mem := rfl

@[simp] theorem State.hold_jobs (a : Agent) (i : Instr) : (s.hold a i).jobs = s.jobs := rfl

@[simp] theorem State.hold_cores (a : Agent) (i : Instr) : (s.hold a i).cores = s.cores := rfl

@[simp] theorem State.hold_dies (a : Agent) (i : Instr) : (s.hold a i).dies = s.dies := rfl

@[simp] theorem State.hold_hbm (a : Agent) (i : Instr) : (s.hold a i).hbm = s.hbm := rfl

@[simp] theorem State.hold_fabric (a : Agent) (i : Instr) : (s.hold a i).fabric = s.fabric := rfl

@[simp] theorem State.hold_host (a : Agent) (i : Instr) : (s.hold a i).host = s.host := rfl

@[simp] theorem State.hold_keeper (a : Agent) (i : Instr) : (s.hold a i).keeper = s.keeper := rfl

@[simp] theorem State.hold_health (a : Agent) (i : Instr) : (s.hold a i).health = s.health := rfl

@[simp] theorem State.hold_fw (a : Agent) (i : Instr) : (s.hold a i).fw = s.fw := rfl

@[simp] theorem State.hold_power (a : Agent) (i : Instr) : (s.hold a i).power = s.power := rfl

@[simp] theorem State.hold_draws (a : Agent) (i : Instr) : (s.hold a i).draws = s.draws := rfl

@[simp] theorem State.hold_waiting (a : Agent) (i : Instr) : (s.hold a i).waiting = s.waiting ++ [(a, i)] := rfl

@[simp] theorem State.hold_pending (a : Agent) (i : Instr) : (s.hold a i).pending = s.pending := rfl

/-! ## `keep` -/

@[simp] theorem State.keep_ident (t : State) : (s.keep t).ident = s.ident := rfl

@[simp] theorem State.keep_pending (t : State) : (s.keep t).pending = s.pending := rfl

@[simp] theorem State.keep_mem (t : State) : (s.keep t).mem = t.mem := rfl

@[simp] theorem State.keep_jobs (t : State) : (s.keep t).jobs = t.jobs := rfl

@[simp] theorem State.keep_cores (t : State) : (s.keep t).cores = t.cores := rfl

@[simp] theorem State.keep_dies (t : State) : (s.keep t).dies = t.dies := rfl

@[simp] theorem State.keep_hbm (t : State) : (s.keep t).hbm = t.hbm := rfl

@[simp] theorem State.keep_fabric (t : State) : (s.keep t).fabric = t.fabric := rfl

@[simp] theorem State.keep_host (t : State) : (s.keep t).host = t.host := rfl

@[simp] theorem State.keep_keeper (t : State) : (s.keep t).keeper = t.keeper := rfl

@[simp] theorem State.keep_health (t : State) : (s.keep t).health = t.health := rfl

@[simp] theorem State.keep_fw (t : State) : (s.keep t).fw = t.fw := rfl

@[simp] theorem State.keep_power (t : State) : (s.keep t).power = t.power := rfl

@[simp] theorem State.keep_draws (t : State) : (s.keep t).draws = t.draws := rfl

@[simp] theorem State.keep_waiting (t : State) : (s.keep t).waiting = t.waiting := rfl

/-- A meaning that changes neither what is fused nor the queue is the answer itself. -/
theorem State.keep_of_same {t : State} (hi : t.ident = s.ident) (hp : t.pending = s.pending) : s.keep t = t := by
  cases t; cases hi; cases hp; rfl

/-! ## Reading the changed part -/

theorem getD_modify_same {α : Type} (l : List α) (i : Nat) (f : α → α) (d : α) (h : i < l.length) :
    (l.modify i f).getD i d = f (l.getD i d) := by
  simp [List.getD, h]

theorem getD_modify_other {α : Type} (l : List α) (i k : Nat) (f : α → α) (d : α) (h : i ≠ k) :
    (l.modify i f).getD k d = l.getD k d := by
  simp [List.getD, h]

theorem State.job_setJob (j : Nat) (f : Job → Job) (h : j < s.jobs.length) : (s.setJob j f).job j = f (s.job j) :=
  getD_modify_same _ _ _ _ h

theorem State.job_setJob_other (j k : Nat) (f : Job → Job) (h : j ≠ k) : (s.setJob j f).job k = s.job k :=
  getD_modify_other _ _ _ _ _ h

theorem State.core_setCore (c : Nat) (f : Core → Core) (h : c < s.cores.length) : (s.setCore c f).core c = f (s.core c) :=
  getD_modify_same _ _ _ _ h

theorem State.core_setCore_other (c k : Nat) (f : Core → Core) (h : c ≠ k) : (s.setCore c f).core k = s.core k :=
  getD_modify_other _ _ _ _ _ h

theorem State.die_setDie (d : Nat) (f : Die → Die) (h : d < s.dies.length) : (s.setDie d f).die d = f (s.die d) :=
  getD_modify_same _ _ _ _ h

theorem State.port_setPort (p : Nat) (f : Port → Port) (h : p < s.fabric.ports.length) : (s.setPort p f).port p = f (s.port p) :=
  getD_modify_same _ _ _ _ h

theorem State.port_setPort_other (p k : Nat) (f : Port → Port) (h : p ≠ k) : (s.setPort p f).port k = s.port k :=
  getD_modify_other _ _ _ _ _ h

theorem State.ring_setRing (q : Nat) (f : Ring → Ring) (h : q < s.host.rings.length) : (s.setRing q f).ring q = f (s.ring q) :=
  getD_modify_same _ _ _ _ h

theorem State.ring_setRing_other (q k : Nat) (f : Ring → Ring) (h : q ≠ k) : (s.setRing q f).ring k = s.ring k :=
  getD_modify_other _ _ _ _ _ h

@[simp] theorem State.job_setCore (j c : Nat) (f : Core → Core) : (s.setCore c f).job j = s.job j := rfl
@[simp] theorem State.job_setKeeper (j : Nat) (f : Keeper → Keeper) : (s.setKeeper f).job j = s.job j := rfl
@[simp] theorem State.job_setHost (j : Nat) (f : HostIf → HostIf) : (s.setHost f).job j = s.job j := rfl
@[simp] theorem State.core_setJob (j c : Nat) (f : Job → Job) : (s.setJob j f).core c = s.core c := rfl
@[simp] theorem State.core_setTask (t : TaskRef) (c : Nat) (f : Task → Task) : (s.setTask t f).core c = s.core c := rfl
@[simp] theorem State.ring_setJob (j q : Nat) (f : Job → Job) : (s.setJob j f).ring q = s.ring q := rfl

/-- A task that exists belongs to a job context that exists. -/
theorem State.task_lt {t : TaskRef} {k : Task} (h : s.task t = some k) : t.job < s.jobs.length := by
  by_contra hc
  have : s.job t.job = {} := by simp [State.job, List.getD, List.getElem?_eq_none (Nat.le_of_not_lt hc)]
  simp [State.task, this] at h

/-- A changed task reads back changed. -/
theorem State.task_setTask {t : TaskRef} {k : Task} (h : s.task t = some k) (f : Task → Task) : (s.setTask t f).task t = some (f k) := by
  have hl := s.task_lt h
  unfold State.task State.setTask at *
  rw [State.job_setJob _ _ _ hl]
  simp [h]

/-- Two changes of one task are one change. -/
theorem State.setTask_setTask (t : TaskRef) (f g : Task → Task) : (s.setTask t f).setTask t g = s.setTask t fun x => g (f x) := by
  have hmm : ∀ {α : Type} (l : List α) (i : Nat) (p q : α → α), (l.modify i p).modify i q = l.modify i fun x => q (p x) := by
    intro α l i p q
    apply List.ext_getElem?
    intro n
    simp only [List.getElem?_modify]
    cases l[n]? <;> by_cases h : i = n <;> simp [h]
  unfold State.setTask State.setJob
  simp only [hmm]

/-- A change that leaves a job as it is changes nothing. -/
theorem State.setJob_same (j : Nat) (f : Job → Job) (h : f (s.job j) = s.job j) : s.setJob j f = s := by
  unfold State.setJob
  have : s.jobs.modify j f = s.jobs := by
    apply List.ext_getElem?
    intro i
    rw [List.getElem?_modify]
    by_cases hi : j = i
    · subst hi
      cases hj : s.jobs[j]? with
      | none => simp
      | some b =>
        have hb : s.job j = b := by simp [State.job, List.getD, hj]
        rw [hb] at h
        simp [h]
    · simp [hi]
  rw [this]

theorem State.setTrain_same (j : Nat) (f : Training → Training) (h : f (s.job j).train = (s.job j).train) : s.setTrain j f = s :=
  s.setJob_same j _ (by rw [h])

/-- A change of a job that leaves its tasks as they are leaves every task as it is. -/
theorem State.task_setJob (j : Nat) (f : Job → Job) (h : ∀ b, (f b).tasks = b.tasks) (t : TaskRef) : (s.setJob j f).task t = s.task t := by
  have : ((s.setJob j f).job t.job).tasks = (s.job t.job).tasks := by
    by_cases hjj : j = t.job
    · subst hjj
      rcases Nat.lt_or_ge t.job s.jobs.length with hj | hj
      · rw [State.job_setJob _ _ _ hj, h]
      · unfold State.setJob State.job
        rw [List.modify_eq_self hj]
    · rw [State.job_setJob_other _ _ _ _ hjj]
  exact congrArg (·[t.task]?) this

/-- Updates of a job and of a core commute. -/
theorem State.setCore_setTask (t : TaskRef) (c : Nat) (f : Task → Task) (g : Core → Core) :
    (s.setCore c g).setTask t f = (s.setTask t f).setCore c g := rfl

end Sys2Proof.Machine
end

