-- ==== Sys2Proof/Laws/Access.lean ====
section
/-! SUPPORT. What reads and writes of a task's plain workspace answer: the bytes of memory, and memory with the bytes laid. -/

namespace Sys2Proof.Machine

variable (s : State)

theorem cellRead_append (m : Cells) (a p q : Nat) : cellRead m a (p + q) = cellRead m a p ++ cellRead m (a + p) q := by
  unfold cellRead
  rw [List.range_add, List.map_append, List.map_map]
  congr 1
  apply List.map_congr_left
  intro i _
  simp [Nat.add_assoc]

theorem cellRead_zero (m : Cells) (a : Nat) : cellRead m a 0 = [] := rfl

theorem wsKey_add (j c o p : Nat) : wsKey j c (o + p) = wsKey j c o + p := by
  unfold wsKey wsAddr
  omega

theorem isWs_wsKey (j c o : Nat) : isWs (wsKey j c o) = true := by
  unfold isWs wsKey
  simp only [decide_eq_true_eq]
  have : 1 ≤ j + 1 := by omega
  nlinarith [Nat.zero_le (wsAddr c o), Nat.zero_le (2 ^ 52 : Nat)]

/-- No key of workspace lies in an epoch region when no task declares one there. -/
theorem Job.inEpoch_ws {b : Job} (h : (b.tasks.all fun x => x.decl.epochWorkspace.isEmpty) = true) (j c o : Nat) :
    b.inEpoch (wsKey j c o) = false := by
  have hk := isWs_wsKey j c o
  unfold isWs at hk
  simp only [decide_eq_true_eq] at hk
  have hn : ¬ wsKey j c o < 2 ^ 52 := by omega
  unfold Job.inEpoch
  rw [if_neg hn]
  simp only [List.any_eq_false, Bool.and_eq_true, beq_iff_eq, List.all_eq_true, List.isEmpty_iff, not_and, Bool.not_eq_true] at h ⊢
  intro x hx _
  rw [h x hx]
  simp

/-- The parts of `plainWs`. -/
theorem State.plainWs_parts {t : TaskRef} {k : Task} (h : s.plainWs t k = true) : s.mem.ecc = [] ∧ (s.job t.job).train.tagged = [] ∧
    (s.job t.job).groupTable + 32 * (s.job t.job).groupCount ≤ 2 ^ 52 ∧ ((s.job t.job).tasks.all fun x => x.decl.epochWorkspace.isEmpty) = true ∧ k.prov = false := by
  simpa [State.plainWs, and_assoc] using h

/-- A read of plain workspace by one access. -/
theorem State.readAs_plain {t : TaskRef} {k : Task} (h : s.plainWs t k = true) (o n : Nat) :
    s.readAs t.job k.prov (wsKey t.job k.home o) n = .ok (s.mem.read (wsKey t.job k.home o) n) s := by
  obtain ⟨he, ht, -, hw, hp⟩ := s.plainWs_parts h
  simp [State.readAs, Job.readWaits, Job.readHalf, Job.inEpoch_ws hw, ht, State.readKey, Memory.bad, Memory.weak, he]

theorem funnel_read {t : TaskRef} {k : Task} (h : s.plainWs t k = true) (fuel o n : Nat) (acc : Bytes) (hf : n ≤ fuel) :
    (funnel fuel o n).foldl (fun g x => match g with
      | .ok acc s => match s.readAs t.job k.prov (wsKey t.job k.home x.1) x.2 with
        | .ok b s => .ok (acc ++ b) s
        | g => g
      | g => g) (Got.ok acc s) = .ok (acc ++ s.mem.read (wsKey t.job k.home o) n) s := by
  induction fuel generalizing o n acc with
  | zero =>
    have : n = 0 := by omega
    simp [funnel, this, Memory.read, cellRead_zero]
  | succ fuel ih =>
    unfold funnel
    by_cases hn : n = 0
    · simp [hn, Memory.read, cellRead_zero]
    · have hm : 0 < 64 - o % 64 := by omega
      have hle : min n (64 - o % 64) ≤ n := by omega
      rw [if_neg hn]
      dsimp only
      rw [List.foldl_cons]
      simp only [s.readAs_plain h]
      rw [ih _ _ _ (by omega), wsKey_add]
      congr 1
      rw [List.append_assoc]
      congr 1
      have hx : n = min n (64 - o % 64) + (n - min n (64 - o % 64)) := by omega
      unfold Memory.read
      conv_rhs => rw [hx, cellRead_append]

/-- A stretch of plain workspace reads as memory holds it, and reading changes nothing. -/
theorem State.readWs_plain {t : TaskRef} {k : Task} (h : s.plainWs t k = true) {o n : Nat} (hb : o + n ≤ wsBytes) :
    s.readWs t k o n = .ok (s.mem.read (wsKey t.job k.home o) n) s := by
  unfold State.readWs
  rw [if_neg (by omega)]
  exact funnel_read s h n o n [] (Nat.le_refl n)

theorem Training.filter_no_tags {x : Training} (h : x.tagged = []) (p : Nat → Bool) : { x with tagged := x.tagged.filter p } = x := by
  cases x
  simp only at h
  subst h
  rfl

/-- A write of one access to plain workspace lays its bytes. -/
theorem State.writeAs_plain {t : TaskRef} {k : Task} (h : s.plainWs t k = true) (o : Nat) (bs : Bytes) :
    s.writeAs t.job k.prov (wsKey t.job k.home o) bs =
      .ok [] (if bs.isEmpty then s else s.withCells (cellWrite s.mem.cells (wsKey t.job k.home o) bs)) := by
  obtain ⟨he, ht, hg, hw, hp⟩ := s.plainWs_parts h
  have hk : s.keepForm t.job false (wsKey t.job k.home o) bs = bs := by
    have hws := isWs_wsKey t.job k.home o
    unfold isWs at hws
    rw [decide_eq_true_eq] at hws
    unfold State.keepForm
    dsimp only
    rw [if_pos (Or.inr (Or.inr (Nat.le_trans hg hws)))]
  unfold State.writeAs
  simp only [Job.writeWaits, Job.inEpoch_ws hw, hp, isWs_wsKey, Bool.false_and, Bool.false_eq_true, if_false, hk, Job.writeHalf, State.writeKey]
  by_cases hb : bs.isEmpty = true
  · simp only [hb, if_true, Bool.not_false, Bool.and_self]
    rw [State.setTrain_same _ _ _ (Training.filter_no_tags ht _)]
  · simp only [hb, if_false, Memory.partlyBad, he, List.any_nil, Bool.false_eq_true, Bool.not_false, Bool.and_self, if_true]
    rw [State.setTrain_same _ _ _ (Training.filter_no_tags (x := ((s.setMem fun m => m.write (wsKey t.job k.home o) bs).job t.job).train) ht _)]
    simp [State.withCells, State.setMem, Memory.write, he]

/-- `plainWs` does not depend on the bytes of memory. -/
theorem State.plainWs_withCells {t : TaskRef} {k : Task} (h : s.plainWs t k = true) (m : Cells) : (s.withCells m).plainWs t k = true := h

theorem funnel_write {t : TaskRef} {k : Task} (h : s.plainWs t k = true) (hm : cellsWf s.mem.cells = true) (base : Nat) (bs : Bytes) (fuel o n : Nat)
    (hf : n ≤ fuel) (hbo : base ≤ o) (hn : o + n = base + bs.length) :
    ∃ m, (funnel fuel o n).foldl (fun g x => match g with
      | .ok _ s => s.writeAs t.job k.prov (wsKey t.job k.home x.1) ((bs.drop (x.1 - base)).take x.2)
      | g => g) (Got.ok [] s) = .ok [] (s.withCells m) ∧ cellsWf m = true ∧
      ∀ key, cellGet m key = if wsKey t.job k.home o ≤ key ∧ key < wsKey t.job k.home o + n
        then bs.getD (key - wsKey t.job k.home base) 0 else cellGet s.mem.cells key := by
  induction fuel generalizing s o n with
  | zero =>
    have : n = 0 := by omega
    subst this
    refine ⟨s.mem.cells, rfl, hm, fun key => ?_⟩
    rw [if_neg (by omega)]
  | succ fuel ih =>
    unfold funnel
    by_cases h0 : n = 0
    · subst h0
      refine ⟨s.mem.cells, rfl, hm, fun key => ?_⟩
      rw [if_neg (by omega)]
    · have hmod : 0 < 64 - o % 64 := by omega
      generalize hp : min n (64 - o % 64) = p
      have hp0 : 0 < p := by omega
      have hpn : p ≤ n := by omega
      have hlen : ((bs.drop (o - base)).take p).length = p := by simp; omega
      have hne : ((bs.drop (o - base)).take p).isEmpty = false := by
        cases hc : (bs.drop (o - base)).take p with
        | nil => simp [hc] at hlen; omega
        | cons x y => rfl
      rw [if_neg h0]
      dsimp only
      rw [List.foldl_cons]
      simp only [s.writeAs_plain h, hne, Bool.false_eq_true, if_false]
      obtain ⟨m, h1, h2, h3⟩ := ih (s.withCells (cellWrite s.mem.cells (wsKey t.job k.home o) ((bs.drop (o - base)).take p)))
        (s.plainWs_withCells h _) (cellWrite_wf _ _ hm) (o + p) (n - p) (by omega) (by omega) (by omega)
      refine ⟨m, h1, h2, fun key => ?_⟩
      rw [h3]
      have hw : (s.withCells (cellWrite s.mem.cells (wsKey t.job k.home o) ((bs.drop (o - base)).take p))).mem.cells =
          cellWrite s.mem.cells (wsKey t.job k.home o) ((bs.drop (o - base)).take p) := rfl
      rw [hw, cellGet_cellWrite _ _ _ hm, hlen, wsKey_add]
      have hob : wsKey t.job k.home o = wsKey t.job k.home base + (o - base) := by
        rw [← wsKey_add]; congr 1; omega
      generalize wsKey t.job k.home o = K at *
      generalize wsKey t.job k.home base = B at *
      by_cases c1 : K + p ≤ key ∧ key < K + p + (n - p)
      · rw [if_pos c1, if_pos (by omega)]
      · rw [if_neg c1]
        by_cases c2 : K ≤ key ∧ key < K + p
        · rw [if_pos c2, if_pos (by omega)]
          have e1 : key - K < p := by omega
          have e2 : key - B = (o - base) + (key - K) := by omega
          rw [e2]
          simp [List.getD, e1]
        · rw [if_neg c2, if_neg (by omega)]

/-- Bytes written to a stretch of plain workspace: memory with those bytes laid, everything else as it was. -/
theorem State.writeWs_plain {t : TaskRef} {k : Task} (h : s.plainWs t k = true) (hm : cellsWf s.mem.cells = true) {o : Nat} {bs : Bytes}
    (hb : o + bs.length ≤ wsBytes) : ∃ m, s.writeWs t k o bs = .ok [] (s.withCells m) ∧ cellsWf m = true ∧
      ∀ key, cellGet m key = if wsKey t.job k.home o ≤ key ∧ key < wsKey t.job k.home o + bs.length
        then bs.getD (key - wsKey t.job k.home o) 0 else cellGet s.mem.cells key := by
  obtain ⟨m, h1, h2, h3⟩ := funnel_write s h hm o bs bs.length o bs.length (Nat.le_refl _) (Nat.le_refl _) rfl
  refine ⟨m, ?_, h2, h3⟩
  unfold State.writeWs
  rw [if_neg (by omega)]
  exact h1

/-! ## Plain workspace while an instruction issues -/

theorem State.job_setTask {t : TaskRef} {k : Task} (hk : s.task t = some k) (f : Task → Task) :
    (s.setTask t f).job t.job = { s.job t.job with tasks := (s.job t.job).tasks.modify t.task f } :=
  s.job_setJob _ _ (s.task_lt hk)

/-- Issuing an instruction leaves the workspace plain. -/
theorem State.plainWs_did {t : TaskRef} {k x : Task} (hk : s.task t = some k) (f : Task → Task) (hf : ∀ y, (f y).decl = y.decl)
    (h : s.plainWs t x = true) : (s.did t f).plainWs t x = true := by
  obtain ⟨he, ht, hg, hw, hp⟩ := s.plainWs_parts h
  have hj : (s.did t f).job t.job = { s.job t.job with tasks := (s.job t.job).tasks.modify t.task fun x => f { x with atPoint := false } } :=
    s.job_setTask hk _
  have hall : ((s.job t.job).tasks.modify t.task fun x => f { x with atPoint := false }).all (fun x => x.decl.epochWorkspace.isEmpty) = true := by
    rw [List.all_eq_true] at hw ⊢
    intro y hy
    obtain ⟨i, hi, rfl⟩ := List.getElem_of_mem hy
    have hlen : i < (s.job t.job).tasks.length := by simpa using hi
    have hm := hw _ (List.getElem_mem hlen)
    rw [List.getElem_modify]
    split
    · rw [hf]; exact hm
    · exact hm
  have hm : (s.did t f).mem = s.mem := rfl
  unfold State.plainWs
  rw [hj, hm]
  have hg' : ({ s.job t.job with tasks := (s.job t.job).tasks.modify t.task fun x => f { x with atPoint := false } } : Job).groupTable +
      32 * ({ s.job t.job with tasks := (s.job t.job).tasks.modify t.task fun x => f { x with atPoint := false } } : Job).groupCount ≤ 2 ^ 52 := hg
  rw [decide_eq_true hg']
  simp only [he, ht, hall, hp]
  decide

theorem State.plainWs_unitDid {t : TaskRef} {k x : Task} (core : Nat) (hk : s.task t = some k) (f : Task → Task) (hf : ∀ y, (f y).decl = y.decl)
    (h : s.plainWs t x = true) : (s.unitDid t core f).plainWs t x = true := s.plainWs_did hk f hf h

/-- Partial vectors of VPTREE in plain workspace. -/
theorem State.readPartials_plain {t : TaskRef} {k : Task} (h : s.plainWs t k = true) (len pitch n off : Nat) (acc : List Bytes)
    (hb : ∀ i < n, off + i * pitch + len ≤ wsBytes) : State.readPartials t k len pitch n off s acc =
      (.ok [] s, acc ++ (List.range n).map fun i => s.mem.read (wsKey t.job k.home (off + i * pitch)) len) := by
  induction n generalizing off acc with
  | zero => simp [State.readPartials]
  | succ n ih =>
    unfold State.readPartials
    have h0 := hb 0 (by omega)
    rw [s.readWs_plain h (by omega)]
    simp only
    rw [ih (off + pitch) _ (by intro i hi; have := hb (i + 1) (by omega); rw [Nat.add_mul] at this; omega)]
    congr 1
    rw [List.range_succ_eq_map, List.map_cons, List.map_map, List.append_assoc]
    congr 1
    simp only [List.singleton_append, Nat.zero_mul, Nat.add_zero, List.cons.injEq, true_and]
    apply List.map_congr_left
    intro i _
    simp only [Function.comp]
    congr 2
    rw [Nat.succ_mul]; omega

end Sys2Proof.Machine
end

