-- ==== Sys2Proof/Laws/Bytes.lean ====
section
/-! SUPPORT. Records of bytes: the fields written into them read back. -/

namespace Sys2Proof.Machine

@[simp] theorem toLe_length (n v : Nat) : (toLe n v).length = n := by
  induction n generalizing v with
  | zero => rfl
  | succ n ih => simp [toLe, ih]

/-- A little-endian number read back, modulo its width. -/
theorem leNat_toLe (n v : Nat) : leNat (toLe n v) = v % 256 ^ n := by
  induction n generalizing v with
  | zero => simp [toLe, leNat, Nat.mod_one]
  | succ n ih =>
    have h : leNat (toLe (n + 1) v) = v % 256 + 256 * leNat (toLe n (v / 256)) := by simp [toLe, leNat]
    rw [h, ih, Nat.pow_succ', Nat.mod_mul]

/-- A slice that ends inside the record. -/
theorem sliceZ_append (a b c : Bytes) : sliceZ (a ++ b ++ c) a.length b.length = b := by
  unfold sliceZ
  rw [List.append_assoc, List.drop_left, List.take_left]
  simp

/-- The field at the end of one part of a record. -/
theorem fieldN_append (a c : Bytes) (n v : Nat) : fieldN (a ++ toLe n v ++ c) a.length n = v % 256 ^ n := by
  unfold fieldN
  have h := sliceZ_append a (toLe n v) c
  rw [toLe_length] at h
  rw [h, leNat_toLe]

/-- A number whose bytes are all zero. -/
theorem leNat_zero (b : Bytes) (h : ∀ x ∈ b, x = 0) : leNat b = 0 := by
  induction b with
  | nil => rfl
  | cons x b ih =>
    have h1 : x = 0 := h x (by simp)
    have h2 : leNat b = 0 := ih fun y hy => h y (by simp [hy])
    subst h1
    simp [leNat, h2]

/-- A field in the part of a record that holds zeros only. -/
theorem fieldN_zero (b : Bytes) (off n : Nat) (h : ∀ i, off ≤ i → b.getD i 0 = 0) : fieldN b off n = 0 := by
  unfold fieldN sliceZ
  refine leNat_zero _ fun x hx => ?_
  rw [List.mem_append] at hx
  rcases hx with hx | hx
  · obtain ⟨i, hi, rfl⟩ := List.mem_iff_getElem.1 (List.mem_of_mem_take hx)
    have hlen : off + i < b.length := by simp at hi; omega
    have h1 := h (off + i) (by omega)
    rw [List.getElem_drop]
    simpa [List.getD, hlen] using h1
  · exact (List.mem_replicate.1 hx).2

end Sys2Proof.Machine
end

