-- ==== Sys2Proof/Laws/Device.lean ====
section
/-! SUPPORT. Device memory of a job that nothing delays or spoils: reads and writes of stretches of HBM. -/

namespace Sys2Proof.Machine

variable (s : State)

theorem State.plainRead_parts {j : Nat} (h : s.plainRead j = true) : s.mem.ecc = [] ∧ (s.job j).train.tagged = [] ∧ (s.job j).train.dirty = [] ∧
    (s.job j).train.owner = [] := by
  simpa [State.plainRead, and_assoc] using h

theorem State.plainRead_of_dev {j : Nat} (h : s.plainDev j = true) : s.plainRead j = true := by
  unfold State.plainDev at h
  rw [Bool.and_eq_true] at h
  exact h.1

theorem State.offTable_of_dev {j : Nat} (h : s.plainDev j = true) (a n : Nat) : s.offTable j a n := by
  unfold State.plainDev at h
  rw [Bool.and_eq_true] at h
  exact Or.inl (by simpa using h.2)

theorem State.offTable_part {j a n b k : Nat} (h : s.offTable j a n) (hb : a ≤ b) (hk : b + k ≤ a + n) : s.offTable j b k := by
  unfold State.offTable at *
  omega

theorem State.plainRead_withCells {j : Nat} (h : s.plainRead j = true) (m : Cells) : (s.withCells m).plainRead j = true := h

theorem State.offTable_withCells {j a n : Nat} (h : s.offTable j a n) (m : Cells) : (s.withCells m).offTable j a n := h

theorem State.plainDev_parts {j : Nat} (h : s.plainDev j = true) : s.mem.ecc = [] ∧ (s.job j).train.tagged = [] ∧ (s.job j).train.dirty = [] ∧
    (s.job j).train.owner = [] ∧ (s.job j).groupCount = 0 := by
  simpa [State.plainDev, State.plainRead, and_assoc] using h

theorem State.plainDev_withCells {j : Nat} (h : s.plainDev j = true) (m : Cells) : (s.withCells m).plainDev j = true := h

theorem State.reaches_withCells {j a n : Nat} (h : s.reaches j a n) (m : Cells) : (s.withCells m).reaches j a n := h

theorem State.reaches_part {j a n b k : Nat} (h : s.reaches j a n) (hb : a ≤ b) (hk : b + k ≤ a + n) : s.reaches j b k :=
  ⟨by have := h.1; omega, fun x h1 h2 => h.2 x (by omega) (by omega)⟩

/-- A read of committed work in plain device memory. -/
theorem State.readAs_dev {j : Nat} (h : s.plainRead j = true) (key n : Nat) : s.readAs j false key n = .ok (s.mem.read key n) s := by
  obtain ⟨he, ht, hd, ho⟩ := s.plainRead_parts h
  have hh : (s.job j).readHalf false key = key := by
    unfold Job.readHalf
    simp [ho]
  simp [State.readAs, Job.readWaits, hh, ht, State.readKey, Memory.bad, Memory.weak, he]

/-- A write of committed work in plain HBM. -/
theorem State.writeAs_dev {j : Nat} (h : s.plainRead j = true) {key : Nat} (hk : key < hbmEnd) (bs : Bytes) (hg : s.offTable j key bs.length) :
    s.writeAs j false key bs = .ok [] (if bs.isEmpty then s else s.withCells (cellWrite s.mem.cells key bs)) := by
  obtain ⟨he, ht, hd, ho⟩ := s.plainRead_parts h
  have hkf : s.keepForm j false key bs = bs := by
    unfold State.keepForm
    dsimp only
    exact if_pos hg
  have hh : (s.job j).writeHalf false key = key := by
    unfold Job.writeHalf
    simp [ho]
  have hw : (s.job j).writeWaits false key = false := by
    unfold Job.writeWaits
    split <;> simp [hd]
  have hws : isWs key = false := by
    unfold isWs
    simp only [decide_eq_false_iff_not]
    unfold hbmEnd at hk
    omega
  unfold State.writeAs
  simp only [hw, Bool.false_eq_true, if_false, hkf, Bool.and_false, hh, State.writeKey, hws, Bool.false_and]
  by_cases hb : bs.isEmpty = true
  · simp [hb]
  · simp only [hb, if_false, Memory.partlyBad, he, List.any_nil, Bool.false_eq_true]
    simp [State.withCells, State.setMem, Memory.write, he]

theorem State.resolve_hbm {j a : Nat} (w : Bool) (h : a < hbmEnd) : s.resolve j w a = s.resolveHbm j a := by
  unfold State.resolve
  rw [if_pos h]

theorem State.resolveSpan_hbm {j a n : Nat} (w : Bool) (h : s.reaches j a n) (hn : 0 < n) : s.resolveSpan j w a n = .mem a := by
  unfold State.resolveSpan
  have h1 := h.1
  rw [s.resolve_hbm w (by omega), s.resolve_hbm w (by omega), h.2 a (by omega) (by omega), h.2 (a + n - 1) (by omega) (by omega)]

theorem State.dmaRead_dev {j a n : Nat} (h : s.plainRead j = true) (hh : s.reaches j a n) (hn : 0 < n) :
    s.dmaRead j false a n = .ok (s.mem.read a n) s := by
  unfold State.dmaRead
  rw [s.resolveSpan_hbm false hh hn]
  exact s.readAs_dev h a n

theorem State.dmaWrite_dev {j a : Nat} {bs : Bytes} (h : s.plainRead j = true) (hg : s.offTable j a bs.length) (hh : s.reaches j a bs.length) (hn : 0 < bs.length) :
    s.dmaWrite j false a bs = .ok [] (s.withCells (cellWrite s.mem.cells a bs)) := by
  unfold State.dmaWrite
  rw [s.resolveSpan_hbm true hh hn]
  have hl := hh.1
  simp only [s.writeAs_dev h (show a < hbmEnd by omega) bs hg]
  cases bs with
  | nil => simp at hn
  | cons x y => rfl

theorem State.funnel_dmaRead {j : Nat} (h : s.plainRead j = true) (fuel a n : Nat) (acc : Bytes) (hf : n ≤ fuel) (hh : s.reaches j a n) :
    s.dmaReadAll j false (funnel fuel a n) acc = .ok (acc ++ s.mem.read a n) s := by
  induction fuel generalizing a n acc with
  | zero =>
    have : n = 0 := by omega
    simp [funnel, this, Memory.read, cellRead_zero, State.dmaReadAll]
  | succ fuel ih =>
    unfold funnel
    by_cases hn : n = 0
    · simp [hn, Memory.read, cellRead_zero, State.dmaReadAll]
    · have hm : 0 < 64 - a % 64 := by omega
      generalize hp : min n (64 - a % 64) = p
      rw [if_neg hn]
      dsimp only
      unfold State.dmaReadAll
      rw [s.dmaRead_dev h (s.reaches_part hh (Nat.le_refl a) (by omega)) (by omega)]
      simp only
      rw [ih _ _ _ (by omega) (s.reaches_part hh (by omega) (by omega))]
      congr 1
      rw [List.append_assoc]
      congr 1
      have hx : n = p + (n - p) := by omega
      unfold Memory.read
      conv_rhs => rw [hx, cellRead_append]

/-- A stretch of plain HBM reads as memory holds it, and reading changes nothing. -/
theorem State.readDev_plain {j a n : Nat} (h : s.plainRead j = true) (hh : s.reaches j a n) : s.readDev j false a n = .ok (s.mem.read a n) s := by
  unfold State.readDev
  rw [s.funnel_dmaRead h n a n [] (Nat.le_refl n) hh]
  simp

theorem State.funnel_dmaWrite {j : Nat} (h : s.plainRead j = true) (hm : cellsWf s.mem.cells = true) (fuel a : Nat) (bs : Bytes) (hf : bs.length ≤ fuel)
    (hh : s.reaches j a bs.length) (hg : s.offTable j a bs.length) : ∃ m, s.dmaWriteAll j false (funnel fuel a bs.length) bs = .ok [] (s.withCells m) ∧ cellsWf m = true ∧
      ∀ k, cellGet m k = if a ≤ k ∧ k < a + bs.length then bs.getD (k - a) 0 else cellGet s.mem.cells k := by
  induction fuel generalizing s a bs with
  | zero =>
    have : bs.length = 0 := by omega
    refine ⟨s.mem.cells, ?_, hm, fun k => ?_⟩
    · simp only [this, funnel, State.dmaWriteAll]; rfl
    · rw [if_neg (by omega)]
  | succ fuel ih =>
    unfold funnel
    by_cases h0 : bs.length = 0
    · rw [if_pos h0]
      refine ⟨s.mem.cells, rfl, hm, fun k => ?_⟩
      rw [if_neg (by omega)]
    · have hmod : 0 < 64 - a % 64 := by omega
      generalize hp : min bs.length (64 - a % 64) = p
      have hpl : (bs.take p).length = p := by simp; omega
      have hdl : (bs.drop p).length = bs.length - p := by simp
      rw [if_neg h0]
      dsimp only
      unfold State.dmaWriteAll
      rw [s.dmaWrite_dev h (s.offTable_part hg (Nat.le_refl a) (by omega)) (s.reaches_part hh (Nat.le_refl a) (by omega)) (by omega)]
      simp only
      rw [← hdl]
      obtain ⟨m, h1, h2, h3⟩ := ih (s.withCells (cellWrite s.mem.cells a (bs.take p))) (s.plainRead_withCells h _) (cellWrite_wf _ _ hm) (a + p) (bs.drop p)
        (by omega) (s.reaches_withCells (s.reaches_part hh (by omega) (by omega)) _) (s.offTable_withCells (s.offTable_part hg (by omega) (by omega)) _)
      refine ⟨m, h1, h2, fun k => ?_⟩
      rw [h3]
      have hw : (s.withCells (cellWrite s.mem.cells a (bs.take p))).mem.cells = cellWrite s.mem.cells a (bs.take p) := rfl
      rw [hw, cellGet_cellWrite _ _ _ hm, hpl, hdl]
      by_cases c1 : a + p ≤ k ∧ k < a + p + (bs.length - p)
      · rw [if_pos c1, if_pos (by omega)]
        simp only [List.getD_eq_getElem?_getD, List.getElem?_drop]
        congr 2; omega
      · rw [if_neg c1]
        by_cases c2 : a ≤ k ∧ k < a + p
        · rw [if_pos c2, if_pos (by omega)]
          simp only [List.getD_eq_getElem?_getD]
          rw [List.getElem?_take_of_lt (by omega)]
        · rw [if_neg c2, if_neg (by omega)]

/-- Bytes written to a stretch of plain HBM: memory with those bytes laid, everything else as it was. -/
theorem State.writeDev_plain {j a : Nat} {bs : Bytes} (h : s.plainRead j = true) (hm : cellsWf s.mem.cells = true) (hh : s.reaches j a bs.length)
    (hg : s.offTable j a bs.length) :
    ∃ m, s.writeDev j false a bs = .ok [] (s.withCells m) ∧ cellsWf m = true ∧
      ∀ k, cellGet m k = if a ≤ k ∧ k < a + bs.length then bs.getD (k - a) 0 else cellGet s.mem.cells k :=
  s.funnel_dmaWrite h hm bs.length a bs (Nat.le_refl _) hh hg

/-- No access of a peer to a stretch that the job holds is refused. -/
theorem State.peerFault_plain {j : Nat} (fuel a n : Nat) (hf : n ≤ fuel) (hh : s.reaches j a n) : s.peerFault j (funnel fuel a n) = none := by
  induction fuel generalizing a n with
  | zero =>
    have : n = 0 := by omega
    simp [funnel, State.peerFault]
  | succ fuel ih =>
    unfold funnel
    by_cases hn : n = 0
    · simp [hn, State.peerFault]
    · have hm : 0 < 64 - a % 64 := by omega
      generalize hp : min n (64 - a % 64) = p
      rw [if_neg hn]
      dsimp only
      unfold State.peerFault
      have h1 := hh.1
      have e1 : s.resolveForPeer j a = .mem a := by
        unfold State.resolveForPeer
        rw [if_pos (by omega), hh.2 a (by omega) (by omega)]
      have e2 : s.resolveForPeer j (a + p - 1) = .mem (a + p - 1) := by
        unfold State.resolveForPeer
        rw [if_pos (by omega), hh.2 _ (by omega) (by omega)]
      rw [e1, e2]
      simp only
      exact ih _ _ (by omega) (s.reaches_part hh (by omega) (by omega))

/-- The bytes that a peer reads. -/
theorem State.peerRead_plain {j : Nat} (h : s.plainDev j = true) (fuel a n : Nat) (acc : Bytes) (bad : List Nat) (hf : n ≤ fuel) (hh : s.reaches j a n) :
    State.peerRead j false (funnel fuel a n) s acc bad = some (s, acc ++ s.mem.read a n, bad) := by
  obtain ⟨he, ht, hd, ho, -⟩ := s.plainDev_parts h
  induction fuel generalizing a n acc with
  | zero =>
    have : n = 0 := by omega
    simp [funnel, this, Memory.read, cellRead_zero, State.peerRead]
  | succ fuel ih =>
    unfold funnel
    by_cases hn : n = 0
    · simp [hn, Memory.read, cellRead_zero, State.peerRead]
    · have hm : 0 < 64 - a % 64 := by omega
      generalize hp : min n (64 - a % 64) = p
      rw [if_neg hn]
      dsimp only
      unfold State.peerRead
      have h1 := hh.1
      have e1 : s.resolveForPeer j a = .mem a := by
        unfold State.resolveForPeer
        rw [if_pos (by omega), hh.2 a (by omega) (by omega)]
      have e2 : (s.job j).readHalf false a = a := by
        unfold Job.readHalf
        simp [ho]
      have e3 : s.readKey a p = some (s.mem.read a p, s) := by simp [State.readKey, Memory.bad, Memory.weak, he]
      have e4 : (s.job j).readWaits false a p = false := by simp [Job.readWaits, ht]
      rw [e1]
      simp only [e2, e3, e4, Bool.false_eq_true, if_false]
      rw [ih _ _ _ (by omega) (s.reaches_part hh (by omega) (by omega))]
      congr 2
      rw [List.append_assoc]
      congr 2
      have hx : n = p + (n - p) := by omega
      unfold Memory.read
      conv_rhs => rw [hx, cellRead_append]

end Sys2Proof.Machine
end

