-- ==== Sys2Proof/Laws/Sched.lean ====
section
/-! SUPPORT. Putting a task on a core, cores with nothing to take, and operands of array instructions in plain workspace. -/

namespace Sys2Proof.Machine

variable (s : State)

@[simp] theorem State.saveChans_cores (t : TaskRef) : (s.saveChans t).cores = s.cores := rfl
@[simp] theorem State.resumeChans_cores (t : TaskRef) : (s.resumeChans t).cores = s.cores := rfl

@[simp] theorem State.wakeDie_cores (d : Nat) : (s.wakeDie d).cores = s.cores := by
  unfold State.wakeDie
  split <;> simp

theorem State.core_of_cores {s u : State} (h : u.cores = s.cores) (c : Nat) : u.core c = s.core c := by simp [State.core, h]

/-- The core that a task has been put on. -/
theorem State.run_core {core : Nat} {t : TaskRef} {k : Task} (hk : s.task t = some k) (hc : core < s.cores.length) :
    (s.run core t).core core = { s.core core with running := some t
                                                  readyLc := (s.core core).readyLc.filter fun x => !(x == t)
                                                  readyBe := (s.core core).readyBe.filter fun x => !(x == t)
                                                  sliceOver := false
                                                  idle := 0 } := by
  unfold State.run
  rw [hk]
  dsimp only
  have key : ∀ u : State, u.cores = s.cores → (((u.setCore core fun c => { c with
      running := some t
      readyLc := c.readyLc.filter fun x => !(x == t)
      readyBe := c.readyBe.filter fun x => !(x == t)
      sliceOver := false }).wakeCore core).setTask t fun x => { x with inSlot := false, atPoint := false }).core core =
      { s.core core with running := some t, readyLc := (s.core core).readyLc.filter fun x => !(x == t),
                         readyBe := (s.core core).readyBe.filter fun x => !(x == t), sliceOver := false, idle := 0 } := by
    intro u hu
    have hl : core < u.cores.length := by rw [hu]; exact hc
    have h1 := State.core_of_cores hu core
    unfold State.wakeCore
    rw [State.core_setTask]
    rw [State.core_of_cores (State.wakeDie_cores _ _)]
    rw [State.core_setCore _ _ _ (by simpa using hl), State.core_setCore _ _ _ hl, h1]
  exact key _ (by split_ifs <;> rfl)

/-- Cores with no task waiting take none. -/
theorem State.fillAll_none (h : ∀ c, (s.core c).next = none) : s.fillAll = s := by
  unfold State.fillAll
  generalize List.range Config.coreSlots = l
  induction l with
  | nil => rfl
  | cons c l ih => rw [List.foldl_cons, h c]; simpa using ih

/-- What putting tasks on cores never touches: the keeper, the host interface, the fabric, memory, firmware, health, and the domain and
fence of every core. -/
def State.outerAs (s u : State) : Prop := u.keeper = s.keeper ∧ u.host = s.host ∧ u.fabric = s.fabric ∧ u.mem = s.mem ∧ u.fw = s.fw ∧
  u.health = s.health ∧ ∀ c, (u.core c).domain = (s.core c).domain ∧ (u.core c).fenced = (s.core c).fenced

theorem State.outerAs_refl (s : State) : s.outerAs s := ⟨rfl, rfl, rfl, rfl, rfl, rfl, fun _ => ⟨rfl, rfl⟩⟩

theorem State.outerAs_trans {s u v : State} (h : s.outerAs u) (g : u.outerAs v) : s.outerAs v := by
  obtain ⟨a1, a2, a3, a4, a5, a6, a7⟩ := h
  obtain ⟨b1, b2, b3, b4, b5, b6, b7⟩ := g
  exact ⟨b1.trans a1, b2.trans a2, b3.trans a3, b4.trans a4, b5.trans a5, b6.trans a6, fun c => ⟨(b7 c).1.trans (a7 c).1, (b7 c).2.trans (a7 c).2⟩⟩

theorem State.setCore_outerAs (s : State) (core : Nat) (f : Core → Core) (h : ∀ x, (f x).domain = x.domain ∧ (f x).fenced = x.fenced) :
    s.outerAs (s.setCore core f) := by
  refine ⟨rfl, rfl, rfl, rfl, rfl, rfl, fun c => ?_⟩
  by_cases hc : core = c
  · subst hc
    rcases Nat.lt_or_ge core s.cores.length with hl | hl
    · rw [State.core_setCore _ _ _ hl]; exact h _
    · unfold State.setCore State.core
      rw [List.modify_eq_self hl]; exact ⟨rfl, rfl⟩
  · rw [State.core_setCore_other _ _ _ _ hc]; exact ⟨rfl, rfl⟩

theorem State.wakeDie_outerAs (s : State) (d : Nat) : s.outerAs (s.wakeDie d) := by
  unfold State.wakeDie
  split
  · exact s.outerAs_refl
  · exact ⟨rfl, rfl, rfl, rfl, rfl, rfl, fun c => ⟨rfl, rfl⟩⟩

theorem State.run_outerAs (s : State) (core : Nat) (t : TaskRef) : s.outerAs (s.run core t) := by
  unfold State.run
  cases s.task t with
  | none => exact s.outerAs_refl
  | some k =>
    dsimp only
    have key : ∀ u : State, s.outerAs u → s.outerAs ((((u.setCore core fun c => { c with
        running := some t
        readyLc := c.readyLc.filter fun x => !(x == t)
        readyBe := c.readyBe.filter fun x => !(x == t)
        sliceOver := false }).wakeCore core).setTask t fun x => { x with inSlot := false, atPoint := false }).resumeChans t) := by
      intro u hu
      have h1 : u.outerAs ((u.setCore core fun c => { c with
        running := some t
        readyLc := c.readyLc.filter fun x => !(x == t)
        readyBe := c.readyBe.filter fun x => !(x == t)
        sliceOver := false }).wakeCore core) :=
        State.outerAs_trans (State.setCore_outerAs u core (fun c => { c with
        running := some t
        readyLc := c.readyLc.filter fun x => !(x == t)
        readyBe := c.readyBe.filter fun x => !(x == t)
        sliceOver := false }) fun _ => ⟨rfl, rfl⟩)
          (State.outerAs_trans (State.setCore_outerAs _ core (fun c => { c with idle := 0 }) fun _ => ⟨rfl, rfl⟩) (State.wakeDie_outerAs _ _))
      exact State.outerAs_trans hu h1
    apply key
    split_ifs
    all_goals exact ⟨rfl, rfl, rfl, rfl, rfl, rfl, fun c => ⟨rfl, rfl⟩⟩

theorem State.fill_outerAs (s : State) (core : Nat) : s.outerAs (s.fill core) := by
  unfold State.fill
  split
  · exact s.outerAs_refl
  · split
    · exact State.outerAs_trans (u := s.setCore core fun c => { c with
          readyLc := c.readyLc.filter _
          readyBe := c.readyBe.filter _ }) (State.setCore_outerAs s core _ fun _ => ⟨rfl, rfl⟩) (State.run_outerAs _ _ _)
    · exact s.outerAs_refl

/-- Filling the cores leaves everything but jobs, cores' schedules, dies and power as it was. -/
theorem State.fillAll_outerAs (s : State) : s.outerAs s.fillAll := by
  unfold State.fillAll
  generalize List.range Config.coreSlots = l
  induction l generalizing s with
  | nil => exact s.outerAs_refl
  | cons c l ih =>
    rw [List.foldl_cons]
    refine State.outerAs_trans ?_ (ih _)
    split
    · exact State.fill_outerAs s c
    · exact s.outerAs_refl

/-- Rows of an operand in plain workspace, one after another. -/
theorem State.readRows_plain {t : TaskRef} {k : Task} (h : s.plainWs t k = true) (len pitch n off : Nat) (acc : Bytes)
    (hb : ∀ i < n, off + i * pitch + len ≤ wsBytes) : State.readRows t k len pitch n off s acc =
      .ok (acc ++ ((List.range n).map fun i => s.mem.read (wsKey t.job k.home (off + i * pitch)) len).flatten) s := by
  induction n generalizing off acc with
  | zero => simp [State.readRows]
  | succ n ih =>
    unfold State.readRows
    have h0 := hb 0 (by omega)
    rw [s.readWs_plain h (by omega)]
    simp only
    rw [ih (off + pitch) _ (by intro i hi; have := hb (i + 1) (by omega); rw [Nat.add_mul] at this; omega)]
    congr 1
    rw [List.range_succ_eq_map, List.map_cons, List.map_map, List.append_assoc, List.flatten_cons]
    congr 1
    simp only [Nat.zero_mul, Nat.add_zero]
    congr 2
    apply List.map_congr_left
    intro i _
    simp only [Function.comp]
    congr 2
    rw [Nat.succ_mul]; omega

end Sys2Proof.Machine
end

