-- ==== Sys2Proof/Laws/Place.lean ====
section
/-! SUPPORT. Moving tasks between cores and putting them on: what these operations leave as it was, as one equality of states. -/

namespace Sys2Proof.Machine

/-- A core without what scheduling changes. -/
def Core.fixed (c : Core) : Core := { c with running := none, readyLc := [], readyBe := [], sliceOver := false, idle := 0 }

/-- A job without its tasks and channels. -/
def Job.fixed (b : Job) : Job := { b with tasks := [], chans := [] }

/-- A die without its gate. -/
def Die.fixed (d : Die) : Die := { d with gated := false, domain := 0 }

/-- A state without what scheduling changes: two states with the same base differ in the order and place of tasks, their channels and the
idle states of cores and dies alone. -/
def State.base (s : State) : State :=
  { s with cores := s.cores.map Core.fixed, jobs := s.jobs.map Job.fixed, dies := s.dies.map Die.fixed, power := { s.power with standby := false } }

theorem map_modify_same {α β : Type} (g : α → β) (f : α → α) (h : ∀ x, g (f x) = g x) (l : List α) (i : Nat) : (l.modify i f).map g = l.map g := by
  induction l generalizing i with
  | nil => cases i <;> rfl
  | cons x l ih => cases i <;> simp [h, ih]

theorem map_modify_two {α β : Type} (g : α → β) (f f' : α → α) (h : ∀ x, g (f x) = g (f' x)) (l : List α) (i : Nat) :
    (l.modify i f).map g = (l.modify i f').map g := by
  induction l generalizing i with
  | nil => cases i <;> rfl
  | cons x l ih => cases i with
    | zero => simp [h]
    | succ n => simp only [List.modify_succ_cons, List.map_cons, ih]

theorem map_mapIdx_same {α β : Type} (g : α → β) (f : Nat → α → α) (h : ∀ i x, g (f i x) = g x) (l : List α) : (l.mapIdx f).map g = l.map g := by
  induction l generalizing f with
  | nil => rfl
  | cons x l ih => simp only [List.mapIdx_cons, List.map_cons, h]; rw [ih]; exact fun i x => h (i + 1) x

theorem map_map_same {α β : Type} (g : α → β) (f : α → α) (h : ∀ x, g (f x) = g x) (l : List α) : (l.map f).map g = l.map g := by
  rw [List.map_map]; exact List.map_congr_left fun x _ => h x

theorem State.base_congr {s u : State} (h : u.base = s.base) : u.keeper = s.keeper ∧ u.host = s.host ∧ u.fabric = s.fabric ∧ u.mem = s.mem ∧
    u.fw = s.fw ∧ u.health = s.health ∧ u.ident = s.ident ∧ u.pending = s.pending ∧ u.cores.length = s.cores.length := by
  refine ⟨(by have e := congrArg State.keeper h; exact e), (by have e := congrArg State.host h; exact e), (by have e := congrArg State.fabric h; exact e), (by have e := congrArg State.mem h; exact e), (by have e := congrArg State.fw h; exact e), (by have e := congrArg State.health h; exact e),
    (by have e := congrArg State.ident h; exact e), (by have e := congrArg State.pending h; exact e), ?_⟩
  have := congrArg (fun x : State => x.cores.length) h
  simpa [State.base] using this

theorem State.base_core {s u : State} (h : u.base = s.base) (c : Nat) : (u.core c).fixed = (s.core c).fixed := by
  have h1 : u.cores.map Core.fixed = s.cores.map Core.fixed := congrArg State.cores h
  have h2 := congrArg (fun l => l.getD c ({} : Core).fixed) h1
  simpa [State.core, List.getD_eq_getElem?_getD, Option.getD_map] using h2

theorem State.base_job {s u : State} (h : u.base = s.base) (j : Nat) : (u.job j).fixed = (s.job j).fixed := by
  have h1 : u.jobs.map Job.fixed = s.jobs.map Job.fixed := congrArg State.jobs h
  have h2 := congrArg (fun l => l.getD j ({} : Job).fixed) h1
  simpa [State.job, List.getD_eq_getElem?_getD, Option.getD_map] using h2

/-- The fields of a core that scheduling leaves. -/
theorem Core.fixed_fields {a b : Core} (h : a.fixed = b.fixed) : a.domain = b.domain ∧ a.fenced = b.fenced ∧ a.fenceDue = b.fenceDue ∧
    a.delay = b.delay ∧ a.volt = b.volt ∧ a.activeUs = b.activeUs ∧ a.test = b.test ∧ a.testCmds = b.testCmds ∧ a.retest = b.retest ∧ a.dispute = b.dispute :=
  ⟨(by have e := congrArg Core.domain h; exact e), (by have e := congrArg Core.fenced h; exact e), (by have e := congrArg Core.fenceDue h; exact e), (by have e := congrArg Core.delay h; exact e), (by have e := congrArg Core.volt h; exact e), (by have e := congrArg Core.activeUs h; exact e),
    (by have e := congrArg Core.test h; exact e), (by have e := congrArg Core.testCmds h; exact e), (by have e := congrArg Core.retest h; exact e), (by have e := congrArg Core.dispute h; exact e)⟩

variable (s : State)

theorem State.base_setCore (c : Nat) (f : Core → Core) (h : ∀ x, (f x).fixed = x.fixed) : (s.setCore c f).base = s.base := by
  unfold State.base State.setCore
  simp only [map_modify_same Core.fixed f h]

theorem State.base_mapCores (f : Core → Core) (h : ∀ x, (f x).fixed = x.fixed) : ({ s with cores := s.cores.map f } : State).base = s.base := by
  unfold State.base
  simp only [map_map_same Core.fixed f h]

theorem State.base_setJob (j : Nat) (f : Job → Job) (h : ∀ x, (f x).fixed = x.fixed) : (s.setJob j f).base = s.base := by
  unfold State.base State.setJob
  simp only [map_modify_same Job.fixed f h]

theorem State.base_mapJobs (f : Nat → Job → Job) (h : ∀ i x, (f i x).fixed = x.fixed) : ({ s with jobs := s.jobs.mapIdx f } : State).base = s.base := by
  unfold State.base
  simp only [map_mapIdx_same Job.fixed f h]

theorem State.base_setTask (t : TaskRef) (f : Task → Task) : (s.setTask t f).base = s.base := State.base_setJob s _ _ (by intro; rfl)

theorem State.base_saveChans (t : TaskRef) : (s.saveChans t).base = s.base := State.base_setJob s _ _ (by intro; rfl)
theorem State.base_resumeChans (t : TaskRef) : (s.resumeChans t).base = s.base := State.base_setJob s _ _ (by intro; rfl)
theorem State.base_dequeue (t : TaskRef) : (s.dequeue t).base = s.base := State.base_mapCores s _ (by intro; rfl)

theorem State.base_enqueue (t : TaskRef) : (s.enqueue t).base = s.base := by
  unfold State.enqueue
  split
  · rfl
  · split
    · rfl
    · exact State.base_setCore s _ _ fun x => by split <;> rfl

theorem State.base_wakeDie (d : Nat) : (s.wakeDie d).base = s.base := by
  unfold State.wakeDie
  split
  · rfl
  · dsimp only
    unfold State.base State.setPower State.setDie
    simp only
    rw [map_mapIdx_same Job.fixed, map_modify_same Die.fixed]
    · exact fun _ => rfl
    · exact fun _ _ => rfl

theorem State.base_run (core : Nat) (t : TaskRef) : (s.run core t).base = s.base := by
  unfold State.run
  split
  · rfl
  · rename_i k
    dsimp only
    refine (State.base_resumeChans _ _).trans ((State.base_setTask _ _ _).trans ?_)
    unfold State.wakeCore
    rw [State.base_wakeDie, State.base_setCore, State.base_setCore]
    · split_ifs
      all_goals first
        | rfl
        | (rw [State.base_mapJobs]; intro i x; rfl)
    all_goals intro x; rfl

theorem State.base_fill (core : Nat) : (s.fill core).base = s.base := by
  unfold State.fill
  split
  · rfl
  · split
    · rw [State.base_run, State.base_setCore]
      intro x; rfl
    · rfl

theorem State.base_foldl {α : Type} (f : State → α → State) (h : ∀ s x, (f s x).base = s.base) (l : List α) : (l.foldl f s).base = s.base := by
  induction l generalizing s with
  | nil => rfl
  | cons x l ih => rw [List.foldl_cons, ih, h]

theorem State.base_fillAll : s.fillAll.base = s.base :=
  State.base_foldl s _ (fun s c => by split; exact State.base_fill s c; rfl) _

theorem State.base_moveOff (j core : Nat) {u : State} (h : s.moveOff j core = some u) : u.base = s.base := by
  unfold State.moveOff at h
  dsimp only at h
  generalize List.filter _ _ = l at h
  induction l generalizing s with
  | nil => cases h; rfl
  | cons i l ih =>
    rw [List.foldl_cons] at h
    simp only [Option.bind_some] at h
    cases hm : s.moveTarget j core with
    | none =>
      rw [hm] at h
      simp only [Option.map_none] at h
      exfalso
      have : ∀ (l : List Nat) (g : Option State → Nat → Option State), (∀ i, g none i = none) → l.foldl g none = none := by
        intro l g hg
        induction l with
        | nil => rfl
        | cons x l ih => rw [List.foldl_cons, hg, ih]
      rw [this l _ fun _ => rfl] at h
      cases h
    | some c =>
      rw [hm] at h
      simp only [Option.map_some] at h
      refine (ih _ h).trans ?_
      exact (State.base_enqueue _ _).trans ((State.base_setTask _ _ _).trans ((State.base_saveChans _ _).trans (State.base_dequeue _ _)))

theorem State.base_vacate (j core : Nat) : (s.vacate j core).base = s.base := by
  unfold State.vacate
  split
  · rename_i u h; exact State.base_moveOff s j core h
  · exact State.base_foldl s _ (fun s i => by
      dsimp only
      split
      · exact (State.base_setTask _ _ _).trans ((State.base_saveChans _ _).trans (State.base_dequeue _ _))
      · rfl) _

theorem State.base_comeHome (j core : Nat) : (s.comeHome j core).base = s.base := by
  unfold State.comeHome
  split
  · rfl
  · exact State.base_foldl s _ (fun s i => by
      dsimp only
      split
      · split
        · exact (State.base_enqueue _ _).trans ((State.base_setTask _ _ _).trans ((State.base_saveChans _ _).trans (State.base_dequeue _ _)))
        · rfl
      · rfl) _

theorem State.base_spread (j core : Nat) : (s.spread j core).base = s.base := by
  unfold State.spread
  exact State.base_foldl s _ (fun s i => by
    dsimp only
    split
    · rfl
    · split
      · exact (State.base_enqueue _ _).trans ((State.base_setTask _ _ _).trans (State.base_dequeue _ _))
      · rfl) _

/-- A core taken for its test. -/
theorem State.base_takeCore (core : Nat) : (s.takeCore core).base =
    (s.setCore core fun c => { c with liveMargins := (c.delay, c.volt), test := 3 }).base := by
  unfold State.takeCore
  refine (State.base_fillAll _).trans ((State.base_foldl _ _ (fun s j => State.base_vacate s j core) _).trans ?_)
  unfold State.base State.applyMargins State.setCore
  simp only
  congr 1
  rw [List.modify_modify_eq]
  apply map_modify_two Core.fixed
  intro x; rfl

/-- A tested core that takes work again. -/
theorem State.base_giveBack (core : Nat) : (s.giveBack core).base = (s.setCore core fun c => { c with test := 0 }).base := by
  unfold State.giveBack
  refine (State.base_fillAll _).trans ((State.base_foldl _ _ (fun s j => ?_) _).trans (State.base_foldl _ _ (fun s j => State.base_comeHome s j core) _))
  split
  · exact State.base_spread s j core
  · rfl

end Sys2Proof.Machine
end

