-- ==== Sys2Proof/Laws/Log.lean ====
section
/-! SUPPORT. What an error-log entry, an event and the capture of a dump leave as they are. -/

namespace Sys2Proof.Machine

/-- A log entry changes the log, its number, the mirror under way and, through KP_EVENT, the interrupts of the I3C port. -/
theorem Keeper.append_eq (k : Keeper) (e : LogEntry) : ∃ log mirroring event i3cIbi, k.append e = { k with
    log := log, logSeq := e.seq, mirroring := mirroring, event := event, i3cIbi := i3cIbi } := by
  unfold Keeper.append Keeper.mirror Keeper.raise
  dsimp only
  by_cases h4 : e.cls ≥ 4 <;> by_cases h5 : e.cls ≥ 5 ∨ e.seq + 32768 ≥ k.reservation <;> simp only [h4, h5, if_true, if_false] <;>
    exact ⟨_, _, _, _, rfl⟩

@[simp] theorem Keeper.append_logSeq (k : Keeper) (e : LogEntry) : (k.append e).logSeq = e.seq := by
  obtain ⟨_, _, _, _, h⟩ := k.append_eq e; rw [h]

@[simp] theorem Keeper.append_time (k : Keeper) (e : LogEntry) : (k.append e).time = k.time := by
  obtain ⟨_, _, _, _, h⟩ := k.append_eq e; rw [h]
@[simp] theorem Keeper.append_device (k : Keeper) (e : LogEntry) : (k.append e).device = k.device := by
  obtain ⟨_, _, _, _, h⟩ := k.append_eq e; rw [h]
@[simp] theorem Keeper.append_management (k : Keeper) (e : LogEntry) : (k.append e).management = k.management := by
  obtain ⟨_, _, _, _, h⟩ := k.append_eq e; rw [h]
@[simp] theorem Keeper.append_switrak (k : Keeper) (e : LogEntry) : (k.append e).switrak = k.switrak := by
  obtain ⟨_, _, _, _, h⟩ := k.append_eq e; rw [h]
@[simp] theorem Keeper.append_reservation (k : Keeper) (e : LogEntry) : (k.append e).reservation = k.reservation := by
  obtain ⟨_, _, _, _, h⟩ := k.append_eq e; rw [h]
@[simp] theorem Keeper.append_mirrors (k : Keeper) (e : LogEntry) : (k.append e).mirrors = k.mirrors := by
  obtain ⟨_, _, _, _, h⟩ := k.append_eq e; rw [h]
@[simp] theorem Keeper.append_mirrorNext (k : Keeper) (e : LogEntry) : (k.append e).mirrorNext = k.mirrorNext := by
  obtain ⟨_, _, _, _, h⟩ := k.append_eq e; rw [h]
@[simp] theorem Keeper.append_lastCause (k : Keeper) (e : LogEntry) : (k.append e).lastCause = k.lastCause := by
  obtain ⟨_, _, _, _, h⟩ := k.append_eq e; rw [h]
@[simp] theorem Keeper.append_lastKind (k : Keeper) (e : LogEntry) : (k.append e).lastKind = k.lastKind := by
  obtain ⟨_, _, _, _, h⟩ := k.append_eq e; rw [h]
@[simp] theorem Keeper.append_lastIndex (k : Keeper) (e : LogEntry) : (k.append e).lastIndex = k.lastIndex := by
  obtain ⟨_, _, _, _, h⟩ := k.append_eq e; rw [h]
@[simp] theorem Keeper.append_dump (k : Keeper) (e : LogEntry) : (k.append e).dump = k.dump := by
  obtain ⟨_, _, _, _, h⟩ := k.append_eq e; rw [h]
@[simp] theorem Keeper.append_mailbox (k : Keeper) (e : LogEntry) : (k.append e).mailbox = k.mailbox := by
  obtain ⟨_, _, _, _, h⟩ := k.append_eq e; rw [h]
@[simp] theorem Keeper.append_maquettes (k : Keeper) (e : LogEntry) : (k.append e).maquettes = k.maquettes := by
  obtain ⟨_, _, _, _, h⟩ := k.append_eq e; rw [h]
@[simp] theorem Keeper.append_resets (k : Keeper) (e : LogEntry) : (k.append e).resets = k.resets := by
  obtain ⟨_, _, _, _, h⟩ := k.append_eq e; rw [h]
@[simp] theorem Keeper.append_fenceAll (k : Keeper) (e : LogEntry) : (k.append e).fenceAll = k.fenceAll := by
  obtain ⟨_, _, _, _, h⟩ := k.append_eq e; rw [h]
@[simp] theorem Keeper.append_lasersOff (k : Keeper) (e : LogEntry) : (k.append e).lasersOff = k.lasersOff := by
  obtain ⟨_, _, _, _, h⟩ := k.append_eq e; rw [h]
@[simp] theorem Keeper.append_switrakLaser (k : Keeper) (e : LogEntry) : (k.append e).switrakLaser = k.switrakLaser := by
  obtain ⟨_, _, _, _, h⟩ := k.append_eq e; rw [h]
@[simp] theorem Keeper.append_held (k : Keeper) (e : LogEntry) : (k.append e).held = k.held := by
  obtain ⟨_, _, _, _, h⟩ := k.append_eq e; rw [h]
@[simp] theorem Keeper.append_tripped (k : Keeper) (e : LogEntry) : (k.append e).tripped = k.tripped := by
  obtain ⟨_, _, _, _, h⟩ := k.append_eq e; rw [h]
@[simp] theorem Keeper.append_therm (k : Keeper) (e : LogEntry) : (k.append e).therm = k.therm := by
  obtain ⟨_, _, _, _, h⟩ := k.append_eq e; rw [h]
@[simp] theorem Keeper.append_off (k : Keeper) (e : LogEntry) : (k.append e).off = k.off := by
  obtain ⟨_, _, _, _, h⟩ := k.append_eq e; rw [h]
@[simp] theorem Keeper.append_detEnforced (k : Keeper) (e : LogEntry) : (k.append e).detEnforced = k.detEnforced := by
  obtain ⟨_, _, _, _, h⟩ := k.append_eq e; rw [h]
@[simp] theorem Keeper.append_corrected (k : Keeper) (e : LogEntry) : (k.append e).corrected = k.corrected := by
  obtain ⟨_, _, _, _, h⟩ := k.append_eq e; rw [h]
@[simp] theorem Keeper.append_shadowAge (k : Keeper) (e : LogEntry) : (k.append e).shadowAge = k.shadowAge := by
  obtain ⟨_, _, _, _, h⟩ := k.append_eq e; rw [h]
@[simp] theorem Keeper.append_frozen (k : Keeper) (e : LogEntry) : (k.append e).frozen = k.frozen := by
  obtain ⟨_, _, _, _, h⟩ := k.append_eq e; rw [h]
@[simp] theorem Keeper.append_stallLogged (k : Keeper) (e : LogEntry) : (k.append e).stallLogged = k.stallLogged := by
  obtain ⟨_, _, _, _, h⟩ := k.append_eq e; rw [h]
@[simp] theorem Keeper.append_i3cAddr (k : Keeper) (e : LogEntry) : (k.append e).i3cAddr = k.i3cAddr := by
  obtain ⟨_, _, _, _, h⟩ := k.append_eq e; rw [h]
@[simp] theorem Keeper.append_i3cOffset (k : Keeper) (e : LogEntry) : (k.append e).i3cOffset = k.i3cOffset := by
  obtain ⟨_, _, _, _, h⟩ := k.append_eq e; rw [h]
@[simp] theorem Keeper.append_i3cData (k : Keeper) (e : LogEntry) : (k.append e).i3cData = k.i3cData := by
  obtain ⟨_, _, _, _, h⟩ := k.append_eq e; rw [h]
@[simp] theorem Keeper.append_i3cId (k : Keeper) (e : LogEntry) : (k.append e).i3cId = k.i3cId := by
  obtain ⟨_, _, _, _, h⟩ := k.append_eq e; rw [h]

variable (s : State) (code cls : Nat) (d : Domain) (job a0 a1 a2 : Nat)

@[simp] theorem State.log_logSeq : (s.log code cls d job a0 a1 a2).keeper.logSeq = s.keeper.logSeq + 1 := Keeper.append_logSeq _ _
@[simp] theorem State.log_keeper_time : (s.log code cls d job a0 a1 a2).keeper.time = s.keeper.time := Keeper.append_time _ _
@[simp] theorem State.log_keeper_device : (s.log code cls d job a0 a1 a2).keeper.device = s.keeper.device := Keeper.append_device _ _
@[simp] theorem State.log_keeper_management : (s.log code cls d job a0 a1 a2).keeper.management = s.keeper.management := Keeper.append_management _ _
@[simp] theorem State.log_keeper_switrak : (s.log code cls d job a0 a1 a2).keeper.switrak = s.keeper.switrak := Keeper.append_switrak _ _
@[simp] theorem State.log_keeper_reservation : (s.log code cls d job a0 a1 a2).keeper.reservation = s.keeper.reservation := Keeper.append_reservation _ _
@[simp] theorem State.log_keeper_mirrors : (s.log code cls d job a0 a1 a2).keeper.mirrors = s.keeper.mirrors := Keeper.append_mirrors _ _
@[simp] theorem State.log_keeper_mirrorNext : (s.log code cls d job a0 a1 a2).keeper.mirrorNext = s.keeper.mirrorNext := Keeper.append_mirrorNext _ _
@[simp] theorem State.log_keeper_lastCause : (s.log code cls d job a0 a1 a2).keeper.lastCause = s.keeper.lastCause := Keeper.append_lastCause _ _
@[simp] theorem State.log_keeper_lastKind : (s.log code cls d job a0 a1 a2).keeper.lastKind = s.keeper.lastKind := Keeper.append_lastKind _ _
@[simp] theorem State.log_keeper_lastIndex : (s.log code cls d job a0 a1 a2).keeper.lastIndex = s.keeper.lastIndex := Keeper.append_lastIndex _ _
@[simp] theorem State.log_keeper_dump : (s.log code cls d job a0 a1 a2).keeper.dump = s.keeper.dump := Keeper.append_dump _ _
@[simp] theorem State.log_keeper_mailbox : (s.log code cls d job a0 a1 a2).keeper.mailbox = s.keeper.mailbox := Keeper.append_mailbox _ _
@[simp] theorem State.log_keeper_maquettes : (s.log code cls d job a0 a1 a2).keeper.maquettes = s.keeper.maquettes := Keeper.append_maquettes _ _
@[simp] theorem State.log_keeper_resets : (s.log code cls d job a0 a1 a2).keeper.resets = s.keeper.resets := Keeper.append_resets _ _
@[simp] theorem State.log_keeper_fenceAll : (s.log code cls d job a0 a1 a2).keeper.fenceAll = s.keeper.fenceAll := Keeper.append_fenceAll _ _
@[simp] theorem State.log_keeper_lasersOff : (s.log code cls d job a0 a1 a2).keeper.lasersOff = s.keeper.lasersOff := Keeper.append_lasersOff _ _
@[simp] theorem State.log_keeper_switrakLaser : (s.log code cls d job a0 a1 a2).keeper.switrakLaser = s.keeper.switrakLaser := Keeper.append_switrakLaser _ _
@[simp] theorem State.log_keeper_held : (s.log code cls d job a0 a1 a2).keeper.held = s.keeper.held := Keeper.append_held _ _
@[simp] theorem State.log_keeper_tripped : (s.log code cls d job a0 a1 a2).keeper.tripped = s.keeper.tripped := Keeper.append_tripped _ _
@[simp] theorem State.log_keeper_therm : (s.log code cls d job a0 a1 a2).keeper.therm = s.keeper.therm := Keeper.append_therm _ _
@[simp] theorem State.log_keeper_off : (s.log code cls d job a0 a1 a2).keeper.off = s.keeper.off := Keeper.append_off _ _
@[simp] theorem State.log_keeper_detEnforced : (s.log code cls d job a0 a1 a2).keeper.detEnforced = s.keeper.detEnforced := Keeper.append_detEnforced _ _
@[simp] theorem State.log_keeper_corrected : (s.log code cls d job a0 a1 a2).keeper.corrected = s.keeper.corrected := Keeper.append_corrected _ _
@[simp] theorem State.log_keeper_shadowAge : (s.log code cls d job a0 a1 a2).keeper.shadowAge = s.keeper.shadowAge := Keeper.append_shadowAge _ _
@[simp] theorem State.log_keeper_frozen : (s.log code cls d job a0 a1 a2).keeper.frozen = s.keeper.frozen := Keeper.append_frozen _ _
@[simp] theorem State.log_keeper_stallLogged : (s.log code cls d job a0 a1 a2).keeper.stallLogged = s.keeper.stallLogged := Keeper.append_stallLogged _ _
@[simp] theorem State.log_keeper_i3cAddr : (s.log code cls d job a0 a1 a2).keeper.i3cAddr = s.keeper.i3cAddr := Keeper.append_i3cAddr _ _
@[simp] theorem State.log_keeper_i3cOffset : (s.log code cls d job a0 a1 a2).keeper.i3cOffset = s.keeper.i3cOffset := Keeper.append_i3cOffset _ _
@[simp] theorem State.log_keeper_i3cData : (s.log code cls d job a0 a1 a2).keeper.i3cData = s.keeper.i3cData := Keeper.append_i3cData _ _
@[simp] theorem State.log_keeper_i3cId : (s.log code cls d job a0 a1 a2).keeper.i3cId = s.keeper.i3cId := Keeper.append_i3cId _ _

/-- The capture of a dump changes the dump's registers, the log, events and the dump region of memory only. -/
theorem State.capture_frame (n : Nat) : (s.capture n d).cores = s.cores ∧ (s.capture n d).dies = s.dies ∧ (s.capture n d).fabric = s.fabric ∧
    (s.capture n d).host = s.host ∧ (s.capture n d).jobs = s.jobs ∧ (s.capture n d).power = s.power ∧ (s.capture n d).fw = s.fw ∧
    (s.capture n d).health = s.health := by
  unfold State.capture
  split <;> simp

@[simp] theorem State.capture_keeper_time (n : Nat) : (s.capture n d).keeper.time = s.keeper.time := by
  unfold State.capture; split
  · simp
  · rfl
@[simp] theorem State.capture_keeper_device (n : Nat) : (s.capture n d).keeper.device = s.keeper.device := by
  unfold State.capture; split
  · simp
  · rfl
@[simp] theorem State.capture_keeper_management (n : Nat) : (s.capture n d).keeper.management = s.keeper.management := by
  unfold State.capture; split
  · simp
  · rfl
@[simp] theorem State.capture_keeper_switrak (n : Nat) : (s.capture n d).keeper.switrak = s.keeper.switrak := by
  unfold State.capture; split
  · simp
  · rfl
@[simp] theorem State.capture_keeper_reservation (n : Nat) : (s.capture n d).keeper.reservation = s.keeper.reservation := by
  unfold State.capture; split
  · simp
  · rfl
@[simp] theorem State.capture_keeper_mirrors (n : Nat) : (s.capture n d).keeper.mirrors = s.keeper.mirrors := by
  unfold State.capture; split
  · simp
  · rfl
@[simp] theorem State.capture_keeper_mirrorNext (n : Nat) : (s.capture n d).keeper.mirrorNext = s.keeper.mirrorNext := by
  unfold State.capture; split
  · simp
  · rfl
@[simp] theorem State.capture_keeper_lastCause (n : Nat) : (s.capture n d).keeper.lastCause = s.keeper.lastCause := by
  unfold State.capture; split
  · simp
  · rfl
@[simp] theorem State.capture_keeper_lastKind (n : Nat) : (s.capture n d).keeper.lastKind = s.keeper.lastKind := by
  unfold State.capture; split
  · simp
  · rfl
@[simp] theorem State.capture_keeper_lastIndex (n : Nat) : (s.capture n d).keeper.lastIndex = s.keeper.lastIndex := by
  unfold State.capture; split
  · simp
  · rfl
@[simp] theorem State.capture_keeper_mailbox (n : Nat) : (s.capture n d).keeper.mailbox = s.keeper.mailbox := by
  unfold State.capture; split
  · simp
  · rfl
@[simp] theorem State.capture_keeper_maquettes (n : Nat) : (s.capture n d).keeper.maquettes = s.keeper.maquettes := by
  unfold State.capture; split
  · simp
  · rfl
@[simp] theorem State.capture_keeper_resets (n : Nat) : (s.capture n d).keeper.resets = s.keeper.resets := by
  unfold State.capture; split
  · simp
  · rfl
@[simp] theorem State.capture_keeper_fenceAll (n : Nat) : (s.capture n d).keeper.fenceAll = s.keeper.fenceAll := by
  unfold State.capture; split
  · simp
  · rfl
@[simp] theorem State.capture_keeper_lasersOff (n : Nat) : (s.capture n d).keeper.lasersOff = s.keeper.lasersOff := by
  unfold State.capture; split
  · simp
  · rfl
@[simp] theorem State.capture_keeper_switrakLaser (n : Nat) : (s.capture n d).keeper.switrakLaser = s.keeper.switrakLaser := by
  unfold State.capture; split
  · simp
  · rfl
@[simp] theorem State.capture_keeper_held (n : Nat) : (s.capture n d).keeper.held = s.keeper.held := by
  unfold State.capture; split
  · simp
  · rfl
@[simp] theorem State.capture_keeper_tripped (n : Nat) : (s.capture n d).keeper.tripped = s.keeper.tripped := by
  unfold State.capture; split
  · simp
  · rfl
@[simp] theorem State.capture_keeper_therm (n : Nat) : (s.capture n d).keeper.therm = s.keeper.therm := by
  unfold State.capture; split
  · simp
  · rfl
@[simp] theorem State.capture_keeper_off (n : Nat) : (s.capture n d).keeper.off = s.keeper.off := by
  unfold State.capture; split
  · simp
  · rfl
@[simp] theorem State.capture_keeper_detEnforced (n : Nat) : (s.capture n d).keeper.detEnforced = s.keeper.detEnforced := by
  unfold State.capture; split
  · simp
  · rfl
@[simp] theorem State.capture_keeper_corrected (n : Nat) : (s.capture n d).keeper.corrected = s.keeper.corrected := by
  unfold State.capture; split
  · simp
  · rfl
@[simp] theorem State.capture_keeper_shadowAge (n : Nat) : (s.capture n d).keeper.shadowAge = s.keeper.shadowAge := by
  unfold State.capture; split
  · simp
  · rfl
@[simp] theorem State.capture_keeper_frozen (n : Nat) : (s.capture n d).keeper.frozen = s.keeper.frozen := by
  unfold State.capture; split
  · simp
  · rfl
@[simp] theorem State.capture_keeper_stallLogged (n : Nat) : (s.capture n d).keeper.stallLogged = s.keeper.stallLogged := by
  unfold State.capture; split
  · simp
  · rfl
@[simp] theorem State.capture_keeper_i3cAddr (n : Nat) : (s.capture n d).keeper.i3cAddr = s.keeper.i3cAddr := by
  unfold State.capture; split
  · simp
  · rfl
@[simp] theorem State.capture_keeper_i3cOffset (n : Nat) : (s.capture n d).keeper.i3cOffset = s.keeper.i3cOffset := by
  unfold State.capture; split
  · simp
  · rfl
@[simp] theorem State.capture_keeper_i3cData (n : Nat) : (s.capture n d).keeper.i3cData = s.keeper.i3cData := by
  unfold State.capture; split
  · simp
  · rfl
@[simp] theorem State.capture_keeper_i3cId (n : Nat) : (s.capture n d).keeper.i3cId = s.keeper.i3cId := by
  unfold State.capture; split
  · simp
  · rfl

/-- An event stays set through a log entry and the capture of a dump. -/
theorem State.log_event (i : Nat) (h : s.keeper.event.testBit i = true) : (s.log code cls d job a0 a1 a2).keeper.event.testBit i = true := by
  unfold State.log Keeper.append Keeper.mirror Keeper.raise State.setKeeper
  dsimp only
  split_ifs <;> simp [Nat.testBit_or, h]

theorem State.capture_event (n i : Nat) (h : s.keeper.event.testBit i = true) : (s.capture n d).keeper.event.testBit i = true := by
  unfold State.capture
  split
  · exact State.log_event _ _ _ _ _ _ _ _ i h
  · show ((_ : Nat) ||| _).testBit i = true
    rw [Nat.testBit_or]
    simp only [Bool.or_eq_true]
    exact Or.inl h


end Sys2Proof.Machine
end

