-- ==== Sys2Proof/Laws/Notices.lean ====
section
/-! SUPPORT. Notices and patina: what sending a CONTROL message, a suspicion or a patina event leaves as it was, as one equality of states. -/

namespace Sys2Proof.Machine

/-- A port without the messages it has to send. -/
def Port.mute (x : Port) : Port := { x with link := { x.link with tx := [] } }

/-- A job without its membership. -/
def Job.alone (b : Job) : Job := { b with member := none }

/-- A state without messages to send and without what the memberships of its jobs say. -/
def State.calm (s : State) : State :=
  { s with jobs := s.jobs.map Job.alone, fabric := { s.fabric with ports := s.fabric.ports.map Port.mute } }

theorem State.calm_congr {s u : State} (h : u.calm = s.calm) : u.keeper = s.keeper ∧ u.host = s.host ∧ u.cores = s.cores ∧ u.mem = s.mem ∧
    u.fw = s.fw ∧ u.health = s.health ∧ u.ident = s.ident ∧ u.pending = s.pending ∧ u.dies = s.dies ∧ u.power = s.power ∧ u.waiting = s.waiting := by
  refine ⟨?_, ?_, ?_, ?_, ?_, ?_, ?_, ?_, ?_, ?_, ?_⟩
  · have e := congrArg State.keeper h; exact e
  · have e := congrArg State.host h; exact e
  · have e := congrArg State.cores h; exact e
  · have e := congrArg State.mem h; exact e
  · have e := congrArg State.fw h; exact e
  · have e := congrArg State.health h; exact e
  · have e := congrArg State.ident h; exact e
  · have e := congrArg State.pending h; exact e
  · have e := congrArg State.dies h; exact e
  · have e := congrArg State.power h; exact e
  · have e := congrArg State.waiting h; exact e

theorem State.calm_port {s u : State} (h : u.calm = s.calm) (p : Nat) : (u.port p).mute = (s.port p).mute := by
  have h1 : u.fabric.ports.map Port.mute = s.fabric.ports.map Port.mute := congrArg (fun x : State => x.fabric.ports) h
  have h2 := congrArg (fun l => l.getD p ({} : Port).mute) h1
  simpa [State.port, List.getD_eq_getElem?_getD, Option.getD_map] using h2

theorem State.calm_job {s u : State} (h : u.calm = s.calm) (j : Nat) : (u.job j).alone = (s.job j).alone := by
  have h1 : u.jobs.map Job.alone = s.jobs.map Job.alone := congrArg State.jobs h
  have h2 := congrArg (fun l => l.getD j ({} : Job).alone) h1
  simpa [State.job, List.getD_eq_getElem?_getD, Option.getD_map] using h2

/-- The fields of a port that notices leave. -/
theorem Port.mute_fields {a b : Port} (h : a.mute = b.mute) : a.state = b.state ∧ a.width = b.width ∧ a.lane = b.lane ∧ a.cause = b.cause ∧
    a.lanesGood = b.lanesGood ∧ a.rttNs = b.rttNs ∧ a.neighbour = b.neighbour ∧ a.role = b.role ∧ a.laser = b.laser ∧ a.domain = b.domain ∧
    a.retrainTimes = b.retrainTimes ∧ a.count = b.count ∧ { a.link with tx := [] } = { b.link with tx := [] } := by
  refine ⟨?_, ?_, ?_, ?_, ?_, ?_, ?_, ?_, ?_, ?_, ?_, ?_, ?_⟩
  · have e := congrArg Port.state h; exact e
  · have e := congrArg Port.width h; exact e
  · have e := congrArg Port.lane h; exact e
  · have e := congrArg Port.cause h; exact e
  · have e := congrArg Port.lanesGood h; exact e
  · have e := congrArg Port.rttNs h; exact e
  · have e := congrArg Port.neighbour h; exact e
  · have e := congrArg Port.role h; exact e
  · have e := congrArg Port.laser h; exact e
  · have e := congrArg Port.domain h; exact e
  · have e := congrArg Port.retrainTimes h; exact e
  · have e := congrArg Port.count h; exact e
  · have e := congrArg Port.link h; exact e

variable (s : State)

theorem State.calm_setMember (j : Nat) (f : Membership → Membership) : (s.setMember j f).calm = s.calm := by
  unfold State.calm State.setMember State.setJob
  simp only
  rw [map_modify_same Job.alone]
  intro x; rfl

theorem State.calm_txPut (p cls : Nat) (route : U64) (m : Msg) : (s.txPut p cls route m).calm = s.calm := by
  unfold State.calm State.txPut State.setLink State.setPort State.setFabric
  simp only
  rw [map_modify_same Port.mute]
  intro x; rfl

theorem State.calm_send {cls : Nat} {m : Msg} {p : Nat} {u : State} (h : s.send cls m = some (p, u)) : u.calm = s.calm := by
  unfold State.send at h
  split at h
  · cases h
  · split at h
    · cases h
    · split at h
      · cases h; exact State.calm_txPut s _ _ _ _
      · cases h

theorem State.calm_control (j : Nat) (d : U32) (kind : Nat) (body : List Nat) : (s.control j d kind body).calm = s.calm := by
  unfold State.control
  split
  · rfl
  · dsimp only
    split
    · rename_i h; exact State.calm_send s h
    · rfl

theorem State.calm_foldl {α : Type} (f : State → α → State) (h : ∀ s x, (f s x).calm = s.calm) (l : List α) : (l.foldl f s).calm = s.calm := by
  induction l generalizing s with
  | nil => rfl
  | cons x l ih => rw [List.foldl_cons, ih, h]

theorem State.calm_toChildren (j kind : Nat) (body : List Nat) : (s.toChildren j kind body).calm = s.calm := by
  unfold State.toChildren
  split
  · exact State.calm_foldl s _ (fun s d => State.calm_control s _ _ _ _) _
  · rfl

theorem State.calm_suspect (j : Nat) (d : U32) (reason : Nat) (owns : Bool) : (s.suspect j d reason owns).calm = s.calm := by
  unfold State.suspect
  split
  · rfl
  · dsimp only
    split
    · rfl
    · generalize [d.toNat, reason, if owns = true then 1 else 0] = body
      have hn : ∀ v : State, (v.noteSuspect j d reason owns).calm = v.calm := fun v => State.calm_setMember v _ _
      rename_i m _ _
      have hf : ∀ (l : List U32) (f : Membership → Membership), (l.foldl (fun s x => s.control j x 3 body) (s.setMember j f)).calm = s.calm := fun l f =>
        (State.calm_foldl _ _ (fun s x => State.calm_control s _ _ _ _) l).trans (State.calm_setMember s j f)
      generalize hv : List.foldl _ (s.setMember j _) _ = v
      have := hf (m.root.toList ++ m.deputies).dedup fun m => { m with suspects := if reason = 1 ∨ reason = 2 ∨ reason = 3 ∨ reason = 7 then m.suspects ++ [d] else m.suspects }
      rw [hv] at this
      split
      · exact (hn v).trans this
      · exact this

theorem State.calm_suspectAll (d : U32) (reason : Nat) : (s.suspectAll d reason).calm = s.calm :=
  State.calm_foldl s _ (fun s _ => State.calm_suspect s _ _ _ _) _

theorem State.calm_wornNotice (reason : Nat) : (s.wornNotice reason).calm = s.calm :=
  State.calm_foldl s _ (fun s _ => State.calm_suspect s _ _ _ _) _

theorem State.calm_setHealth (u v : State) (h : u.calm = v.calm) (H : Health) : ({ u with health := H } : State).calm = ({ v with health := H } : State).calm := by
  have e := congrArg (fun x : State => ({ x with health := H } : State)) h; exact e

/-- A patina event changes the accumulator, the two flags and the flash copy of health, and sends its notices. -/
theorem State.calm_patina (n : Nat) : ∃ H : Health, (s.patina n).calm = ({ s with health := H } : State).calm ∧
    H.acc = min (s.health.acc + n) 1048575 ∧ H.worn = (s.health.worn || decide (600 ≤ H.acc / 1024)) ∧
    H.retire = (s.health.retire || decide (900 ≤ H.acc / 1024)) ∧ H.retries = s.health.retries ∧ H.retrains = s.health.retrains ∧
    H.lanes = s.health.lanes ∧ H.corrected = s.health.corrected ∧ H.transient = s.health.transient ∧ H.testTransients = s.health.testTransients := by
  unfold State.patina
  dsimp only
  generalize hA : min (s.health.acc + n) 1048575 = A
  have hw : (s.health.worn || (!s.health.worn && decide (A / 1024 ≥ 600))) = (s.health.worn || decide (600 ≤ A / 1024)) := by
    cases s.health.worn <;> simp
  have hr : (s.health.retire || (!s.health.retire && decide (A / 1024 ≥ 900))) = (s.health.retire || decide (900 ≤ A / 1024)) := by
    cases s.health.retire <;> simp
  generalize hv : (s.setHealth fun h => { h with acc := A, worn := h.worn || (!s.health.worn && decide (A / 1024 ≥ 600)), retire := h.retire || (!s.health.retire && decide (A / 1024 ≥ 900)) }) = v
  have hvh : v = { s with health := v.health } := by rw [← hv]; rfl
  have hvf : v.health.acc = A ∧ v.health.worn = (s.health.worn || decide (600 ≤ A / 1024)) ∧ v.health.retire = (s.health.retire || decide (900 ≤ A / 1024)) ∧
      v.health.retries = s.health.retries ∧ v.health.retrains = s.health.retrains ∧ v.health.lanes = s.health.lanes ∧ v.health.corrected = s.health.corrected ∧
      v.health.transient = s.health.transient ∧ v.health.testTransients = s.health.testTransients := by
    rw [← hv]; exact ⟨rfl, hw, hr, rfl, rfl, rfl, rfl, rfl, rfl⟩
  have h1 : ∀ (b : Bool), (if b = true then v.wornNotice 5 else v).calm = v.calm := by
    intro b; split
    · exact State.calm_wornNotice v 5
    · rfl
  have h2 := h1 (!s.health.worn && decide (A / 1024 ≥ 600))
  generalize (if (!s.health.worn && decide (A / 1024 ≥ 600)) = true then v.wornNotice 5 else v) = w at h2 ⊢
  have hwh : w.health = v.health := (State.calm_congr h2).2.2.2.2.2.1
  split
  · refine ⟨w.flashCopy.health, ?_, ?_⟩
    · rw [State.calm_wornNotice]
      have e := State.calm_setHealth w v h2 w.flashCopy.health
      rw [hvh] at e
      exact e
    · have e : w.flashCopy.health = { v.health with flash := w.flashCopy.health.flash } := by
        rw [← hwh]; rfl
      rw [e]
      obtain ⟨a, b, c, d, f⟩ := hvf
      exact ⟨a, by rw [a]; exact b, by rw [a]; exact c, d, f⟩
  · refine ⟨v.health, ?_, ?_⟩
    · rw [h2, ← hvh]
    · obtain ⟨a, b, c, d, f⟩ := hvf
      exact ⟨a, by rw [a]; exact b, by rw [a]; exact c, d, f⟩

theorem State.calm_setPort {u v : State} (h : u.calm = v.calm) (p : Nat) (f : Port → Port) (hf : ∀ x y : Port, x.mute = y.mute → (f x).mute = (f y).mute) :
    (u.setPort p f).calm = (v.setPort p f).calm := by
  have hp : u.fabric.ports.map Port.mute = v.fabric.ports.map Port.mute := congrArg (fun x : State => x.fabric.ports) h
  have key : ∀ (l m : List Port) (i : Nat), l.map Port.mute = m.map Port.mute → (l.modify i f).map Port.mute = (m.modify i f).map Port.mute := by
    intro l
    induction l with
    | nil => intro m i h; cases m with
      | nil => rfl
      | cons y m => simp at h
    | cons x l ih => intro m i h; cases m with
      | nil => simp at h
      | cons y m =>
        simp only [List.map_cons, List.cons.injEq] at h
        cases i with
        | zero => simp only [List.modify_zero_cons, List.map_cons, List.cons.injEq]; exact ⟨hf _ _ h.1, h.2⟩
        | succ i => simp only [List.modify_succ_cons, List.map_cons, List.cons.injEq]; exact ⟨h.1, ih _ _ h.2⟩
  have h2 := key _ _ p hp
  have e := congrArg (fun x : State => ({ x with fabric := { x.fabric with ports := (u.fabric.ports.modify p f).map Port.mute } } : State)) h
  have e2 : (u.setPort p f).calm = ({ v.calm with fabric := { v.calm.fabric with ports := (u.fabric.ports.modify p f).map Port.mute } } : State) := e
  rw [e2, h2]; rfl

theorem State.calm_setKeeper {u v : State} (h : u.calm = v.calm) (f : Keeper → Keeper) : (u.setKeeper f).calm = (v.setKeeper f).calm := by
  have e := congrArg (fun x : State => x.setKeeper f) h; exact e

theorem State.calm_setHealth_congr {u v : State} (h : u.calm = v.calm) (f : Health → Health) : (u.setHealth f).calm = (v.setHealth f).calm := by
  have e := congrArg (fun x : State => x.setHealth f) h; exact e

theorem State.calm_dropTransit (p : Nat) (m : Msg) : (s.dropTransit p m).calm = s.calm := by
  unfold State.dropTransit
  split
  · rfl
  · dsimp only
    split
    · rfl
    · split
      · rename_i h; exact State.calm_send s h
      · rfl

/-- A port that fails with no transaction of this module under way through it. -/
theorem State.calm_portFail (p cause : Nat) (h : (s.port p).state ≠ 4 ∧ (s.port p).state ≠ 0) (hx : (s.fabric.txns.filter fun t => t.port == p) = []) :
    ∃ K : Keeper, (s.portFail p cause).calm =
      (({ s with keeper := K } : State).setPort p fun x => { x with state := 4, cause := cause, link := {}, width := 0, laser := false }).calm := by
  unfold State.portFail
  rw [if_neg (by omega)]
  dsimp only
  have he : ((s.setPort p fun x => { x with state := 4, cause := cause }).endPort p).calm =
      (s.setPort p fun x => { x with state := 4, cause := cause, link := {}, width := 0, laser := false }).calm := by
    unfold State.endPort
    dsimp only
    have hx' : ((s.setPort p fun x => { x with state := 4, cause := cause }).fabric.txns.filter fun t => t.port == p) = [] := hx
    rw [hx']
    refine (State.calm_foldl _ _ (fun s (t : TxMsg) => State.calm_dropTransit s p t.msg) _).trans ?_
    show (State.setPort (State.setPort s p _) p _).calm = _
    unfold State.setPort State.setFabric
    simp only [List.modify_modify_eq]
    rfl
  generalize State.endPort _ p = v at he ⊢
  refine ⟨(v.log 0x0107 2 (portDomain p) 0xFFFF cause 0 0).keeper, ?_⟩
  have hl : (v.log 0x0107 2 (portDomain p) 0xFFFF cause 0 0).calm =
      (({ s with keeper := (v.log 0x0107 2 (portDomain p) 0xFFFF cause 0 0).keeper } : State).setPort p fun x => { x with state := 4, cause := cause, link := {}, width := 0, laser := false }).calm := by
    have e := congrArg (fun x : State => ({ x with keeper := (v.log 0x0107 2 (portDomain p) 0xFFFF cause 0 0).keeper } : State)) he
    exact e
  split
  · rw [State.calm_suspectAll]; exact hl
  · exact hl

/-- A port that leaves UP for RETRAIN, but for its fourth time within 10 ms. -/
theorem State.calm_retrain (p : Nat) (h : (s.port p).state = 2) :
    let times := ((s.port p).retrainTimes.filter fun t => decide (s.keeper.time < t + 10000)) ++ [s.keeper.time]
    ∃ v : State, s.retrain p = (if times.length ≥ 4 then v.portFail p 1 else v) ∧
    ∃ (K : Keeper) (H : Health), v.calm = (({ s with keeper := K, health := H } : State).setPort p fun x => { x with
      state := 3, retrainTimes := times
      count := { x.count with retrains := sat32 (x.count.retrains + 1) }
      link := { x.link with retry := x.link.retry.map fun (f : SentFlit) => { f with resends := 0 } } }).calm ∧
      H.retrains = sat32 (s.health.retrains + 1) ∧ H.acc = min (s.health.acc + 2048) 1048575 := by
  intro times
  unfold State.retrain
  rw [if_neg (by simp [h])]
  dsimp only
  obtain ⟨H, h1, h2, -, -, -, h3, -⟩ := State.calm_patina (((s.setPort p fun x => { x with
      state := 3, retrainTimes := times
      count := { x.count with retrains := sat32 (x.count.retrains + 1) }
      link := { x.link with retry := x.link.retry.map fun (f : SentFlit) => { f with resends := 0 } } }).setHealth fun h => { h with retrains := sat32 (h.retrains + 1) }).setKeeper
      fun k => k.countCorrected (portDomain p) 0 0 1) 2048
  refine ⟨_, rfl, _, H, h1.trans rfl, h3, h2⟩

theorem State.setPort_setPort (p : Nat) (f g : Port → Port) : (s.setPort p f).setPort p g = s.setPort p fun x => g (f x) := by
  unfold State.setPort State.setFabric; simp only [List.modify_modify_eq]; rfl

/-- Retries counted at a port. -/
theorem State.calm_countRetries (p n : Nat) (hn : n ≠ 0) : ∃ (K : Keeper) (H : Health), (s.countRetries p n).calm =
    (({ s with keeper := K, health := H } : State).setPort p fun x => { x with count := { x.count with retries := sat32 (x.count.retries + n) } }).calm := by
  unfold State.countRetries
  rw [if_neg hn]
  obtain ⟨G, g1, -⟩ := State.calm_patina (((s.setCount p fun c => { c with retries := sat32 (c.retries + n) }).setHealth fun h => { h with retries := h.retries + n }).setKeeper
    fun k => k.countCorrected (portDomain p) 0 n 0) n
  exact ⟨s.keeper.countCorrected (portDomain p) 0 n 0, G, g1⟩

/-- Every held flit resent, from the oldest, each for at most the third time. -/
theorem State.calm_resendFrom (p : Nat) {x : SentFlit} (h : (s.port p).link.retry.head? = some x) (hr : ∀ f ∈ (s.port p).link.retry, f.resends < 3) :
    ∃ (K : Keeper) (H : Health), (s.resendFrom p x.seq).calm = (({ s with keeper := K, health := H } : State).setPort p fun y => { y with
      link := { y.link with retry := (s.port p).link.retry.map fun (f : SentFlit) => { f with resends := f.resends + 1 } }
      count := { y.count with retries := sat32 (y.count.retries + (s.port p).link.retry.length) } }).calm := by
  unfold State.resendFrom
  dsimp only
  obtain ⟨rest, hcons⟩ : ∃ rest, (s.port p).link.retry = x :: rest := by
    cases hc : (s.port p).link.retry with
    | nil => rw [hc] at h; cases h
    | cons a b => rw [hc] at h; cases h; exact ⟨b, rfl⟩
  have htw : (s.port p).link.retry.takeWhile (fun f => f.seq != x.seq) = [] := by rw [hcons]; simp
  rw [htw]
  simp only [List.length_nil, List.drop_zero, List.nil_append]
  have hany : ((s.port p).link.retry.any fun f => decide (f.resends + 1 ≥ 4)) = false := by
    rw [List.any_eq_false]
    intro f hf
    have := hr f hf
    simp only [decide_eq_true_eq]; omega
  rw [hany]
  simp only [Bool.false_eq_true, if_false]
  have hne : (s.port p).link.retry.length ≠ 0 := by rw [hcons]; simp
  obtain ⟨K, H, hc⟩ := State.calm_countRetries (s.setLink p fun l => { l with retry := (s.port p).link.retry.map fun (f : SentFlit) => { f with resends := f.resends + 1 } }) p (s.port p).link.retry.length hne
  exact ⟨K, H, hc.trans (congrArg State.calm (State.setPort_setPort { s with keeper := K, health := H } p _ _))⟩

/-- What a change of one port and of the keeper and health leaves. -/
theorem State.calm_kept (v w : State) (p : Nat) (f : Port → Port) (h : v.calm = (w.setPort p f).calm) (hm : w.mem = s.mem) (hj : w.jobs = s.jobs)
    (hf : w.fabric = s.fabric) : v.mem = s.mem ∧ (∀ j, (v.job j).tasks = (s.job j).tasks) ∧ (∀ q, q ≠ p → (v.port q).mute = (s.port q).mute) ∧
    (p < s.fabric.ports.length → (v.port p).mute = (f (s.port p)).mute) ∧ v.health = w.health := by
  have c1 := State.calm_congr h
  refine ⟨c1.2.2.2.1.trans hm, ?_, ?_, ?_, c1.2.2.2.2.2.1⟩
  · intro j
    have e := congrArg Job.tasks (State.calm_job h j)
    refine (show (v.job j).tasks = (w.job j).tasks from e).trans ?_
    unfold State.job; rw [hj]
  · intro q hq
    have e := State.calm_port h q
    rw [State.port_setPort_other _ _ _ _ (Ne.symm hq)] at e
    have e2 : w.port q = s.port q := by unfold State.port; rw [hf]
    rw [e2] at e
    exact e
  · intro hp
    have e := State.calm_port h p
    rw [State.port_setPort _ _ _ (by rw [hf]; exact hp)] at e
    have e2 : w.port p = s.port p := by unfold State.port; rw [hf]
    rw [e2] at e
    exact e

end Sys2Proof.Machine
end

