-- ==== Sys2Proof/Laws/Resets.lean ====
section
/-! SUPPORT. What the resets and the lasers' going dark leave behind: domains, ports and what they do not touch. -/

namespace Sys2Proof.Machine

/-- Cores with their domain state set, one by one. -/
theorem mem_setCores (cs : List Core) (p : Nat → Bool) (v : Nat) : ∀ x ∈ setCores cs p v, ∃ c ∈ cs, ∃ i, x = if p i then { c with domain := v } else c := by
  intro x hx
  unfold setCores at hx
  rw [List.mem_mapIdx] at hx
  obtain ⟨i, hi, rfl⟩ := hx
  exact ⟨cs[i], List.getElem_mem hi, i, rfl⟩

/-- Every core with its domain state set. -/
theorem setCores_all (cs : List Core) (v : Nat) : ∀ x ∈ setCores cs (fun _ => true) v, x.domain = v := by
  intro x hx
  obtain ⟨c, -, i, rfl⟩ := mem_setCores cs _ v x hx
  rfl

/-- The end of a port on a fabric with nothing under way. -/
theorem State.endPort_quiet (s : State) (p : Nat) (h1 : s.fabric.txns = []) (h2 : (s.port p).link.tx = []) :
    s.endPort p = s.setPort p fun x => { x with link := {}, width := 0, laser := false } := by
  simp [State.endPort, h1, h2]

/-- A port read after a port was changed. -/
theorem State.port_setPort_if (s : State) (p q : Nat) (f : Port → Port) : (s.setPort p f).port q = if p = q ∧ p < s.fabric.ports.length then f (s.port q) else s.port q := by
  by_cases hpq : p = q
  · subst hpq
    by_cases hl : p < s.fabric.ports.length
    · rw [State.port_setPort _ _ _ hl]; simp [hl]
    · unfold State.setPort State.setFabric State.port
      simp only
      rw [List.modify_eq_self (Nat.le_of_not_lt hl)]; simp [hl]
  · rw [State.port_setPort_other _ _ _ _ hpq]; simp [hpq]

/-- Ports that go dark on a fabric with nothing under way are DOWN with their lasers off; the others are as they were. -/
theorem State.darken_ports (l : List Nat) (s : State) (h1 : s.fabric.txns = []) (h2 : ∀ p, (s.port p).link.tx = []) :
    let u := l.foldl (fun s p => (s.endPort p).setPort p fun x => { x with state := 0, laser := false, retrainTimes := [] }) s
    ∀ p, if p ∈ l then (u.port p).state = 0 ∧ (u.port p).laser = false else u.port p = s.port p := by
  induction l generalizing s with
  | nil => intro u p; simp [u]
  | cons x l ih =>
    intro u p
    have hx := State.endPort_quiet s x h1 (h2 x)
    have hu : u = l.foldl (fun s p => (s.endPort p).setPort p fun x => { x with state := 0, laser := false, retrainTimes := [] })
      ((s.setPort x fun x => { x with link := {}, width := 0, laser := false }).setPort x fun x => { x with state := 0, laser := false, retrainTimes := [] }) := by
      simp only [u, List.foldl_cons, hx]
    have ih' := ih ((s.setPort x fun x => { x with link := {}, width := 0, laser := false }).setPort x fun x => { x with state := 0, laser := false, retrainTimes := [] }) h1 (by
      intro p
      rw [State.port_setPort_if, State.port_setPort_if]
      split
      · split
        · rfl
        · exact h2 p
      · split
        · rfl
        · exact h2 p) p
    rw [← hu] at ih'
    by_cases hp : p ∈ l
    · simpa [hp] using ih'
    · simp only [hp, if_false] at ih'
      by_cases hpx : p = x
      · subst hpx
        simp only [List.mem_cons, true_or, if_true]
        rw [ih', State.port_setPort_if, State.port_setPort_if]
        have hlen : (s.setPort p fun x => { x with link := {}, width := 0, laser := false }).fabric.ports.length = s.fabric.ports.length := by simp [State.setPort, State.setFabric]
        by_cases hl : p < s.fabric.ports.length
        · rw [if_pos ⟨rfl, by rw [hlen]; exact hl⟩]; exact ⟨rfl, rfl⟩
        · rw [if_neg (by rw [hlen]; exact fun h => hl h.2), if_neg (fun h => hl h.2)]
          have : s.port p = {} := by simp [State.port, List.getD, List.getElem?_eq_none (Nat.le_of_not_lt hl)]
          rw [this]; exact ⟨rfl, rfl⟩
      · simp only [List.mem_cons, hpx, hp, or_self, if_false]
        rw [ih', State.port_setPort_if, State.port_setPort_if]
        simp [Ne.symm hpx]

/-- They leave the keeper as it was. -/
theorem State.darken_keeper (l : List Nat) (s : State) (h1 : s.fabric.txns = []) (h2 : ∀ p, (s.port p).link.tx = []) :
    (l.foldl (fun s p => (s.endPort p).setPort p fun x => { x with state := 0, laser := false, retrainTimes := [] }) s).keeper = s.keeper := by
  induction l generalizing s with
  | nil => rfl
  | cons x l ih =>
    rw [List.foldl_cons, State.endPort_quiet s x h1 (h2 x), ih]
    · rfl
    · exact h1
    · intro p
      rw [State.port_setPort_if, State.port_setPort_if]
      split
      · split
        · rfl
        · exact h2 p
      · split
        · rfl
        · exact h2 p

/-- GOODBYE sets LEAVING and leaves the keeper as it was. -/
theorem State.sayGoodbye_frame (s : State) (ports : List Nat) : (s.sayGoodbye ports).fabric.leaving = true ∧ (s.sayGoodbye ports).keeper = s.keeper := by
  refine ⟨rfl, ?_⟩
  unfold State.sayGoodbye
  show (List.foldl (fun (s : State) p => s.controlPort p 2 0 []) s _).keeper = s.keeper
  generalize List.filter _ ports = l
  induction l generalizing s with
  | nil => rfl
  | cons x l ih => rw [List.foldl_cons, ih]; rfl

/-- Waking the units of a domain leaves the keeper, the host interface, memory, firmware and the fabric as they were. -/
theorem State.wakeDomain_frame (u : State) (d : Domain) : (u.wakeDomain d).keeper = u.keeper ∧ (u.wakeDomain d).host = u.host ∧ (u.wakeDomain d).mem = u.mem ∧ (u.wakeDomain d).fw = u.fw ∧ (u.wakeDomain d).fabric = u.fabric := by
  unfold State.wakeDomain
  dsimp only
  generalize List.range 4 = l
  induction l generalizing u with
  | nil => exact ⟨rfl, rfl, rfl, rfl, rfl⟩
  | cons x l ih =>
    rw [List.foldl_cons]
    obtain ⟨a, b, c, e, g⟩ := ih (if d.kind = 0 ∨ (d.kind = 2 ∧ x = d.index) ∨ (d.kind = 1 ∧ x = dieOf d.index) then u.wakeDie x else u)
    rw [a, b, c, e, g]
    split
    · unfold State.wakeDie
      dsimp only
      split <;> exact ⟨rfl, rfl, rfl, rfl, rfl⟩
    · exact ⟨rfl, rfl, rfl, rfl, rfl⟩

/-- A device reset that begins fences the device and halts every ring. -/
theorem State.beginReset_device (s : State) (src : Nat) (nd : Bool) : (s.beginReset devDomain src nd).keeper.device = 1 ∧
    (∃ x, (s.beginReset devDomain src nd).keeper.resets = (s.keeper.resets.filter fun x => !covers devDomain x.domain) ++ [x] ∧ x.domain = devDomain ∧ x.source = src ∧ x.stage = 1 ∧ x.noDump = nd) ∧
    (∀ q ∈ (s.beginReset devDomain src nd).host.rings, q.state ≠ 1) ∧ (s.beginReset devDomain src nd).mem = s.mem := by
  obtain ⟨a, b, c, e, g⟩ := State.wakeDomain_frame (s.log 0x0401 (resetClass devDomain src) devDomain 0xFFFF src 0 0) devDomain
  unfold State.beginReset
  dsimp only
  generalize (s.log 0x0401 (resetClass devDomain src) devDomain 0xFFFF src 0 0).wakeDomain devDomain = u at a b c e g ⊢
  rw [if_pos (show devDomain.kind = 0 ∨ devDomain.kind = 5 from Or.inl rfl), if_pos (show devDomain.kind = 0 ∨ devDomain.kind = 4 ∨ devDomain.kind = 5 from Or.inl rfl)]
  have hmem : ∀ (v w : State), w.mem = v.mem → (w.setDomain devDomain 1).mem = v.mem := fun v w h => h
  refine ⟨rfl, ⟨{ domain := devDomain, source := src, cls := resetClass devDomain src, noDump := nd, stage := 1, jobs := u.resetJobs devDomain }, ?_, rfl, rfl, rfl, rfl⟩, ?_, ?_⟩
  · show List.filter _ u.keeper.resets ++ _ = _
    rw [a]; simp
  · intro q hq
    change q ∈ List.map _ _ at hq
    rw [List.mem_map] at hq
    obtain ⟨y, -, rfl⟩ := hq
    split
    · show (2 : Nat) ≠ 1; decide
    · assumption
  · exact (hmem u _ rfl).trans c

/-- Every domain without power. -/
theorem State.setDomain_off (u : State) : (∀ x ∈ (u.setDomain devDomain 4).cores, x.domain = 4) ∧ (∀ x ∈ (u.setDomain devDomain 4).dies, x.domain = 4) ∧
    (u.setDomain devDomain 4).keeper.device = 4 ∧ (u.setDomain devDomain 4).keeper.management = 4 ∧ (u.setDomain devDomain 4).keeper.switrak = 4 := by
  refine ⟨setCores_all _ _, ?_, rfl, rfl, rfl⟩
  intro x hx
  change x ∈ List.map _ _ at hx
  rw [List.mem_map] at hx
  obtain ⟨y, -, rfl⟩ := hx
  show (if _ then 4 else 4) = 4
  split <;> rfl

end Sys2Proof.Machine
end

