-- ==== Sys2Proof/Laws/Messages.lean ====
section
/-! SUPPORT. Messages: what taking one out of a port's buffers and putting one in front of a port leave, and the membership of a job after
a change of one. -/

namespace Sys2Proof.Machine

variable (s : State)

/-- The second state differs from the first in messages to send only, and has every message the first has to send. -/
def State.sends (s u : State) : Prop :=
  (∃ ps : List Port, u = { s with fabric := { s.fabric with ports := ps } } ∧ ps.length = s.fabric.ports.length) ∧
    ∀ q, (u.port q).state = (s.port q).state ∧ (u.port q).neighbour = (s.port q).neighbour ∧ ∀ x ∈ (s.port q).link.tx, x ∈ (u.port q).link.tx

theorem State.sends_refl : s.sends s := ⟨⟨s.fabric.ports, rfl, rfl⟩, fun _ => ⟨rfl, rfl, fun _ h => h⟩⟩

theorem State.sends_trans {s u v : State} (h : s.sends u) (g : u.sends v) : s.sends v := by
  obtain ⟨⟨ps, rfl, hl⟩, h2⟩ := h
  obtain ⟨⟨qs, rfl, hm⟩, g2⟩ := g
  refine ⟨⟨qs, rfl, hm.trans hl⟩, fun q => ⟨(g2 q).1.trans (h2 q).1, (g2 q).2.1.trans (h2 q).2.1, fun x hx => (g2 q).2.2 x ((h2 q).2.2 x hx)⟩⟩

/-- What is the same in both states. -/
theorem State.sends_fields {s u : State} (h : s.sends u) : u.mem = s.mem ∧ u.cores = s.cores ∧ u.jobs = s.jobs ∧ u.ident = s.ident ∧ u.keeper = s.keeper ∧
    u.health = s.health ∧ u.host = s.host ∧ u.fw = s.fw ∧ u.fabric.beat = s.fabric.beat ∧ u.fabric.leaving = s.fabric.leaving ∧ u.fabric.routes = s.fabric.routes ∧
    u.fabric.ports.length = s.fabric.ports.length := by
  obtain ⟨⟨ps, rfl, hl⟩, -⟩ := h
  exact ⟨rfl, rfl, rfl, rfl, rfl, rfl, rfl, rfl, rfl, rfl, rfl, hl⟩

theorem State.sends_txPut (p cls : Nat) (route : U64) (m : Msg) : s.sends (s.txPut p cls route m) := by
  unfold State.txPut State.setLink
  dsimp only
  refine ⟨⟨_, rfl, List.length_modify ..⟩, fun q => ?_⟩
  rw [State.port_setPort_if]
  split
  · exact ⟨rfl, rfl, fun x hx => List.mem_append_left _ hx⟩
  · exact ⟨rfl, rfl, fun x hx => hx⟩

theorem State.sends_send {cls : Nat} {m : Msg} {p : Nat} {u : State} (h : s.send cls m = some (p, u)) : s.sends u := by
  unfold State.send at h
  split at h
  · cases h
  · split at h
    · cases h
    · split at h
      · cases h; exact s.sends_txPut _ _ _ _
      · cases h

theorem State.sends_control (j : Nat) (d : U32) (kind : Nat) (body : List Nat) : s.sends (s.control j d kind body) := by
  unfold State.control
  split
  · exact s.sends_refl
  · dsimp only
    split
    · rename_i h; exact s.sends_send h
    · exact s.sends_refl

theorem State.sends_controlDev (d : U32) (kind low : Nat) (b : Bytes) : s.sends (s.controlDev d kind low b) := by
  unfold State.controlDev
  dsimp only
  split
  · rename_i h; exact s.sends_send h
  · exact s.sends_refl

theorem State.sends_foldl {α : Type} (f : State → α → State) (h : ∀ (s : State) x, s.sends (f s x)) (l : List α) : s.sends (l.foldl f s) := by
  induction l generalizing s with
  | nil => exact s.sends_refl
  | cons x l ih => exact State.sends_trans (h s x) (ih (f s x))

theorem State.sends_toAll (j kind : Nat) (body : List Nat) (ds : List U32) : s.sends (s.toAll j kind body ds) :=
  s.sends_foldl _ (fun s d => State.sends_control s j d kind body) ds

/-- What taking a message out of the buffers of a port leaves. -/
theorem State.takeRx_fields (p : Nat) (m : Msg) : (s.takeRx p m).jobs = s.jobs ∧ (s.takeRx p m).fw = s.fw ∧ (s.takeRx p m).ident = s.ident ∧
    (s.takeRx p m).mem = s.mem ∧ (s.takeRx p m).cores = s.cores ∧ (s.takeRx p m).keeper = s.keeper ∧ (s.takeRx p m).health = s.health ∧
    ∀ q, ((s.takeRx p m).port q).neighbour = (s.port q).neighbour := by
  unfold State.takeRx
  split
  · refine ⟨rfl, rfl, rfl, rfl, rfl, rfl, rfl, fun q => ?_⟩
    unfold State.setLink
    rw [State.port_setPort_if]
    split <;> rfl
  · exact ⟨rfl, rfl, rfl, rfl, rfl, rfl, rfl, fun _ => rfl⟩

/-- The membership of the job that is changed. -/
theorem State.job_setMember (j : Nat) (f : Membership → Membership) (h : j < s.jobs.length) :
    (s.setMember j f).job j = { s.job j with member := (s.job j).member.map f } := State.job_setJob _ _ _ h

/-- The other jobs. -/
theorem State.job_setMember_other (j k : Nat) (f : Membership → Membership) (h : j ≠ k) : (s.setMember j f).job k = s.job k :=
  State.job_setJob_other _ _ _ _ h

@[simp] theorem State.setMember_jobs_length (j : Nat) (f : Membership → Membership) : (s.setMember j f).jobs.length = s.jobs.length := by
  unfold State.setMember State.setJob
  simp

/-- Jobs whose lists agree. -/
theorem State.job_of_jobs {s u : State} (h : u.jobs = s.jobs) (j : Nat) : u.job j = s.job j := by simp [State.job, h]

/-- What is known of a member is all that changes. -/
theorem Membership.setInfo_eq (m : Membership) (d : U32) (f : MemberInfo → MemberInfo) : ∃ l, m.setInfo d f = { m with infos := l } := by
  unfold Membership.setInfo
  split <;> exact ⟨_, rfl⟩

/-- An entry of what is known of a member after it is changed. -/
theorem Membership.setInfo_mem (m : Membership) (d : U32) (f : MemberInfo → MemberInfo) (hf : ∀ i, (f i).device = i.device) :
    ∃ i, (m.setInfo d f).infos.any (fun x => x == f i) = true ∧ (f i).device = d ∧ (m.setInfo d f).members = m.members := by
  unfold Membership.setInfo
  split
  · rename_i h
    rw [List.any_eq_true] at h
    obtain ⟨i, hi, hd⟩ := h
    refine ⟨i, ?_, by rw [hf]; simpa using hd, rfl⟩
    rw [List.any_eq_true]
    exact ⟨f i, List.mem_map.2 ⟨i, hi, by rw [if_pos hd]⟩, by simp⟩
  · exact ⟨{ device := d }, by simp, by rw [hf], rfl⟩

/-- A CONTROL message of another kind, or one that has not arrived, changes nothing. -/
theorem controlRow_skip {p : Nat} {m : Msg} {kind : Nat} {act : Nat → State → State}
    (h : ¬ (s.arrived p m 0x20 = true ∧ bitsOf m.hdr.address.toNat 56 8 = kind)) : controlRow p m kind act s = s := by
  unfold controlRow
  rw [if_pos]
  by_cases ha : s.arrived p m 0x20 = true
  · exact Or.inr fun hk => h ⟨ha, hk⟩
  · exact Or.inl (by simpa using ha)

/-- A CONTROL message of a job from another device than a member of it is dropped and counted; from a member it takes effect (R244). -/
theorem controlRow_take {p : Nat} {m : Msg} {kind : Nat} {act : Nat → State → State}
    (h : s.arrived p m 0x20 = true ∧ bitsOf m.hdr.address.toNat 56 8 = kind) : controlRow p m kind act s =
      if m.hdr.job < 64 ∧ s.inDeviceSet m.hdr.source = true ∧ (s.job m.hdr.job).knowsMember m.hdr.source = true
      then act m.hdr.job (s.takeRx p m) else (s.takeRx p m).wardDrop p := by
  obtain ⟨e1, e2, -⟩ := s.takeRx_fields p m
  have hset : (s.takeRx p m).inDeviceSet m.hdr.source = s.inDeviceSet m.hdr.source := by unfold State.inDeviceSet; rw [e2]
  unfold controlRow
  rw [if_neg (by rw [h.1]; intro hh; rcases hh with hh | hh; cases hh; exact hh h.2)]
  dsimp only
  rw [hset, State.job_of_jobs e1]

end Sys2Proof.Machine
end

