-- ==== Sys2Proof/Laws/Ops.lean ====
section
/-! SUPPORT. One law for each shared operation: how a meaning answers, how an instruction of a task is issued, how a ring command
begins, is checked and is answered. -/

namespace Sys2Proof.Machine

variable (s : State)

/-! ## The answer of a meaning -/

@[simp] theorem State.become_eq (t : State) : s.become t = .next (s.keep t) := rfl

/-- A meaning that changes nothing answers the state as it was. -/
@[simp] theorem State.keep_self : s.keep s = s := rfl

@[simp] theorem State.keep_keep (t u : State) : s.keep (t.keep u) = s.keep u := rfl

/-! ## Issue of a task's instruction -/

theorem State.issue_eq {t : TaskRef} {k : Task} (hc : s.canIssue t = true) (hk : s.task t = some k) :
    s.issue t = some (k, s.did t id) := by
  simp [State.issue, hc, hk, State.did]

theorem State.issue_none {t : TaskRef} (hc : s.canIssue t = false) : s.issue t = none := by
  simp [State.issue, hc]

theorem State.issueUnit_eq {t : TaskRef} {k : Task} (hc : s.canIssue t = true) (hk : s.task t = some k) :
    s.issueUnit t = some (k, s.unitDid t k.core id) := by
  simp [State.issueUnit, s.issue_eq hc hk, State.unitDid]

theorem State.issueUnit_none {t : TaskRef} (hc : s.canIssue t = false) : s.issueUnit t = none := by
  simp [State.issueUnit, s.issue_none hc]

/-- A task that can issue exists. -/
theorem State.task_of_canIssue {t : TaskRef} (hc : s.canIssue t = true) : ∃ k, s.task t = some k := by
  unfold State.canIssue at hc
  cases h : s.task t with
  | none => simp [h] at hc
  | some k => exact ⟨k, rfl⟩

/-- The task after `did` is the changed task. -/
theorem State.task_did {t : TaskRef} {k : Task} (hk : s.task t = some k) (f : Task → Task) :
    (s.did t f).task t = some (f { k with atPoint := false }) := s.task_setTask hk _

theorem State.task_unitDid {t : TaskRef} {k : Task} (core : Nat) (hk : s.task t = some k) (f : Task → Task) :
    (s.unitDid t core f).task t = some (f { k with atPoint := false }) := s.task_setTask hk _

/-- A change of the task after `did` is one `did`. -/
theorem State.did_setTask (t : TaskRef) (f g : Task → Task) : (s.did t f).setTask t g = s.did t fun x => g (f x) :=
  s.setTask_setTask t _ _

theorem State.unitDid_setTask (t : TaskRef) (core : Nat) (f g : Task → Task) :
    (s.unitDid t core f).setTask t g = s.unitDid t core fun x => g (f x) := by
  unfold State.unitDid
  rw [State.setCore_setTask, State.did_setTask]

/-! ## Ring commands -/

/-- A command that may begin acts on the state with its beginning marked. -/
theorem cmdRow_begins {r : CmdRef} {c : Cmd} {op : Nat} (i : Instr) (act : Cmd → State → State) (h : s.mayBegin r c op = true) :
    cmdRow r op i act s = act c (s.begin r) := by
  simp only [State.mayBegin, Bool.and_eq_true, beq_iff_eq, Bool.not_eq_true', Bool.or_eq_true, bne_iff_ne, ne_eq, Bool.and_eq_false_iff] at h
  obtain ⟨⟨⟨⟨⟨⟨⟨⟨⟨h1, h2⟩, h3⟩, h4⟩, h5⟩, h6⟩, h7⟩, h8⟩, h9⟩, h10⟩ := h
  have h5' : (opcodeRow c.opcode).isNone = false := by rw [h4]; cases ho : opcodeRow op <;> simp_all
  have h8' : ¬ (s.fw.recovery = true ∧ (!recoveryOp op) = true) := by
    rintro ⟨ha, hb⟩; rcases h8 with h8 | h8 <;> simp_all
  have h10' : ¬ (s.mustWait c = true ∨ c.job ≠ 0xFFFF ∧ jobAccepts (s.job c.job).state op = .waits) := by
    rintro (ha | ⟨ha, hb⟩)
    · simp [ha] at h9
    · rcases h10 with h | h
      · exact ha h
      · exact h hb
  have hbegun : ¬ ((!s.takesCommands) = true ∨ c.begun = true) := by simp [h2, h3]
  have h5'' : ¬ ((opcodeRow c.opcode).isNone = true) := by simp [h5']
  unfold cmdRow
  rw [h1]
  simp only
  rw [if_neg hbegun, if_neg h5'', if_neg (by simp [h6]), if_neg (by simp [h4]), if_neg (by simp [h7]), if_neg h8', if_neg h10']

/-- Checks that all pass. -/
theorem State.checked_pass (r : CmdRef) (cs : Checks) (act : State → State) (h : firstBad cs = none) : s.checked r cs act = act s := by
  simp [State.checked, h]

/-- A check that fails, other than a ward's. -/
theorem State.checked_fail (r : CmdRef) {cs : Checks} (act : State → State) {st d : Nat} (h : firstBad cs = some (st, d)) (hw : st ≠ stWard) :
    s.checked r cs act = s.reply r st d 0 := by
  simp [State.checked, h, hw]

/-- No check fails when none of them does. -/
theorem firstBad_none {cs : Checks} (h : ∀ x ∈ cs, x.1 = false) : firstBad cs = none := by
  induction cs with
  | nil => rfl
  | cons x cs ih =>
    obtain ⟨b, st, d⟩ := x
    have : b = false := h (b, st, d) (by simp)
    subst this
    exact ih fun y hy => h y (by simp [hy])

/-- A command of a row that may begin and whose checks all pass has its effect, then its answer. -/
theorem State.checked_begins {r : CmdRef} {c : Cmd} {op : Nat} (i : Instr) {f : Cmd → State → Checks} {act : Cmd → State → State}
    (h : s.mayBegin r c op = true) (hc : ∀ x ∈ f c (s.begin r), x.1 = false) :
    cmdRow r op i (fun c s => s.checked r (f c s) (act c)) s = act c (s.begin r) := by
  rw [cmdRow_begins s i _ h, State.checked_pass _ _ _ _ (firstBad_none hc)]

/-- Parameters whose bytes beyond the layout are zero pass that check. -/
theorem Cmd.beyond_pass {c : Cmd} {n : Nat} (h : ∀ i, n ≤ i → c.params.getD i 0 = 0) : c.beyond n = (false, stBadParam, 0) := by
  have : (List.range (c.params.length - n)).find? (fun i => c.params.getD (n + i) 0 != 0) = none := by
    rw [List.find?_eq_none]
    intro i _
    rw [h (n + i) (by omega)]
    simp
  unfold Cmd.beyond
  rw [this]

/-- Two changes of one ring are one change. -/
theorem State.setRing_setRing (q : Nat) (f g : Ring → Ring) : (s.setRing q f).setRing q g = s.setRing q fun x => g (f x) := by
  have hmm : ∀ {α : Type} (l : List α) (i : Nat) (p q : α → α), (l.modify i p).modify i q = l.modify i fun x => q (p x) := by
    intro α l i p q
    apply List.ext_getElem?
    intro n
    simp only [List.getElem?_modify]
    cases l[n]? <;> by_cases h : i = n <;> simp [h]
  unfold State.setRing State.setHost
  simp only [hmm]

/-- Two changes that agree on the ring there is are the same. -/
theorem State.setRing_congr (q : Nat) (f g : Ring → Ring) (h : f (s.ring q) = g (s.ring q)) : s.setRing q f = s.setRing q g := by
  have : s.host.rings.modify q f = s.host.rings.modify q g := by
    apply List.ext_getElem?
    intro i
    simp only [List.getElem?_modify]
    by_cases hi : q = i
    · subst hi
      cases hj : s.host.rings[q]? with
      | none => simp
      | some b =>
        have hb : s.ring q = b := by simp [State.ring, List.getD, hj]
        rw [hb] at h
        simp [h]
    · simp [hi]
  unfold State.setRing State.setHost
  simp only [this]

@[simp] theorem State.dropCmd_ident (r : CmdRef) : (s.dropCmd r).ident = s.ident := rfl
@[simp] theorem State.dropCmd_pending (r : CmdRef) : (s.dropCmd r).pending = s.pending := rfl
@[simp] theorem State.dropCmd_jobs (r : CmdRef) : (s.dropCmd r).jobs = s.jobs := rfl
@[simp] theorem State.dropCmd_cores (r : CmdRef) : (s.dropCmd r).cores = s.cores := rfl
@[simp] theorem State.dropCmd_mem (r : CmdRef) : (s.dropCmd r).mem = s.mem := rfl
@[simp] theorem State.begin_jobs (r : CmdRef) : (s.begin r).jobs = s.jobs := rfl
@[simp] theorem State.begin_job (r : CmdRef) (j : Nat) : (s.begin r).job j = s.job j := rfl
@[simp] theorem State.begin_mem (r : CmdRef) : (s.begin r).mem = s.mem := rfl
@[simp] theorem State.begin_keeper (r : CmdRef) : (s.begin r).keeper = s.keeper := rfl
@[simp] theorem State.begin_power (r : CmdRef) : (s.begin r).power = s.power := rfl
@[simp] theorem State.begin_fabric (r : CmdRef) : (s.begin r).fabric = s.fabric := rfl
@[simp] theorem State.begin_cores (r : CmdRef) : (s.begin r).cores = s.cores := rfl
@[simp] theorem State.begin_dies (r : CmdRef) : (s.begin r).dies = s.dies := rfl
@[simp] theorem State.begin_fw (r : CmdRef) : (s.begin r).fw = s.fw := rfl
@[simp] theorem State.begin_health (r : CmdRef) : (s.begin r).health = s.health := rfl

/-- A ward's refusal changes the error log and the ward's own registers only. -/
theorem State.wardTrip_frame (n : Nat) : (s.wardTrip n).ident = s.ident ∧ (s.wardTrip n).pending = s.pending ∧
    (s.wardTrip n).jobs = s.jobs ∧ (s.wardTrip n).mem = s.mem ∧ (s.wardTrip n).cores = s.cores ∧ (s.wardTrip n).host = s.host := by
  simp only [State.wardTrip]
  split <;> (try split) <;> simp

/-- A reply changes the host interface, the error log and the wards' registers, and nothing else. -/
theorem State.reply_frame (r : CmdRef) (st d v : Nat) : (s.reply r st d v).ident = s.ident ∧ (s.reply r st d v).pending = s.pending ∧
    (s.reply r st d v).jobs = s.jobs ∧ (s.reply r st d v).mem = s.mem ∧ (s.reply r st d v).cores = s.cores := by
  unfold State.reply
  split
  · simp
  · split
    · simp
    · split
      · simp
      · split
        · unfold State.replyLost State.replyFail
          split <;> simp [State.wardTrip_frame]
        · simp

/-- A reply that is begun: a command with an address inside a granted window, on a queue that is not quiet, with Switrak up. -/
theorem State.reply_begun {r : CmdRef} {c : Cmd} (st d v : Nat) (h : s.cmd r = some c) (ht : c.timedOut = false) (ha : c.replyAddr ≠ 0)
    (hq : (s.ring r.queue).quiet = false) (hs : s.switrakUp = true) (hg : s.host.granted c.replyAddr 32 = true) :
    s.reply r st d v = ((s.setRing r.queue fun q => { q with cmds := q.cmds.map fun (x : Cmd) =>
        if x.ref == r then { x with ended := true } else x }).setHost fun h => { h with order := h.order.filter fun x => !(x == r) }).farPut
      (c.replyAddr + 2) ((replyBytes c.header r.queue r.sequence st d v).drop 2) 0
      (.replyBody r.queue ((replyBytes c.header r.queue r.sequence st d v).take 2)) := by
  unfold State.reply
  rw [h]
  simp [ht, ha, hq, hs, hg]

/-! ## Deadbolt commands -/

/-- A deadbolt command that begins acts. -/
theorem mbRow_begins {op : Nat} (act : Cmd → State → State) (h : s.mbBegins op = true) : mbRow op act s = act s.keeper.mailbox.cmd s := by
  simp only [State.mbBegins, Bool.and_eq_true, beq_iff_eq, Bool.not_eq_true', Bool.and_eq_false_iff, Bool.not_eq_false'] at h
  obtain ⟨⟨⟨⟨h1, h2⟩, h3⟩, h4⟩, h5⟩ := h
  unfold mbRow
  simp only
  rw [if_neg (by simp [h1, h2, h3]), if_neg (by rintro (⟨ha, hb⟩ | ⟨ha, hb⟩) <;> simp_all)]

/-- Its checks passed, it acts. -/
theorem State.mbChecked_pass {cs : Checks} (act : State → State) (h : ∀ x ∈ cs, x.1 = false) : s.mbChecked cs act = act s := by
  simp [State.mbChecked, firstBad_none h]

/-! ## The identity block -/

/-- The identity block's registers below 0x0038 follow from the fused identity alone. -/
theorem State.identReg_congr {t : State} (hid : t.ident = s.ident) {q : Nat} (h : q ≤ 6) : t.identReg (q * 8) = s.identReg (q * 8) := by
  have : q = 0 ∨ q = 1 ∨ q = 2 ∨ q = 3 ∨ q = 4 ∨ q = 5 ∨ q = 6 := by omega
  rcases this with rfl | rfl | rfl | rfl | rfl | rfl | rfl
  all_goals (unfold State.identReg; rw [hid])
  all_goals rfl

end Sys2Proof.Machine
end

