-- ==== Sys2Proof/Laws/Stops.lean ====
section
/-! SUPPORT. What serving a line's waiters and taking agents off lines leave: jobs but for blocks of tasks and states of channels. -/

namespace Sys2Proof.Machine

variable (s : State)

/-- A task with whatever it waits for left out. -/
def Task.unblocked (k : Task) : Task := { k with block := none }

/-- The second state differs from the first in event lines, in what tasks wait for and in channels only. -/
def State.resumed (s u : State) : Prop :=
  (∃ ds js, u = { s with dies := ds, jobs := js } ∧ ds.length = s.dies.length ∧ js.length = s.jobs.length) ∧
    ∀ i, ∃ ts cs, u.job i = { s.job i with tasks := ts, chans := cs } ∧ ts.map Task.unblocked = (s.job i).tasks.map Task.unblocked

theorem State.resumed_refl : s.resumed s :=
  ⟨⟨s.dies, s.jobs, rfl, rfl, rfl⟩, fun i => ⟨(s.job i).tasks, (s.job i).chans, rfl, rfl⟩⟩

theorem State.resumed_trans {s u v : State} (h : s.resumed u) (g : u.resumed v) : s.resumed v := by
  obtain ⟨⟨ds, js, h1, h2, h3⟩, h4⟩ := h
  obtain ⟨⟨es, ks, g1, g2, g3⟩, g4⟩ := g
  refine ⟨⟨es, ks, ?_, ?_, ?_⟩, fun i => ?_⟩
  · rw [g1, h1]
  · rw [g2, h1, ← h2]
  · rw [g3, h1, ← h3]
  · obtain ⟨ts, cs, e1, e2⟩ := h4 i
    obtain ⟨us, fs, f1, f2⟩ := g4 i
    refine ⟨us, fs, ?_, ?_⟩
    · rw [f1, e1]
    · rw [f2, e1, ← e2]

theorem State.resumed_setDie (d : Nat) (f : Die → Die) : s.resumed (s.setDie d f) :=
  ⟨⟨_, s.jobs, rfl, List.length_modify .., rfl⟩, fun i => ⟨(s.job i).tasks, (s.job i).chans, rfl, rfl⟩⟩

theorem map_modify_keeps {α β : Type} (l : List α) (n : Nat) (f : α → α) (g : α → β) (h : ∀ x, g (f x) = g x) : (l.modify n f).map g = l.map g := by
  apply List.ext_getElem?
  intro i
  simp only [List.getElem?_map, List.getElem?_modify]
  cases l[i]? with
  | none => simp
  | some x => by_cases hi : n = i <;> simp [hi, h]

theorem State.resumed_setJob (j : Nat) (f : Job → Job) (h : ∀ b : Job, ∃ ts cs, f b = { b with tasks := ts, chans := cs } ∧ ts.map Task.unblocked = b.tasks.map Task.unblocked) :
    s.resumed (s.setJob j f) := by
  refine ⟨⟨s.dies, _, rfl, rfl, List.length_modify ..⟩, fun i => ?_⟩
  by_cases hj : j = i
  · subst hj
    by_cases hl : j < s.jobs.length
    · rw [State.job_setJob _ _ _ hl]; exact h _
    · have : (s.setJob j f).job j = s.job j := by
        unfold State.setJob State.job
        simp only [List.getD_eq_getElem?_getD]
        rw [List.getElem?_eq_none (by simp; omega), List.getElem?_eq_none (by omega)]
      rw [this]; exact ⟨_, _, rfl, rfl⟩
  · rw [State.job_setJob_other _ _ _ _ hj]; exact ⟨_, _, rfl, rfl⟩

theorem State.resumed_served (a : WaitAgent) : s.resumed (s.served a) := by
  unfold State.served
  split
  · exact s.resumed_setJob _ _ fun b => ⟨b.tasks, _, rfl, rfl⟩
  · exact s.resumed_setJob _ _ fun b => ⟨_, b.chans, rfl, map_modify_keeps _ _ _ _ fun _ => rfl⟩

theorem State.resumed_serve (n d l : Nat) : s.resumed (State.serve n s d l) := by
  induction n generalizing s with
  | zero => exact s.resumed_refl
  | succ n ih =>
    unfold State.serve
    dsimp only
    split
    · exact s.resumed_refl
    · split
      · exact State.resumed_trans (State.resumed_trans (s.resumed_setDie _ _) (State.resumed_served _ _)) (ih _)
      · exact s.resumed_refl

theorem State.resumed_foldl {α : Type} (f : State → α → State) (h : ∀ (s : State) x, s.resumed (f s x)) (l : List α) : s.resumed (l.foldl f s) := by
  induction l generalizing s with
  | nil => exact s.resumed_refl
  | cons x l ih => exact State.resumed_trans (h s x) (ih (f s x))

theorem State.resumed_leaveLines (gone : WaitAgent → Bool) : s.resumed (s.leaveLines gone) := by
  unfold State.leaveLines
  apply State.resumed_foldl
  intro s d
  apply State.resumed_foldl
  intro s l
  dsimp only
  split
  · exact State.resumed_trans (s.resumed_setDie _ _) (State.resumed_serve _ _ _ _)
  · exact s.resumed_refl

/-- A channel's outstanding accesses dropped: jobs and memory stay. -/
theorem State.dropChans_fields (l : List ChanRef) : (l.foldl (fun s r => s.dropChan r) s).jobs = s.jobs ∧ (l.foldl (fun s r => s.dropChan r) s).mem = s.mem ∧
    (l.foldl (fun s r => s.dropChan r) s).cores = s.cores ∧ (l.foldl (fun s r => s.dropChan r) s).hbm = s.hbm ∧ (l.foldl (fun s r => s.dropChan r) s).ident = s.ident := by
  induction l generalizing s with
  | nil => exact ⟨rfl, rfl, rfl, rfl, rfl⟩
  | cons r l ih => exact ih (s.dropChan r)

/-- Agents restarted at their skip entries: of jobs only tasks, channels and collectives change, and the restarted tasks start at theirs. -/
theorem State.restart_fields (j : Nat) (ps : ProvSet) (hj : j < s.jobs.length) :
    (s.restart j ps).mem = s.mem ∧ (s.restart j ps).cores = s.cores ∧ (s.restart j ps).ident = s.ident ∧ (s.restart j ps).hbm = s.hbm ∧ (s.restart j ps).jobs.length = s.jobs.length ∧
    (∃ ts cs xs, (s.restart j ps).job j = { s.job j with tasks := ts, chans := cs, colls := xs } ∧ xs.length = (s.job j).colls.length ∧
      ∀ i : Nat, ∀ k, (s.job j).tasks[i]? = some k → ∃ k', ts[i]? = some k' ∧ k'.decl = k.decl ∧ k'.home = k.home ∧ k'.skipEntry = k.skipEntry ∧
        (ps.tasks.contains i = true → k'.resume = some k.skipEntry)) ∧
    ∀ i, i ≠ j → ∃ ts cs, (s.restart j ps).job i = { s.job i with tasks := ts, chans := cs } ∧ ts.map Task.unblocked = (s.job i).tasks.map Task.unblocked := by
  unfold State.restart
  dsimp only
  generalize hg : (fun a : WaitAgent => match a with
    | .task t => t.job == j && ps.tasks.contains t.task
    | .chan r => ps.chans.contains r) = gone
  obtain ⟨⟨ds, js, h1, h2, h3⟩, h4⟩ := s.resumed_leaveLines gone
  obtain ⟨d1, d2, d3, d4, d5⟩ := State.dropChans_fields (s.leaveLines gone) ps.chans
  have hdw : ∀ (w : State) (p : Agent × Instr → Bool), (w.dropWaiting p).jobs = w.jobs ∧ (w.dropWaiting p).mem = w.mem ∧ (w.dropWaiting p).cores = w.cores ∧
    (w.dropWaiting p).hbm = w.hbm ∧ (w.dropWaiting p).ident = w.ident := fun _ _ => ⟨rfl, rfl, rfl, rfl, rfl⟩
  have hum : (s.leaveLines gone).mem = s.mem ∧ (s.leaveLines gone).cores = s.cores ∧ (s.leaveLines gone).hbm = s.hbm ∧ (s.leaveLines gone).ident = s.ident := by
    rw [h1]; exact ⟨rfl, rfl, rfl, rfl⟩
  have hlen : (s.leaveLines gone).jobs.length = s.jobs.length := by rw [h1]; exact h3
  generalize s.leaveLines gone = u at *
  generalize ps.chans.foldl (fun s r => s.dropChan r) u = w at *
  obtain ⟨y1, y2, y3, y4, y5⟩ := hdw w fun w => match w.1 with
    | .task t => t.job == j && ps.tasks.contains t.task
    | _ => (chanOfRow w.2).any fun r => ps.chans.contains r
  generalize State.dropWaiting w _ = y at *
  have hyl : j < y.jobs.length := by rw [y1, d1, hlen]; exact hj
  have hyj : ∀ i, y.job i = u.job i := fun i => State.job_of_jobs (y1.trans d1) i
  refine ⟨y2.trans (d2.trans hum.1), y3.trans (d3.trans hum.2.1), y5.trans (d5.trans hum.2.2.2), y4.trans (d4.trans hum.2.2.1), ?_, ?_, fun i hi => ?_⟩
  · unfold State.setJob
    simp only [List.length_modify]
    rw [y1, d1, hlen]
  · rw [State.job_setJob _ _ _ hyl, hyj]
    obtain ⟨ts, cs, e1, e2⟩ := h4 j
    rw [e1]
    refine ⟨_, _, _, rfl, by simp, fun i k hk => ?_⟩
    have hm := congrArg (fun l : List Task => l[i]?) e2
    simp only [List.getElem?_map, hk, Option.map_some] at hm
    cases hx : ts[i]? with
    | none => simp [hx] at hm
    | some x =>
      rw [hx, Option.map_some] at hm
      have hm' := Option.some.inj hm
      have hs : x.skipEntry = k.skipEntry := by have e := congrArg Task.skipEntry hm'; exact e
      have hd : x.decl = k.decl := by have e := congrArg Task.decl hm'; exact e
      have hh : x.home = k.home := by have e := congrArg Task.home hm'; exact e
      refine ⟨if ps.tasks.contains i then x.restart else x, ?_, ?_, ?_, ?_, ?_⟩
      · simp only [List.getElem?_mapIdx, hx, Option.map_some]
      · split <;> exact hd
      · split <;> exact hh
      · split <;> exact hs
      · intro hc
        rw [if_pos hc, ← hs]
        rfl
  · rw [State.job_setJob_other _ _ _ _ (Ne.symm hi), hyj]
    exact h4 i

end Sys2Proof.Machine
end

