-- ==== Sys2Proof/Laws/Jobs.lean ====
section
/-! SUPPORT. What filling cores, answering waiters and laying a job's memory leave: tasks and channels of every job, cores without
a job's tasks, bytes elsewhere. -/

namespace Sys2Proof.Machine

/-! ## Zeroed stretches -/

theorem cellGet_cellZero {lo : Nat} {m : Cells} (a n k : Nat) (h : cellsWfFrom lo m = true) :
    cellGet (cellZero m a n) k = if a ≤ k ∧ k < a + n then 0 else cellGet m k := by
  induction m generalizing lo with
  | nil => simp [cellZero, cellGet]
  | cons x m ih =>
    obtain ⟨key, v⟩ := x
    simp only [cellsWfFrom, Bool.and_eq_true, decide_eq_true_eq] at h
    have hw : cellsWfFrom (key + 1) (cellZero m a n) = true := cellsWfFrom_filter _ h.2
    have ih' := ih h.2
    by_cases hk : key < a ∨ a + n ≤ key
    · have e : cellZero ((key, v) :: m) a n = (key, v) :: cellZero m a n := by
        unfold cellZero
        rw [List.filter_cons_of_pos]
        simpa using hk
      rw [e]
      simp only [cellGet]
      by_cases h1 : k < key
      · simp [h1]
      · by_cases h2 : k = key
        · subst h2
          rw [if_neg (by omega), if_pos rfl, if_neg (by omega), if_neg (by omega), if_pos rfl]
        · rw [if_neg h1, if_neg h2, if_neg h1, if_neg h2, ih']
    · have e : cellZero ((key, v) :: m) a n = cellZero m a n := by
        unfold cellZero
        rw [List.filter_cons_of_neg]
        simpa using hk
      rw [e, ih']
      simp only [cellGet]
      by_cases h1 : k < key
      · rw [cellGet_of_lt h.2 (by omega)]; simp [h1]
      · by_cases h2 : k = key
        · subst h2; rw [if_pos (by omega), if_pos (by omega)]
        · rw [if_neg h1, if_neg h2]

theorem Memory.zero_get {m : Memory} (a n k : Nat) (h : m.wf = true) (hk : ¬ (a ≤ k ∧ k < a + n)) : cellGet (m.zero a n).cells k = cellGet m.cells k := by
  show cellGet (cellZero m.cells a n) k = _
  rw [cellGet_cellZero a n k h, if_neg hk]

theorem Memory.write_get {m : Memory} (a k : Nat) (b : Bytes) (h : m.wf = true) (hk : ¬ (a ≤ k ∧ k < a + b.length)) :
    cellGet (m.write a b).cells k = cellGet m.cells k := by
  show cellGet (cellWrite m.cells a b) k = _
  rw [cellGet_cellWrite a k b h, if_neg hk]

/-- A fold of memory changes that each keep the canonical form and one byte keeps both. -/
theorem Memory.foldl_get {α : Type} (f : Memory → α → Memory) (k : Nat) (l : List α)
    (h : ∀ (m : Memory), ∀ x ∈ l, m.wf = true → (f m x).wf = true ∧ cellGet (f m x).cells k = cellGet m.cells k) (m : Memory) (hm : m.wf = true) :
    (l.foldl f m).wf = true ∧ cellGet (l.foldl f m).cells k = cellGet m.cells k := by
  induction l generalizing m with
  | nil => exact ⟨hm, rfl⟩
  | cons x l ih =>
    obtain ⟨h1, h2⟩ := h m x (by simp) hm
    obtain ⟨h3, h4⟩ := ih (fun m y hy => h m y (by simp [hy])) _ h1
    exact ⟨h3, h4.trans h2⟩

variable (s : State)

theorem State.foldl_setMem {α : Type} (f : α → Memory → Memory) (l : List α) : l.foldl (fun s x => s.setMem (f x)) s = s.setMem fun m => l.foldl (fun m x => f x m) m := by
  induction l generalizing s with
  | nil => rfl
  | cons x l ih => rw [List.foldl_cons, ih]; rfl

/-! ## Cores without a job's tasks -/

/-- No core runs or keeps a task of the job in its order. -/
def State.vacant (s : State) (j : Nat) : Prop :=
  ∀ c ∈ s.cores, (∀ t, c.running = some t → t.job ≠ j) ∧ (∀ t ∈ c.readyLc, t.job ≠ j) ∧ ∀ t ∈ c.readyBe, t.job ≠ j

theorem State.vacant_of_cores {s u : State} {j : Nat} (h : u.cores = s.cores) (hv : s.vacant j) : u.vacant j := by
  unfold State.vacant; rw [h]; exact hv

theorem State.vacant_setCore {j : Nat} (core : Nat) (f : Core → Core) (h : s.vacant j)
    (hf : ∀ c : Core, ((∀ t, c.running = some t → t.job ≠ j) ∧ (∀ t ∈ c.readyLc, t.job ≠ j) ∧ ∀ t ∈ c.readyBe, t.job ≠ j) →
      (∀ t, (f c).running = some t → t.job ≠ j) ∧ (∀ t ∈ (f c).readyLc, t.job ≠ j) ∧ ∀ t ∈ (f c).readyBe, t.job ≠ j) : (s.setCore core f).vacant j := by
  intro c hc
  obtain ⟨i, hi⟩ := List.mem_iff_getElem?.mp hc
  have this : (s.cores.modify core f)[i]? = some c := hi
  rw [List.getElem?_modify] at this
  cases hx : s.cores[i]? with
  | none => simp [hx] at this
  | some x =>
    have hm := h x (List.mem_of_getElem? hx)
    rw [hx] at this
    by_cases hci : core = i
    · have e : f x = c := Option.some.inj (by simpa [hci] using this)
      rw [← e]; exact hf x hm
    · have e : x = c := Option.some.inj (by simpa [hci] using this)
      rw [← e]; exact hm

theorem State.vacant_run {j : Nat} (core : Nat) (t : TaskRef) (ht : t.job ≠ j) (h : s.vacant j) : (s.run core t).vacant j := by
  unfold State.run
  split
  · exact h
  · dsimp only
    unfold State.wakeCore
    refine State.vacant_of_cores (State.wakeDie_cores _ _) ?_
    · apply State.vacant_setCore
      · apply State.vacant_setCore
        · refine State.vacant_of_cores (s := s) ?_ h
          split_ifs <;> rfl
        · intro c hc
          refine ⟨fun u hu => ?_, fun u hu => hc.2.1 u (List.mem_filter.mp hu).1, fun u hu => hc.2.2 u (List.mem_filter.mp hu).1⟩
          cases hu; exact ht
      · exact fun c hc => hc

theorem State.vacant_next {j : Nat} (h : s.vacant j) (core : Nat) (t : TaskRef) (hn : (s.core core).next = some t) : t.job ≠ j := by
  by_cases hc : core < s.cores.length
  · have hm : s.core core ∈ s.cores := by
      have e : s.core core = s.cores[core] := by simp [State.core, List.getD, hc]
      rw [e]; exact List.getElem_mem hc
    have := h _ hm
    unfold Core.next at hn
    cases hl : (s.core core).readyLc with
    | nil =>
      rw [hl] at hn
      cases hb : (s.core core).readyBe with
      | nil => rw [hb] at hn; simp at hn
      | cons x l => rw [hb] at hn; simp only [List.head?_nil, Option.none_or, List.head?_cons, Option.some.injEq] at hn; subst hn; exact this.2.2 x (by simp [hb])
    | cons x l => rw [hl] at hn; simp only [List.head?_cons, Option.some_or, Option.some.injEq] at hn; subst hn; exact this.2.1 x (by simp [hl])
  · have e : s.core core = {} := by simp [State.core, List.getD, List.getElem?_eq_none (Nat.le_of_not_lt hc)]
    rw [e] at hn; cases hn

theorem State.vacant_fill {j : Nat} (core : Nat) (h : s.vacant j) : (s.fill core).vacant j := by
  unfold State.fill
  split
  · exact h
  · split
    · rename_i t hn
      refine State.vacant_run _ core t (s.vacant_next h core t hn) (State.vacant_setCore _ _ _ h ?_)
      intro c hc
      exact ⟨hc.1, fun u hu => hc.2.1 u (List.mem_filter.mp hu).1, fun u hu => hc.2.2 u (List.mem_filter.mp hu).1⟩
    · exact h

theorem State.vacant_fillAll {j : Nat} (h : s.vacant j) : s.fillAll.vacant j := by
  unfold State.fillAll
  generalize List.range Config.coreSlots = l
  induction l generalizing s with
  | nil => exact h
  | cons c l ih =>
    rw [List.foldl_cons]
    apply ih
    split
    · exact s.vacant_fill c h
    · exact h

theorem State.vacant_offCores (j : Nat) : (s.offCores j).vacant j := by
  intro c hc
  have hc' : c ∈ s.cores.map fun (c : Core) => ({ c with
    running := c.running.filter fun t => !(t.job == j)
    readyLc := c.readyLc.filter fun t => !(t.job == j)
    readyBe := c.readyBe.filter fun t => !(t.job == j) } : Core) := hc
  obtain ⟨x, hx, rfl⟩ := List.mem_map.mp hc'
  refine ⟨fun t ht => ?_, fun t ht => ?_, fun t ht => ?_⟩
  · have := Option.mem_filter_iff.mp ht
    simpa using this.2
  · simpa using (List.mem_filter.mp ht).2
  · simpa using (List.mem_filter.mp ht).2

/-! ## Tasks and channels of a job while cores are filled -/

/-- How many tasks and channels each job has, and its die channels. -/
def State.shape (s : State) : List (Nat × Nat × List Chan) := s.jobs.map fun b => (b.tasks.length, b.chans.length, b.chans.filter fun c => c.decl.die)

theorem filter_map_keeps {α : Type} (l : List α) (p : α → Bool) (g : α → α) (h1 : ∀ x, p (g x) = p x) (h2 : ∀ x, p x = true → g x = x) : (l.map g).filter p = l.filter p := by
  induction l with
  | nil => rfl
  | cons x l ih =>
    rw [List.map_cons, List.filter_cons, List.filter_cons, h1, ih]
    split
    · rename_i h; rw [h2 x h]
    · rfl

theorem State.shape_setTask (t : TaskRef) (f : Task → Task) : (s.setTask t f).shape = s.shape := by
  unfold State.shape State.setTask State.setJob
  exact map_modify_same _ _ (fun x => by simp) _ _

theorem State.shape_resumeChans (t : TaskRef) : (s.resumeChans t).shape = s.shape := by
  unfold State.shape State.resumeChans State.setJob
  refine map_modify_same _ _ (fun x => ?_) _ _
  dsimp only
  rw [List.length_map, filter_map_keeps]
  · intro c; unfold Chan.resume; split_ifs <;> rfl
  · intro c hc; unfold Chan.ofTask; simp [hc]

theorem State.shape_of_jobs {s u : State} (h : u.jobs = s.jobs) : u.shape = s.shape := by unfold State.shape; rw [h]

theorem State.shape_mapTasks (f : Nat → Nat → Task → Task) :
    ({ s with jobs := s.jobs.mapIdx fun j (b : Job) => { b with tasks := b.tasks.mapIdx (f j) } } : State).shape = s.shape := by
  unfold State.shape
  exact map_mapIdx_same _ _ (fun i x => by simp) _

theorem State.shape_wakeDie (d : Nat) : (s.wakeDie d).shape = s.shape := by
  unfold State.wakeDie
  split
  · rfl
  · exact (State.shape_mapTasks _ _).trans (State.shape_of_jobs rfl)

theorem State.shape_run (core : Nat) (t : TaskRef) : (s.run core t).shape = s.shape := by
  unfold State.run
  split
  · rfl
  · dsimp only
    refine (State.shape_resumeChans _ _).trans ((State.shape_setTask _ _ _).trans ?_)
    unfold State.wakeCore
    rw [State.shape_wakeDie]
    refine Eq.trans (State.shape_of_jobs rfl) ?_
    split_ifs
    all_goals first
      | rfl
      | exact State.shape_mapTasks s fun j i (x : Task) => if x.core = core ∧ !(j == t.job && i == t.task) then { x with inSlot := true } else x

theorem State.shape_fill (core : Nat) : (s.fill core).shape = s.shape := by
  unfold State.fill
  split
  · rfl
  · split
    · exact State.shape_run _ _ _
    · rfl

theorem State.shape_foldl {α : Type} (f : State → α → State) (h : ∀ s x, (f s x).shape = s.shape) (l : List α) : (l.foldl f s).shape = s.shape := by
  induction l generalizing s with
  | nil => rfl
  | cons x l ih => rw [List.foldl_cons, ih, h]

theorem State.shape_fillAll : s.fillAll.shape = s.shape :=
  State.shape_foldl s _ (fun s c => by split; exact State.shape_fill s c; rfl) _

theorem State.shape_enqueue (t : TaskRef) : (s.enqueue t).shape = s.shape := by
  unfold State.enqueue
  split
  · rfl
  · split <;> rfl

theorem State.shape_job {s u : State} (h : u.shape = s.shape) (j : Nat) : (u.job j).tasks.length = (s.job j).tasks.length ∧
    (u.job j).chans.length = (s.job j).chans.length ∧ ((u.job j).chans.filter fun c => c.decl.die) = (s.job j).chans.filter fun c => c.decl.die := by
  have h2 := congrArg (fun l => l.getD j (0, 0, [])) h
  have e : ∀ w : State, w.shape.getD j (0, 0, []) = ((w.job j).tasks.length, (w.job j).chans.length, (w.job j).chans.filter fun c => c.decl.die) := by
    intro w
    unfold State.shape State.job
    simp only [List.getD_eq_getElem?_getD, List.getElem?_map]
    cases w.jobs[j]? <;> rfl
  simp only [e, Prod.mk.injEq] at h2
  exact h2

/-! ## Waiters answered -/

theorem State.replies_fields (l : List CmdRef) (g : State → CmdRef → State) (hg : ∀ s r, (g s r).jobs = s.jobs ∧ (g s r).mem = s.mem ∧ (g s r).cores = s.cores) :
    (l.foldl g s).jobs = s.jobs ∧ (l.foldl g s).mem = s.mem ∧ (l.foldl g s).cores = s.cores := by
  induction l generalizing s with
  | nil => exact ⟨rfl, rfl, rfl⟩
  | cons r l ih =>
    obtain ⟨a, b, c⟩ := ih (g s r)
    obtain ⟨d, e, f⟩ := hg s r
    rw [List.foldl_cons]
    exact ⟨a.trans d, b.trans e, c.trans f⟩

/-- JOB_WAIT answered: of jobs only the list of waiters goes. -/
theorem State.answerWaits_fields (j st : Nat) : (s.answerWaits j st).mem = s.mem ∧ (s.answerWaits j st).cores = s.cores ∧
    (s.answerWaits j st).jobs = s.jobs.modify j fun b => { b with waits := [] } := by
  unfold State.answerWaits
  dsimp only
  obtain ⟨a, b, c⟩ := State.replies_fields s (s.job j).waits (fun x r => x.reply r st (s.job j).state ((s.job j).train.committed.getD ones64))
    fun s r => ⟨(State.reply_frame _ _ _ _ _).2.2.1, (State.reply_frame _ _ _ _ _).2.2.2.1, (State.reply_frame _ _ _ _ _).2.2.2.2⟩
  generalize List.foldl _ s _ = w at *
  refine ⟨b, c, ?_⟩
  unfold State.setJob
  simp only [a]

theorem State.touchShadow_fields : s.touchShadow.mem = s.mem ∧ s.touchShadow.cores = s.cores ∧ s.touchShadow.jobs = s.jobs := by
  unfold State.touchShadow
  split <;> exact ⟨rfl, rfl, rfl⟩

theorem State.enter_fields (j st : Nat) : (s.enter j st).mem = s.mem ∧ (s.enter j st).cores = s.cores ∧
    (s.enter j st).jobs = s.jobs.modify j fun b => { b with state := st } := by
  unfold State.enter
  obtain ⟨a, b, c⟩ := (s.setJob j fun b => { b with state := st }).touchShadow_fields
  exact ⟨a.trans rfl, b.trans rfl, c.trans rfl⟩

end Sys2Proof.Machine
end

