-- ==== Sys2Proof/Laws/Lines.lean ====
section
/-! SUPPORT. Event lines: a waiter that is first and finds enough pulses is served at once; behind a waiter that cannot be served it
joins the order. -/

namespace Sys2Proof.Machine

variable (s : State)

theorem State.setDie_setDie (d : Nat) (f g : Die → Die) : (s.setDie d f).setDie d g = s.setDie d fun x => g (f x) := by
  unfold State.setDie
  congr 1
  apply List.ext_getElem?
  intro n
  simp only [List.getElem?_modify]
  cases s.dies[n]? <;> by_cases h : d = n <;> simp [h]

/-- Serving stops at once at a head whose count is not met. -/
theorem State.serve_stuck (n d l : Nat) (h : ∀ w ∈ ((s.die d).lines.getD l {}).waiters.head?, ((s.die d).lines.getD l {}).count < w.count) :
    State.serve n s d l = s := by
  cases n with
  | zero => rfl
  | succ n =>
    unfold State.serve
    dsimp only
    split
    · rfl
    · rename_i w ws he
      have := h w (by rw [he]; rfl)
      rw [if_neg (by omega)]

theorem State.lineAfter {d l : Nat} (hd : d < s.dies.length) (hl : l < (s.die d).lines.length) (e : EventLine) :
    ((s.setDie d fun x => { x with lines := x.lines.set l e }).die d).lines.getD l {} = e := by
  rw [State.die_setDie _ _ _ hd]
  simp [List.getD, hl]

/-- The first waiter of a line with enough pulses is served at once. -/
theorem State.joinLine_served {d l count : Nat} (a : WaitAgent) (hd : d < s.dies.length) (hl : l < (s.die d).lines.length)
    (hw : ((s.die d).lines.getD l {}).waiters = []) (hc : count ≤ ((s.die d).lines.getD l {}).count) :
    s.joinLine d l count a = (s.setDie d fun x => { x with
      lines := x.lines.set l { count := ((s.die d).lines.getD l {}).count - count, waiters := [] } }).served a := by
  unfold State.joinLine
  simp only [hw, List.nil_append, List.length_nil, Nat.zero_add]
  unfold State.serve
  dsimp only
  rw [s.lineAfter hd hl]
  simp only [hc, if_true, State.serve, State.setDie_setDie, List.set_set]

/-- Behind a head that cannot be served a waiter joins the end of the order. -/
theorem State.joinLine_waits {d l count : Nat} (a : WaitAgent) (hd : d < s.dies.length) (hl : l < (s.die d).lines.length)
    (h : ∀ w ∈ (((s.die d).lines.getD l {}).waiters ++ [({ agent := a, count := count } : Waiter)]).head?, ((s.die d).lines.getD l {}).count < w.count) :
    s.joinLine d l count a = s.setDie d fun x => { x with lines := x.lines.set l { (s.die d).lines.getD l {} with
      waiters := ((s.die d).lines.getD l {}).waiters ++ [{ agent := a, count := count }] } } := by
  unfold State.joinLine
  dsimp only
  rw [State.serve_stuck]
  rw [s.lineAfter hd hl]
  exact h

end Sys2Proof.Machine
end

