-- ==== Sys2Proof/Tests/Slice0.lean ====
section
/-! SUPPORT. Tests of the model's own author, and a concrete state for the hypotheses of every statement. -/

open Sys2Proof Sys2Proof.Machine

namespace Sys2Proof.Tests

set_option Elab.async false

/-! ## Small states -/

/-- The module in service with nothing loaded: every domain runs, one window, queue M0 enabled. -/
def up : State :=
  { keeper := { device := 0, management := 0, switrak := 0, resets := [] }
    cores := List.replicate 192 { domain := 0 }
    dies := List.replicate 4 { domain := 0 }
    fw := { awaiting := false }
    host := { windows := [(0x100000, 0x2000000)]
              rings := (List.replicate 132 {}).set 128 { enable := true, state := 1, base := 0x100000 } } }

/-- A core channel that starts at workspace 0x8000, and an idle die channel. -/
def cdecl0 : ChanDecl := { die := false, num := 0, entry := some (.workspace 0x8000), skip := false, step := true, skipEntry := some (.workspace 0x8000) }
def cdecl1 : ChanDecl := { die := true, num := 1, entry := none, skip := true, step := false, skipEntry := none }

/-- An epoch region of one block on H0. -/
def rdecl0 : RegionDecl := { number := 0, stack := 0, blocks := 1, bytes := 0x10000, role := .epoch, image := [] }

/-- A task of a small binary: home core 0, 64 KiB of workspace, a core channel 0 and a die channel 1. -/
def decl0 : TaskDecl :=
  { workspaceKib := 64, image := [], relocs := [], arrays := [], vectors := [], optUpdates := [], updates := [], chanOps := [(false, 0), (true, 1)]
    chans := [{ die := false, num := 0, entry := some (.workspace 0x8000), skip := false, step := true, skipEntry := none },
              { die := true, num := 1, entry := none, skip := true, step := false, skipEntry := none }]
    programs := [], regions := [0], epochWorkspace := [], collectives := [], fpSlot := none, fpRegions := [] }

/-- The binary. -/
def bin0 : Binary :=
  { malformed := false, classF := false, detStrict := false, virtualWidth := 1, layout := 0x77, digest := [], tasks := [decl0], eventLines := 4
    regions := [rdecl0], hingeSlotBytes := none
    hingeChannels := 0, farWindowBytes := 0, claims := [], layers := [], collectives := [], serve := none, fpClasses := [] }

/-- The task on core 0. -/
def task0 : Task := { decl := decl0, home := 0, core := 0, slotAddr := 0x10000000, slotBlocks := 1, inSlot := false }

/-- Its channels. -/
def chan0 : Chan := { decl := cdecl0, owner := 0, phys := 0, task := 0, home := 0 }
def chan1 : Chan := { decl := cdecl1, owner := 0, phys := 3, task := 0, home := 0 }

/-- Job 3 loaded with the task. -/
def job3 : Job :=
  { state := 3, bin := some bin0, started := true, tasks := [task0], chans := [chan0, chan1], lines := List.replicate 4 [4, 5, 6, 7], mask := 1
    grants := [{ decl := rdecl0, addr := 0x20000000, blocks := 2 }] }

/-- Job 3 RUNNING, its task on core 0. -/
def running : State :=
  { up with jobs := up.jobs.set 3 job3, cores := up.cores.set 0 { domain := 0, running := some ⟨3, 0⟩ } }

/-- A vector instruction word: opcode, format, dst, src_a, src_b, flags, count, imm, address; src_c is register 4, the line 1. -/
def vecWord (op fmt dst a b flags count imm addr : Nat) : Bytes :=
  toLe 1 op ++ toLe 1 fmt ++ toLe 1 dst ++ toLe 1 a ++ toLe 1 b ++ toLe 1 4 ++ toLe 1 flags ++ toLe 1 1 ++ toLe 4 count ++ toLe 4 imm ++
    toLe 4 addr ++ toLe 12 0

/-- A ring command of the management class in M0: opcode, job field, parameters; its reply goes to 0x100800. -/
def cmdOf (op job : Nat) (params : Bytes) : Cmd :=
  { ref := ⟨128, 1, 0⟩, params := params
    header := toLe 2 op ++ toLe 1 2 ++ toLe 1 0 ++ toLe 2 7 ++ toLe 2 job ++ toLe 4 params.length ++ toLe 4 0 ++ toLe 8 0x100800 ++ toLe 4 0 ++ toLe 4 0 }
/-- A state with that command read and not begun. -/
def State.asked (s : State) (op job : Nat) (params : Bytes) : State :=
  s.setRing 128 fun q => { q with enabling := 1, cmds := [cmdOf op job params] }

/-! ## EveryCommandIsAnswered -/

theorem witness_EveryCommandIsAnswered : (660 : Nat) ≤ 660 ∧ (660 : Nat) < 661 := by decide

/-! ## FusedIdentityKeptByEveryRun -/

theorem witness_FusedIdentityKeptByEveryRun : up.ident.legal = true ∧
    ({ up.ident with grade := 2, disabled := (List.range 8 ++ (List.range 8).map (· + 48) ++ (List.range 8).map (· + 96) ++
      (List.range 8).map (· + 144)) } : Ident).legal = true ∧
    ∃ t, Host.Core.run Sys2Proof.core 1 { up with pending := [.evtIn1Fall] } = .next t := ⟨by decide +kernel, by decide +kernel, _, rfl⟩

/-! ## InstructionsNeedTheirTaskOnItsCore -/

theorem witness_InstructionsNeedTheirTaskOnItsCore : taskRow (.lsexp ⟨0, 0⟩) = some ⟨0, 0⟩ ∧ up.canIssue ⟨0, 0⟩ = false := by decide +kernel

/-! ## VectorElementwiseResults -/

theorem witness_vector_elementwise : ∀ op ∈ [0x40, 0x41, 0x42, 0x43, 0x44, 0x45, 0x46, 0x47], running.canIssue ⟨3, 0⟩ = true ∧
    running.task ⟨3, 0⟩ = some task0 ∧ vecFmt (VecWord.ofBytes (vecWord op 2 1 2 3 0 4 0 0)).fmt = some .fp32 ∧
    (VecWord.ofBytes (vecWord op 2 1 2 3 0 4 0 0)).op = op ∧ vecFmt (VecWord.ofBytes (vecWord op 0x11 1 2 3 0 4 0 0)).fmt = none := by
  decide +kernel

/-! ## VectorTranscendentalResults -/

theorem witness_vector_transcendental : ∀ op ∈ [0x50, 0x51, 0x52, 0x53, 0x54, 0x55], running.canIssue ⟨3, 0⟩ = true ∧
    running.task ⟨3, 0⟩ = some task0 ∧ vecFmt (VecWord.ofBytes (vecWord op 2 1 2 3 0 4 0 0)).fmt = some .fp32 ∧
    (VecWord.ofBytes (vecWord op 2 1 2 3 0 4 0 0)).op = op ∧ vecFmt (VecWord.ofBytes (vecWord op 1 1 2 3 0 4 0 0)).fmt = some .fp64 := by
  decide +kernel

/-! ## VectorAcrossLanesResults -/

theorem witness_vector_across_lanes : ∀ op ∈ [0x58, 0x59, 0x5A, 0x5C], running.canIssue ⟨3, 0⟩ = true ∧
    running.task ⟨3, 0⟩ = some task0 ∧ vecFmt (VecWord.ofBytes (vecWord op 2 1 2 3 0 4 0 0)).fmt = some .fp32 ∧
    (VecWord.ofBytes (vecWord op 2 1 2 3 0 4 0 0)).op = op := by decide +kernel

/-! ## VectorConversionAndSumResults -/

theorem witness_vcvt : running.canIssue ⟨3, 0⟩ = true ∧ running.task ⟨3, 0⟩ = some task0 ∧
    (VecWord.ofBytes (vecWord 0x48 2 1 2 3 0 4 4 0)).op = 0x48 ∧ vcvtPair (VecWord.ofBytes (vecWord 0x48 2 1 2 3 0 4 4 0)) = some (.fp32, .bf16) := by
  decide +kernel
theorem witness_vwsum : ∀ len ∈ [32, 64, 128], let w := VecWord.ofBytes (vecWord 0x60 4 1 2 3 0 8 (len + 256 * 4) 0)
    w.op = 0x60 ∧ w.imm % 256 = len ∧ Fmt.ofCode w.fmt = some .bf16 ∧ Fmt.ofCode (bitsOf w.imm 8 8) = some .bf16 ∧
    pairOk .bf16 .bf16 = true := by decide +kernel
theorem witness_vptree : ∀ imm ∈ [0, 2], let w := VecWord.ofBytes (vecWord 0x61 2 1 2 3 0 4 imm 0x100)
    w.op = 0x61 ∧ Fmt.ofCode w.fmt = some .fp32 ∧ running.plainWs ⟨3, 0⟩ task0 = true ∧ w.stride = 0 ∧
    ∀ i < w.imm, w.addr + i * roundUp (w.count * Fmt.fp32.size) 64 + w.count * Fmt.fp32.size ≤ wsBytes := by decide +kernel

/-! ## RandomNumberResults -/

theorem witness_random : ∀ op ∈ [0x68, 0x69], ∀ fmt ∈ [2, 8], running.canIssue ⟨3, 0⟩ = true ∧ running.task ⟨3, 0⟩ = some task0 ∧
    (VecWord.ofBytes (vecWord op fmt 1 0 0 0 4 7 0)).op = op ∧ (Fmt.ofCode (VecWord.ofBytes (vecWord op fmt 1 0 0 0 4 7 0)).fmt = some .fp32 ∨
      Fmt.ofCode (VecWord.ofBytes (vecWord op fmt 1 0 0 0 4 7 0)).fmt = some .int32) := by decide +kernel

/-! ## VectorLoadAndStoreMoveWorkspaceBytes -/

theorem witness_vld_vst : ∀ op ∈ [0x70, 0x71], running.canIssue ⟨3, 0⟩ = true ∧ running.task ⟨3, 0⟩ = some task0 ∧
    running.plainWs ⟨3, 0⟩ task0 = true ∧ cellsWf running.mem.cells = true ∧ (VecWord.ofBytes (vecWord op 2 1 2 3 0 4 0 0x7FFFF0)).op = op ∧
    vecFmt (VecWord.ofBytes (vecWord op 2 1 2 3 0 4 0 0x7FFFF0)).fmt = some .fp32 ∧ 0x7FFFF0 + Fmt.fp32.bytesOf 4 = wsBytes ∧
    (packElems .fp32 (task0.vget 2 .fp32 4)).length = 16 := by decide +kernel
theorem witness_vld_uncorrectable : let s := { running with mem := { ecc := [(wsKey 3 0 0x100 / 8, true)] } }
    s.canIssue ⟨3, 0⟩ = true ∧ s.task ⟨3, 0⟩ = some task0 ∧ (s.job 3).train.tagged = [] ∧ 0x100 % 64 + Fmt.fp32.bytesOf 4 ≤ 64 ∧
    (s.job 3).tasks.all (fun x => x.decl.epochWorkspace.isEmpty) = true ∧ s.mem.bad (wsKey 3 0 0x100) (Fmt.fp32.bytesOf 4) = true := by decide +kernel

/-! ## ScalarOperationGivesTheVectorBits -/

theorem witness_scalar : running.canIssue ⟨3, 0⟩ = true ∧ running.task ⟨3, 0⟩ = some task0 ∧ vecFmt 2 = some .fp32 ∧ vecFmt 0x11 = none ∧
    scalarOp 0x40 .fp32 0x3F800000 0x3F800000 0 = some 0x40000000 ∧ (scalarOp 0x55 .fp32 0 0 0).isSome = true ∧
    scalarOp 0x55 .fp64 0 0 0 = none ∧ scalarOp 0x56 .fp32 0 0 0 = none := by decide +kernel

/-! ## RegisterInstructionsLeaveMemoryAlone -/

theorem witness_RegisterInstructionsLeaveMemoryAlone : registerRow (.vadd ⟨3, 0⟩ (vecWord 0x40 2 1 2 3 1 4 0 0)) = some (⟨3, 0⟩, vecWord 0x40 2 1 2 3 1 4 0 0) ∧
    ∃ u, exec (.vadd ⟨3, 0⟩ (vecWord 0x40 2 1 2 3 1 4 0 0)) running = .next u := ⟨by decide +kernel, _, rfl⟩

/-! ## ControllerRegistersTakeTheirValues -/

def paced : Task := { task0 with pace := some (1, 5000), phases := [(255, 7)] }
def pacedState : State := { running with jobs := running.jobs.set 3 { job3 with tasks := [paced] } }
theorem witness_controller_registers : running.canIssue ⟨3, 0⟩ = true ∧ running.task ⟨3, 0⟩ = some task0 ∧ task0.pace = none ∧
    (task0.phases.find? fun p => p.1 == 255) = none ∧ pacedState.canIssue ⟨3, 0⟩ = true ∧ pacedState.task ⟨3, 0⟩ = some paced ∧
    paced.pace = some (1, 5000) ∧ (paced.phases.find? fun p => p.1 == 255) = some (255, 7) := by decide +kernel

/-! ## ControllerWaitTakesItsPulsesInOrder -/

def lineState (n : Nat) : State :=
  { running with dies := running.dies.set 0 { domain := 0, lines := (List.replicate 256 {}).set 5 { count := n } } }
theorem witness_controller_wait : ∀ n ∈ [2, 1], (lineState n).canIssue ⟨3, 0⟩ = true ∧ (lineState n).task ⟨3, 0⟩ = some task0 ∧
    ((lineState n).job 3).line (dieOf task0.home) 1 = some 5 ∧ dieOf task0.home < (lineState n).dies.length ∧
    5 < ((lineState n).die (dieOf task0.home)).lines.length ∧ ((lineState n).die 0).lines.getD 5 {} = { count := n } := by decide +kernel

/-! ## ChannelCommandsFollowTheStateOfTheChannel -/

def chanState (st : Nat) : State := { running with jobs := running.jobs.set 3 { job3 with chans := [{ chan0 with state := st }, chan1] } }
theorem witness_channel_commands : ∀ st ∈ [0, 3, 1], (chanState st).canIssue ⟨3, 0⟩ = true ∧ (chanState st).task ⟨3, 0⟩ = some task0 ∧
    (chanState st).chan (task0.chanRef ⟨3, 0⟩ false 0) = some { chan0 with state := st } ∧
    (chanState st).chan (task0.chanRef ⟨3, 0⟩ true 1) = some chan1 ∧ goAction 0 = 0 ∧ goAction 0x100 = 1 ∧ goAction 0x200 = 2 ∧
    goAction 0x700 = 3 ∧ bitOf 0x700 10 = true ∧ bitOf 0x300 10 = false := by decide +kernel

/-! ## SchedulingEventsMoveTasks -/

def atPoint : Task := { task0 with atPoint := true }
def twoJobs (be : Bool) : State :=
  { running with
    jobs := (running.jobs.set 3 { job3 with tasks := [atPoint], bestEffort := be }).set 4 { job3 with tasks := [task0] }
    cores := running.cores.set 0 { domain := 0, running := some ⟨3, 0⟩, readyLc := if be then [⟨4, 0⟩] else [] } }
theorem witness_scheduling : ∀ be ∈ [true, false], (twoJobs be).task ⟨3, 0⟩ = some atPoint ∧ (twoJobs be).inService 0 = true ∧
    (twoJobs be).atGap 0 = true ∧ ((twoJobs be).core 0).running = some ⟨3, 0⟩ ∧ ((twoJobs be).job 3).live = true ∧
    ((twoJobs be).job 3).bestEffort = be ∧ (twoJobs be).task ⟨4, 0⟩ = some task0 ∧ atPoint.block = none ∧
    ((twoJobs be).core 0).sliceOver = false ∧ ((twoJobs be).core 0).has ⟨3, 0⟩ = true := by decide +kernel
theorem witness_scheduling_ready : (twoJobs true).isReady ⟨4, 0⟩ = true ∧ ((twoJobs false).core 0).has ⟨4, 0⟩ = false ∧
    ((twoJobs true).core 0).readyLc.head? = some ⟨4, 0⟩ ∧ (twoJobs false).inService 192 = false ∧ 0 < (twoJobs true).cores.length := by decide +kernel

/-! ## ArrayInstructionsFormTheirTotals -/

def mmaWord (flags : Nat) : Bytes :=
  toLe 1 0x31 ++ toLe 1 0 ++ toLe 1 4 ++ toLe 1 4 ++ toLe 1 0 ++ toLe 1 0 ++ toLe 1 flags ++ toLe 1 0 ++ toLe 4 64 ++ toLe 1 0 ++ toLe 1 1 ++
    toLe 2 0 ++ toLe 4 0 ++ toLe 4 0x1000 ++ toLe 4 0x4000 ++ toLe 2 0 ++ toLe 2 0
def clean : TileFaults := { corrected := 0, uncorrectable := false, array1 := none, vector1 := none, array2 := none, vector2 := none }
def openTile : Tile :=
  { array := 0, slot := 0, shape := 0, wide := false, accOffset := 0, chunk := 0, totals := List.replicate 1024 0, key := 0, selected := false }
theorem witness_mma : ∀ fl ∈ [1, 3], running.canIssue ⟨3, 0⟩ = true ∧ running.task ⟨3, 0⟩ = some task0 ∧ running.plainWs ⟨3, 0⟩ task0 = true ∧
    cellsWf running.mem.cells = true ∧ (let u := running.unitDid ⟨3, 0⟩ 0 id; let w := ArrayWord.ofBytes (mmaWord fl)
      w.op = 0x31 ∧ w.pair = some (.bf16, .bf16) ∧ u.tileOf ⟨3, 0⟩ task0 w = some openTile ∧ u.arrayWaits ⟨3, 0⟩ task0 w openTile = false ∧
      tileSelected (u.job 3).seed task0.tileKey.toNat (u.job 3).train.step (u.job 3).sampling = false ∧ w.closes = (fl == 3) ∧
      (∀ i < shapeM w.shape, w.aAddr + i * w.rowA .bf16 + w.kCount * Fmt.bf16.size ≤ wsBytes) ∧
      (∀ i < w.kCount, w.bAddr + i * w.rowB .bf16 + shapeN w.shape * Fmt.bf16.size ≤ wsBytes) ∧ w.outAddr + 1024 * 4 ≤ wsBytes) := by
  decide +kernel

/-! ## FaultyCoresAreVotedOutAndFenced -/

def disputed : Dispute := { task := ⟨3, 0⟩, array := 0, slot := 0, word := mmaWord 0, before := List.replicate 1024 0 }
def tiled : Task := { task0 with tiles := [openTile] }
def disputeState : State :=
  { running with jobs := running.jobs.set 3 { job3 with tasks := [tiled] }
                 cores := running.cores.set 0 { domain := 0, running := some ⟨3, 0⟩, dispute := some disputed } }
theorem witness_vote : (disputeState.core 0).dispute = some disputed ∧ disputeState.task disputed.task = some tiled ∧
    disputeState.plainWs disputed.task tiled = true ∧ tiled.tile 0 0 = some openTile ∧ (ArrayWord.ofBytes disputed.word).closes = false ∧
    (ArrayWord.ofBytes disputed.word).pair = some (.bf16, .bf16) ∧ (running.core 0).dispute = none := by decide +kernel
theorem witness_fence : let s := { up with cores := up.cores.set 191 { domain := 0, fenceDue := true } }
    (s.core 191).fenceDue = true ∧ (s.core 191).fenced = false ∧ 191 < s.cores.length ∧ (∀ j < 64, ((s.job j).tasks.any fun k => k.core == 191) = false) ∧
    (s.core 0).fenceDue = false := by decide +kernel
theorem witness_fence_next : ∀ c, (State.core { up with cores := up.cores.set 191 { domain := 0, fenceDue := true } } c).next = none := by
  intro c
  have h : ∀ x ∈ (up.cores.set 191 { domain := 0, fenceDue := true }), x.next = none := by decide +kernel
  unfold State.core List.getD
  cases hc : (up.cores.set 191 { domain := 0, fenceDue := true })[c]? with
  | none => rfl
  | some x => exact h x (List.mem_of_getElem? hc)

/-! ## RingRegistersStartAndStopARing -/

theorem witness_rings : up.windowOpen = true ∧ (up.ring 128).enable = true ∧ (up.ring 3).enable = false ∧ 131 < up.host.rings.length ∧
    State.reset.windowOpen = false ∧ (0x100001#64).toNat % 2 = 1 ∧ up.host.granted ((0x100001#64).toNat / 4096 * 4096) 4096 = true := by decide +kernel

/-! ## CommandReadTakesOneWholeCommand -/

def nopSlot : Bytes :=
  let h : Bytes := toLe 2 1 ++ toLe 1 2 ++ toLe 1 0 ++ toLe 2 7 ++ toLe 2 0xFFFF ++ toLe 4 0 ++ toLe 4 0 ++ toLe 8 0x100800 ++ toLe 4 0
  h ++ toLe 4 (crc32c h).toNat
def oneAhead : State := up.setRing 128 fun q => { q with tail := 1 }
theorem witness_commandRead : oneAhead.takesCommands = true ∧ oneAhead.switrakUp = true ∧ oneAhead.nextQueue = some 128 ∧ up.nextQueue = none ∧
    oneAhead.readHalt (oneAhead.ring 128) (sliceZ nopSlot 0 32) [] 0 0 0 1 = none ∧
    oneAhead.readHalt (oneAhead.ring 128) (toLe 32 1) [] 0 0 0 1 = some 1 := by decide +kernel

/-! ## CommandsTimeOut -/

def begunState (op job : Nat) : State :=
  running.setRing 128 fun q => { q with enabling := 1, cmds := [{ cmdOf op job [] with begun := true }] }
theorem witness_timeout : (State.asked up 1 0xFFFF []).cmd ⟨128, 1, 0⟩ = some (cmdOf 1 0xFFFF []) ∧ up.keeper.management = 0 ∧
    (cmdOf 1 0xFFFF []).begun = false ∧ (let s := begunState 0x0105 3;
      s.cmd ⟨128, 1, 0⟩ = some { cmdOf 0x0105 3 [] with begun := true } ∧ s.switrakUp = true ∧ s.host.granted 0x100800 32 = true ∧
      (cmdOf 0x0105 3 []).replyAddr = 0x100800 ∧ (s.job 3).waits.contains ⟨128, 1, 0⟩ = false ∧ (s.job 3).copyOf ⟨128, 1, 0⟩ = false ∧
      ((s.job 3).serving.changes.any fun x => x.2.2 == some ⟨128, 1, 0⟩) = false ∧ (s.ring 128).quiet = false) ∧
    (let s := (begunState 0x010A 3).setJob 3 fun b => { b with waits := [⟨128, 1, 0⟩] };
      (s.job 3).waits.contains ⟨128, 1, 0⟩ = true ∧ s.cmd ⟨128, 1, 0⟩ = some { cmdOf 0x010A 3 [] with begun := true }) ∧
    State.reset.keeper.management ≠ 0 := by decide +kernel

/-! ## AnswersOfTheAdapterCompleteRequests -/

def withFar (len : Nat) (use : FarUse) : State := up.setHost fun h => { h with far := [{ id := 5, addr := 0x100802, data := [], length := len, use := use }] }
theorem witness_far : (up.host.far.find? fun y => y.id == 5) = none ∧
    (∀ use ∈ [FarUse.replyBody 128 [0, 0], .replyStatus 128, .recordBody 7, .chanWrite ⟨3, false, 0, 0⟩], ∃ x, ((withFar 0 use).host.far.find? fun y => y.id == 5) = some x ∧ x.length = 0 ∧ x.use = use) ∧
    (∃ x, ((withFar 64 (.chanRead ⟨3, false, 0, 0⟩ 0x9000)).host.far.find? fun y => y.id == 5) = some x ∧ x.length ≠ 0) ∧ (up.ring 128).quiet = false ∧
    (let s := (withFar 0 (.replyStatus 128)).setRing 128 fun q => { q with cmds := [{ cmdOf 1 0xFFFF [] with ended := true, header := List.replicate 16 0 ++ toLe 8 0x100802 }] };
      ((s.ring 128).cmds.find? fun c => c.ended && c.replyAddr == 0x100802).isSome = true) := by
  refine ⟨by decide +kernel, ?_, ⟨_, rfl, by decide⟩, by decide +kernel, by decide +kernel⟩
  intro use h
  simp only [List.mem_cons, List.not_mem_nil, or_false] at h
  rcases h with rfl | rfl | rfl | rfl <;> exact ⟨_, rfl, rfl, rfl⟩

/-! ## RepliesAreWrittenInTwoSteps -/

theorem witness_replies : (State.asked up 1 0xFFFF []).mayBegin ⟨128, 1, 0⟩ (cmdOf 1 0xFFFF []) 1 = true ∧
    (State.asked up 8 0xFFFF []).mayBegin ⟨128, 1, 0⟩ (cmdOf 8 0xFFFF []) 8 = true ∧ (cmdOf 1 0xFFFF []).replyAddr ≠ 0 ∧
    ((State.asked up 1 0xFFFF []).ring 128).quiet = false ∧ up.switrakUp = true ∧ up.host.granted (cmdOf 1 0xFFFF []).replyAddr 32 = true ∧
    (cmdOf 8 0xFFFF []).params = [] := by decide +kernel

/-! ## SettingCommandsTakeEffectTogether -/

/-- The witness for a ring command with a job's state and parameters: it may begin, and its checks pass. -/
def begins (s : State) (op job : Nat) (params : Bytes) : Bool := (State.asked s op job params).mayBegin ⟨128, 1, 0⟩ (cmdOf op job params) op
def loadedOnly : State := running.setJob 3 fun b => { b with state := 2, started := false }
theorem witness_settings : begins loadedOnly 0x0103 3 (toLe 2 6 ++ toLe 2 0 ++ toLe 4 8 ++ toLe 8 50) = true ∧
    (∃ x, parseBlocks 17 0 (toLe 2 6 ++ toLe 2 0 ++ toLe 4 8 ++ toLe 8 50) [] = .ok [x] ∧
      (∀ y ∈ (loadedOnly.job 3).blockBad false x, y.1 = false) ∧ (loadedOnly.job 3).conflict false [x] = none) ∧
    begins running 0x010A 3 [] = true ∧ begins loadedOnly 0x010A 3 [] = true ∧ begins up 0x0010 0xFFFF [1] = true ∧ up.notStrict = none ∧
    begins running 0x0010 0xFFFF [1] = true ∧ running.notStrict = some 3 ∧ begins up 0x0010 0xFFFF [2] = true ∧
    begins up 0x0008 0xFFFF [1, 0, 0, 0, 0, 0, 0, 0] = true ∧ up.firstMisfit 1600 = none ∧
    begins up 0x0009 0xFFFF [50, 0, 0, 0] = true ∧ begins running 0x0009 3 [50, 0, 0, 0] = true := by
  refine ⟨by decide +kernel, ⟨_, rfl, by decide +kernel, by decide +kernel⟩, ?_⟩
  decide +kernel

/-! ## ClearedEventsReleaseAlert -/

def alerted : State := up.setKeeper fun k => { k with event := 0b10110 }
theorem witness_alert : alerted.keeper.event < 32 ∧ alerted.power.input = true ∧ alerted.windowOpen = true ∧ alerted.alertLow = true ∧
    (∀ i < 5, alerted.keeper.event.testBit i = true → (0b10110#64).getLsbD i = true) := by decide +kernel

/-! ## PatinaDecaysByThePoweredHour -/

theorem witness_decay : (let s := up.setHealth fun h => { h with acc := 614400 }; s.health.acc ≤ 1048575 ∧ s.power.input = true) ∧
    (let s := up.setPower fun p => { p with input := false }; s.health.acc ≤ 1048575 ∧ s.power.input = false) := by decide +kernel

/-! ## MailboxTakesOneCommandAtATime -/

/-- The module with a command in the mailbox, given by opcode and parameters; its CRC is right. -/
def boxed (s : State) (op : Nat) (params : Bytes) (busy : Bool) : State :=
  let h : Bytes := toLe 2 op ++ toLe 1 3 ++ toLe 1 0 ++ toLe 2 0 ++ toLe 2 0xFFFF ++ toLe 4 params.length ++ toLe 4 0 ++ toLe 8 0 ++ toLe 4 0
  s.setKeeper fun k => { k with mailbox := { k.mailbox with
    header := h ++ toLe 4 (crc32c (h ++ params)).toNat, param := params ++ List.replicate (64 - params.length) 0, busy := busy } }
theorem witness_mailbox : up.power.input = true ∧ (boxed up 0x0F01 [] true).keeper.mailbox.busy = true ∧
    (boxed up 0x0F01 [] false).keeper.mailbox.headerBad = false ∧ isDeadbolt (boxed up 0x0F01 [] false).keeper.mailbox.cmd.opcode = true ∧
    (boxed up 0x0F01 [1] false).windowOpen = true ∧ isDeadbolt (boxed up 1 [] false).keeper.mailbox.cmd.opcode = false ∧ up.keeper.mailbox.headerBad = true ∧
    (0x0801#32).toNat % 2 = 1 ∧ (0x0803#32).toNat / 2 % 128 ≠ 0 := by decide +kernel

/-! ## DeadboltReadsAnswerFromTheKeeper -/

def dumped (s : State) : State := s.setKeeper fun k => { k with dump := { k.dump with valid := true, locked := true, id := 1, length := 8192 } }
theorem witness_deadboltReads : (boxed up 0x0F01 [] true).mbBegins 0x0F01 = true ∧ (boxed up 0x0F02 (toLe 8 0 ++ toLe 4 60) true).mbBegins 0x0F02 = true ∧
    (let s := dumped (boxed up 0x0F03 (toLe 8 0 ++ toLe 4 3840 ++ toLe 4 2) true); s.mbBegins 0x0F03 = true ∧ s.h0Fenced = false ∧
      s.keeper.dump.valid = true ∧ s.keeper.dump.bulk = none ∧ s.keeper.mailbox.cmd.p 0xC 1 = 2 ∧ s.keeper.mailbox.cmd.p 8 4 = 3840 ∧
      s.keeper.mailbox.cmd.p 0xD 3 = 0) ∧
    (let s := (dumped up).setKeeper fun k => { k with dump := { k.dump with bulk := some (0, 8192, 0x100000, true) } };
      s.keeper.dump.bulk = some (0, 8192, 0x100000, true) ∧ (s.host.far.any fun x => x.use == .bulk) = false) := by decide +kernel

/-! ## DeadboltActionsFenceResetAndDarken -/

theorem witness_deadboltActs : (boxed up 0x0F05 (toLe 4 0x10001) true).mbBegins 0x0F05 = true ∧ (boxed up 0x0F04 [] true).mbBegins 0x0F04 = true ∧
    (boxed up 0x0F06 [] true).mbBegins 0x0F06 = true ∧ (boxed up 0x0F07 [] true).mbBegins 0x0F07 = true ∧ (boxed up 0x0F08 [] true).mbBegins 0x0F08 = true ∧
    up.deviceInReset = false ∧ up.keeper.off = false ∧ up.keeper.device = 0 ∧ up.keeper.tripped = false ∧ up.keeper.resets = [] ∧ up.power.resetLow = false ∧
    up.fabric.txns = [] ∧ (∀ x ∈ up.fabric.ports, x.link.tx = []) ∧ (boxed up 0x0F05 (toLe 4 0x10001) true).keeper.mailbox.cmd.p 0 4 = 0x10001 := by decide +kernel

/-! ## I3cPortWorksInWholeWords -/

theorem witness_i3c : (let s := up.setKeeper fun k => { k with i3cAddr := some 8 }; s.power.input = true ∧ s.keeper.i3cAddr ≠ none ∧
    s.keeper.mailbox.busy = false) ∧ up.keeper.i3cAddr = none ∧ ([0x28, 0x10, 1, 0, 0, 0] : Bytes).length = 6 := by decide +kernel

/-! ## PinsPowerAndKeeperEntries -/

def portUp : State := up.setPort 5 fun x => { x with state := 2, laser := true, neighbour := 9 }
theorem witness_pins : up.power.evt0Low = false ∧ up.power.input = true ∧ up.deviceInReset = false ∧ portUp.upPorts = [5] ∧ portUp.fabric.txns = [] ∧
    (∀ x ∈ portUp.fabric.ports, x.link.tx = []) ∧ up.keeper.stallLogged = false ∧ up.keeper.mirrorNext < 8 ∧ up.keeper.mirrors.length = 8 ∧
    (up.setKeeper fun k => { k with mirroring := some [] }).keeper.mirroring = some [] ∧
    ((up.setKeeper fun k => k.countCorrected (coreDomain 4) 3 0 0).keeper.corrected.find? fun c => c.domain == coreDomain 4 && c.due 0).isSome = true := by
  decide +kernel

/-! ## DeviceResetsClearAndComeBack -/

def resetting (d : Domain) (stage : Nat) : State := up.setKeeper fun k => { k with device := 2, resets := [{ domain := d, source := 2, cls := 5, noDump := true, stage := stage }] }
theorem witness_resets : (∃ x, (resetting devDomain 1).resetOf devDomain = some x ∧ x.stage = 1) ∧ (∃ x, (resetting ⟨4, 0⟩ 1).resetOf ⟨4, 0⟩ = some x ∧ x.stage = 1) ∧
    (∃ x, (resetting (coreDomain 191) 5).resetOf (coreDomain 191) = some x ∧ x.stage = 5) ∧ (resetting devDomain 5).fw.awaiting = false ∧ 191 < up.cores.length ∧
    up.keeper.tripped = false ∧ up.alive = true ∧ up.deviceInReset = false ∧ up.power.resetLow = false ∧ State.reset.deviceInReset = true ∧
    up.resetOf devDomain = none := by
  refine ⟨⟨_, rfl, rfl⟩, ⟨_, rfl, rfl⟩, ⟨_, rfl, rfl⟩, ?_⟩
  decide +kernel

/-! ## FailuresEscalateAndTheThermalTripGates -/

theorem witness_escalate : (∃ x, (resetting (coreDomain 50) 1).resetOf (coreDomain 50) = some x) ∧ dieOf 50 < up.dies.length ∧
    (∃ x, (resetting ⟨4, 0⟩ 5).resetOf ⟨4, 0⟩ = some x) ∧ (∃ x, (resetting devDomain 5).resetOf devDomain = some x ∧ x.stage ≠ 3) ∧
    up.alive = true ∧ up.deviceInReset = false ∧ up.resetOf devDomain = none := by
  refine ⟨⟨_, rfl⟩, by decide +kernel, ⟨_, rfl⟩, ⟨_, rfl, by decide⟩, ?_⟩
  decide +kernel

/-! ## PowerWardRegulatorsAndIdleStates -/

/-- No job, a budget that permits every state; cores awake. -/
def restful : State := { up with power := { budget := 30000 } }
def gatedAll : State := { restful with cores := List.replicate 192 { domain := 0, idle := 2 }, dies := List.replicate 4 { domain := 4, gated := true } }
theorem witness_power : up.alive = true ∧ (up.die 3).domain = 0 ∧ up.power.input = true ∧ restful.mayI1 0 = true ∧ restful.mayI2 0 = false ∧
    (restful.setCore 0 fun c => { c with idle := 1 }).mayI2 0 = true ∧ gatedAll.mayI4 = true ∧ up.asleep = false ∧
    (gatedAll.die 2).gated = true ∧ gatedAll.asleep = false ∧ up.inService 0 = true ∧ (up.die 0).gated = false ∧
    ({ restful with cores := List.replicate 192 { domain := 0, idle := 2 } } : State).mayI3 3 = true ∧
    (let s := running.setTask ⟨3, 0⟩ fun x => { x with pace := some (1, 5000) }; s.paced 0 = true ∧ s.inService 0 = true ∧ s.asleep = false) := by
  decide +kernel

/-! ## FirmwareIsWrittenActivatedAndAttested -/

def piece (kind flags : Nat) : Bytes := toLe 1 kind ++ toLe 1 flags ++ toLe 6 0 ++ toLe 8 0 ++ toLe 8 4 ++ [1, 2, 3, 4]
def bootingState : State := (resetting ⟨5, 0⟩ 5).setFw fun f => { f with awaiting := true, raiseFloor := true }
theorem witness_firmware : begins up 0x0004 0xFFFF (piece 3 0) = true ∧ begins up 0x0004 0xFFFF (piece 3 1) = true ∧
    (let c := cmdOf 0x0004 0xFFFF (piece 3 1); c.p 0 1 = 3 ∧ c.p 1 1 = 1 ∧ c.p 8 8 = 0 ∧ c.p 0x10 8 = 4 ∧ c.params.drop 24 = [1, 2, 3, 4] ∧
      (up.fw.take 3 4 [1, 2, 3, 4]).finish 3 4 [1, 2, 3, 4] = none) ∧ up.fw.staging = none ∧ begins up 0x0005 0xFFFF [3] = true ∧ up.busyJob = none ∧
    bootingState.bootWaits = true ∧ up.bootWaits = false ∧ begins up 0x0003 0xFFFF (toLe 32 7 ++ toLe 8 (farBase + 0x200000) ++ [1]) = true ∧
    up.farOk (farBase + 0x200000) 13696 = true ∧ begins up 0x0602 0xFFFF (toLe 8 (farBase + 0x200000)) = true := by decide +kernel
/-- An owner-removal object is installed when its signature verifies: the hypothesis of a piece that passes its check. -/
theorem witness_install (key b : Bytes) (h : signedBy key b = true) (h1 : objectHeaderOk b 4 = true) (h2 : fieldN b 8 4 = 0) (h3 : b.length = 16 + sigBytes) :
    ({ up.fw with owner := some key } : Firmware).install 4 b = some { up.fw with owner := none, deviceSet := none } := by
  simp [Firmware.install, h, h1, h2, h3]

/-! ## TestsTakeCoresAndGiveThemBack -/

def testState (test : Nat) (fenced : Bool) : State := up.setCore 5 fun c => { c with test := test, fenced := fenced, activeUs := 28800000000 }
theorem witness_tests : (5 < (testState 3 false).cores.length ∧ ((testState 3 false).core 5).test = 3 ∧ ((testState 3 false).core 5).fenced = false ∧
    ((testState 3 false).core 5).marginsSpent = false ∧ (testState 3 false).health.acc + 112 * 1024 < 600 * 1024 ∧
    (∀ j < 64, (((testState 3 false).job j).tasks.any fun k => k.core == 5) = false)) ∧
    ((testState 3 true).core 5).fenced = true ∧ begins up 0x0601 0xFFFF (toLe 24 0x30 ++ [1]) = true ∧ coresOf (fieldN (toLe 24 0x30) 0 24) = [4, 5] ∧
    (∀ x ∈ [4, 5], up.coreInReset x = false ∧ up.enabled x = true ∧ (up.core x).fenced = false) ∧
    ((testState 1 false).testable 5 = true ∧ ((testState 1 false).core 5).wantsTest = true ∧ (testState 1 false).testTurn 5 = true ∧
      (testState 1 false).atGap 5 = true) ∧
    (testState 0 false).atGap 5 = true ∧ ((testState 0 false).setCore 5 fun c => if c.test = 0 then { c with test := 1 } else c).testTurn 5 = true := by
  decide +kernel
theorem witness_tests_due : ((testState 0 false).setCore 5 fun c => { c with running := some ⟨3, 0⟩ }).testable 5 = true := by decide +kernel
theorem witness_tests_idle : ∀ c, ((testState 3 false).core c).next = none := by
  intro c
  by_cases h : c < 192
  · revert c; decide +kernel
  · have : (testState 3 false).core c = {} := by
      unfold State.core testState
      rw [List.getD_eq_getElem?_getD, List.getElem?_eq_none]; rfl
      exact Nat.le_of_not_lt h
    rw [this]; rfl

/-! ## PortCommandsSetUpAndReportPorts -/

def portsUp : State := (up.setPort 5 fun x => { x with domain := 0, role := 1, size := 4 })
def ringRoute : Nat := 2 ^ 62 + 2 ^ 45
theorem witness_port_commands : begins portsUp 0x0301 0xFFFF [5] = true ∧ (portsUp.port 5).domain = 0 ∧ portsUp.fabric.txns = [] ∧ (portsUp.port 5).link.tx = [] ∧
    begins portsUp 0x0302 0xFFFF (toLe 1 5 ++ [1, 0, 1] ++ toLe 2 4 ++ toLe 6 0) = true ∧ (portsUp.port 5).state = 0 ∧ begins portsUp 0x0303 0xFFFF [5] = true ∧
    (portsUp.port 5).role ≠ 0 ∧ portsUp.power.evt1Low = false ∧ 5 < portsUp.fabric.ports.length ∧
    begins portsUp 0x0304 0xFFFF (toLe 8 5 ++ toLe 8 (farBase + 0x200000)) = true ∧ portsUp.farOk (farBase + 0x200000) 64 = true ∧
    begins portsUp 0x0305 0xFFFF (toLe 4 1 ++ toLe 8 9 ++ toLe 8 ringRoute ++ toLe 8 0) = true ∧
    ∀ x ∈ portsUp.fabric.routeBad 4 (BitVec.ofNat 64 ringRoute) 0 0, x.1 = false := by decide +kernel

/-! ## TrainingEventsMovePorts -/

def portIn (state : Nat) : State := up.setPort 5 fun x => { x with state := state, domain := 0, width := 16, expect := 9
                                                                   link := { retry := [{ seq := 0, vc := 2, som := true, eom := true, data := [], shared := true }] } }
def train (lanes : Nat) (ns : Nat) (n : Nat) : TrainResult := { lanesHere := BitVec.ofNat 16 lanes, lanesFar := BitVec.ofNat 16 lanes, rttNs := ns, neighbour := BitVec.ofNat 32 n }
theorem witness_training : (∀ st ∈ [0, 1, 2, 3, 4], ((portIn st).port 5).state = st ∧ (portIn st).fabric.ports.length = 16 ∧ (portIn st).fabric.txns = [] ∧
    (∀ f ∈ ((portIn st).port 5).link.retry, f.resends < 3)) ∧ chooseWidth ((train 0xF3FF 200 9).lanesHere &&& (train 0xF3FF 200 9).lanesFar).toNat = some (8, 0) ∧
    chooseWidth ((train 0x1111 200 9).lanesHere &&& (train 0x1111 200 9).lanesFar).toNat = none ∧ (train 0xF3FF 200 9).neighbour = ((portIn 1).port 5).expect ∧
    (train 0xF3FF 200 8).neighbour ≠ ((portIn 1).port 5).expect ∧ 20500 < (train 0xF3FF 20501 9).rttNs := by decide +kernel
theorem witness_retrain_limit : let s := (portIn 2).setPort 5 fun x => { x with retrainTimes := [0, 0, 0] }
    4 ≤ (((s.port 5).retrainTimes.filter fun n => decide (s.keeper.time < n + 10000)) ++ [s.keeper.time]).length := by decide +kernel

/-! ## FlitsAreTakenInOrderAndMessagesForwarded -/

/-- A flit of a header word and 240 bytes of groups, with its CRC. -/
def flitOf (h : Nat) (body : Bytes) : Flit :=
  let b := toLe 8 h ++ body ++ List.replicate (240 - body.length) 0
  { bytes := b ++ toLe 8 (crc64 b).toNat, codes := List.replicate 24 0 }
theorem flitOk_flitOf (h : Nat) (body : Bytes) (hb : body.length ≤ 240) : flitOk (flitOf h body) = true := by
  unfold flitOf flitOk
  have hl : (toLe 8 h ++ body ++ List.replicate (240 - body.length) (0 : Byte)).length = 248 := by simp; omega
  generalize toLe 8 h ++ body ++ List.replicate (240 - body.length) (0 : Byte) = b at hl
  have ht : (b ++ toLe 8 (crc64 b).toNat).take 248 = b := by rw [← hl, List.take_left]
  have hf := fieldN_append b [] 8 (crc64 b).toNat
  rw [List.append_nil, hl] at hf
  simp only [ht, hf, List.length_append, hl, toLe_length, decide_true, Bool.true_and, beq_iff_eq]
  exact (Nat.mod_eq_of_lt (crc64 b).isLt).symm
/-- The first eight bytes of such a flit. -/
theorem head_flitOf (h : Nat) (body : Bytes) : fieldN (flitOf h body).bytes 0 8 = h % 256 ^ 8 := by
  unfold flitOf
  simp only [List.append_assoc]
  exact fieldN_append [] _ 8 h
def linkUp : State := up.setPort 5 fun x => { x with state := 2, domain := 0, role := 3, link := { Link.fresh with
  retry := [{ seq := 0, vc := 2, som := true, eom := true, data := [], shared := true }], txSeq := 1 } }
def rxMsg : RxMsg := { vc := 2, data := headerBytes { headerOf up 9 0x01 3 0 0 0 with route := BitVec.ofNat 64 (3 * 2 ^ 62 + 2 ^ 41) }, bad := [], whole := true, flits := (1, 0) }
def linkRx (bad : List Nat) : State :=
  (linkUp.setPort 6 fun x => { x with state := 2, role := 3 }).setPort 5 fun x => { x with role := 4, link := { x.link with rx := [{ rxMsg with bad := bad }] } }
theorem witness_flits : (linkUp.port 5).state = 2 ∧ linkUp.fabric.ports.length = 16 ∧ (up.port 5).state ≠ 2 ∧ flitOk { (flitOf 0 []) with bytes := [] } = false ∧
    (∀ x ∈ (linkUp.port 5).link.retry, x.resends < 3) ∧ (∀ c ∈ (List.replicate 24 0).take 8, c ≠ 1) ∧ (linkUp.port 5).link.rxSeq = 0 ∧
    ((linkUp.port 5).link.retry.head?).map (·.seq) = some 0 := by decide +kernel
theorem witness_flits_first : let f := flitOf (2 ^ 62 + 2 * 2 ^ 59 + 2 ^ 13 + 2 ^ 12 + 2 ^ 11) []
    flitOk f = true ∧ fieldN f.bytes 0 8 / 2 ^ 62 % 2 ^ 2 = 1 ∧ fieldN f.bytes 0 8 / 2 ^ 43 % 2 ^ 16 = 0 ∧ fieldN f.bytes 0 8 / 2 ^ 26 % 2 ^ 1 = 0 ∧
    fieldN f.bytes 0 8 / 2 ^ 12 % 2 ^ 1 = 1 := by
  refine ⟨flitOk_flitOf _ _ (by decide), ?_⟩
  rw [head_flitOf]; decide +kernel
theorem witness_flits_rest : let f := flitOf (2 ^ 62 + 2 ^ 13) []
    flitOk f = true ∧ fieldN f.bytes 0 8 / 2 ^ 62 % 2 ^ 2 = 1 ∧ fieldN f.bytes 0 8 / 2 ^ 43 % 2 ^ 16 = 0 ∧ fieldN f.bytes 0 8 / 2 ^ 12 % 2 ^ 1 = 0 := by
  refine ⟨flitOk_flitOf _ _ (by decide), ?_⟩
  rw [head_flitOf]; decide +kernel
theorem witness_flits_gap : let f := flitOf (2 ^ 62 + 9 * 2 ^ 43) []
    flitOk f = true ∧ fieldN f.bytes 0 8 / 2 ^ 62 % 2 ^ 2 = 1 ∧ fieldN f.bytes 0 8 / 2 ^ 43 % 2 ^ 16 = 9 := by
  refine ⟨flitOk_flitOf _ _ (by decide), ?_⟩
  rw [head_flitOf]; decide +kernel
theorem witness_flits_idle : let f := flitOf (2 ^ 26) []
    flitOk f = true ∧ fieldN f.bytes 0 8 / 2 ^ 62 % 2 ^ 2 = 0 ∧ fieldN f.bytes 0 8 / 2 ^ 26 % 2 ^ 1 = 1 ∧ fieldN f.bytes 0 8 / 2 ^ 27 % 2 ^ 16 = 0 := by
  refine ⟨flitOk_flitOf _ _ (by decide), ?_⟩
  rw [head_flitOf]; decide +kernel
theorem witness_forward : (((linkRx []).port 5).link.rx.find? fun x => x.vc == 2 && x.whole) = some rxMsg ∧
    ((linkRx []).nextHop 5 (msgOf rxMsg.data rxMsg.bad).hdr = some (some (6, BitVec.ofNat 64 (3 * 2 ^ 62))) ∧ ((linkRx []).port 6).state = 2) ∧
    (((linkRx [3]).port 5).link.rx.find? fun x => x.vc == 2 && x.whole) = some { rxMsg with bad := [3] } := by decide +kernel

/-! ## PeerRequestsAreAdmittedAndAnswered -/

/-- Port 5 UP with a neighbour whose device the set names; job 3 holds two blocks of HBM at 0x2000_0000. -/
def peerUp : State := ((running.setPort 5 fun x => { x with state := 2, domain := 0 }).setFw fun f => { f with deviceSet := some (1, [9]) }).setDie 0 fun x => { x with domain := 0 }
def peerMsg (op len : Nat) (content : Bytes) : Msg :=
  { hdr := { headerOf peerUp peerUp.ident.device op 3 7 0x20000040 len with source := 9 }, content := content, bad := [] }
theorem witness_requests : peerUp.arrived 5 (peerMsg 1 8 [1, 2, 3, 4, 5, 6, 7, 8]) 0x01 = true ∧ peerUp.arrived 5 (peerMsg 2 8 []) 0x02 = true ∧
    peerUp.arrived 5 (peerMsg 2 8 []) 0x01 = false ∧ peerUp.inDeviceSet 9 = true ∧ peerUp.inDeviceSet 8 = false ∧ (peerUp.job 3).memberEpoch = 0 ∧
    peerUp.fabric.leaving = false ∧ ((peerUp.takeRx 5 (peerMsg 1 8 [])).port 5).admits 9 = true ∧ (peerUp.job 3).loaded = true ∧ (peerUp.job 4).loaded = false ∧
    (peerMsg 1 8 []).hdr.flags.toNat % 2 = 0 ∧ peerUp.plainDev 3 = true ∧ cellsWf peerUp.mem.cells = true ∧ (peerMsg 1 8 []).hdr.address.toNat = 0x20000040 := by
  decide +kernel
/-- Any stretch of the job's grant is reached. -/
theorem witness_reaches (n : Nat) (h : n ≤ 0x1000) : peerUp.reaches 3 0x20000040 n := by
  refine ⟨by have : hbmEnd = 0xC000000000 := rfl; omega, fun x h1 h2 => ?_⟩
  have hg : (peerUp.job 3).grantAt x = some { decl := rdecl0, addr := 0x20000000, blocks := 2 } := by
    unfold Job.grantAt
    show List.find? _ [_] = _
    rw [List.find?_cons_of_pos]
    simp only [Bool.and_eq_true, decide_eq_true_eq]
    have : blockBytes = 0x10000000 := rfl
    refine ⟨by omega, ?_⟩
    show x < 0x20000000 + 1 * blockBytes
    omega
  have hd : hbmDie x = 0 := by unfold hbmDie; omega
  unfold State.resolveHbm
  rw [if_neg (by unfold dumpBase; omega), hg, hd]
  rfl

/-! ## ResponsesEndTransactionsOnce -/

def answerMsg (op reason : Nat) : Msg :=
  { hdr := { headerOf peerUp peerUp.ident.device op 3 7 0 4 with source := 9, reason := reason }, content := [1, 2, 3, 4], bad := [] }
def txn7 (w : Bool) (use : TxnUse) : Txn :=
  { port := 5, tag := 7, isWrite := w, dest := 9, addr := 0, window := 0x9000, length := 4, request := answerMsg 2 0, use := use, busy := true }
def waitingFor (w : Bool) (use : TxnUse) : State := peerUp.setFabric fun f => { f with txns := [txn7 w use], routes := [] }
theorem witness_responses : (∀ op ∈ [3, 4, 5], peerUp.arrived 5 (answerMsg op 1) op = true ∧ peerUp.fabric.txnOf 5 (answerMsg op 1).hdr = none ∧
      ∀ w ∈ [true, false], ∀ use ∈ [TxnUse.chan ⟨3, false, 0, 0⟩, .dropped], (waitingFor w use).arrived 5 (answerMsg op 1) op = true ∧
        (waitingFor w use).fabric.txnOf 5 (answerMsg op 1).hdr = some (txn7 w use)) ∧ peerUp.arrived 5 (answerMsg 3 0) 4 = false ∧
    peerUp.inDeviceSet 9 = true ∧ ((waitingFor true (.chan ⟨3, false, 0, 0⟩)).chan ⟨3, false, 0, 0⟩).map (·.skip) = some false ∧
    ((waitingFor true .dropped).fabric.txns.find? fun t => t.port == 5 && t.tag == 7 && t.busy) = some (txn7 true .dropped) ∧
    ((waitingFor true .dropped).send 1 (txn7 true .dropped).request).isNone = true := by decide +kernel
theorem witness_resend : let s := (waitingFor true .dropped).setFabric fun f => { f with routes := [{ device := 0, route := BitVec.ofNat 64 (2 ^ 62 + 2 ^ 45), down := 0 }] }
    let s' := s.setPort 5 fun x => { x with role := 1, size := 4 }
    (s'.send 1 { (txn7 true .dropped).request with hdr := { (txn7 true .dropped).request.hdr with dest := 0 } }).isSome = true := by decide +kernel

/-! ## CollectiveInstancesBeginAndComplete -/

/-- An ALL_REDUCE of one member, this module, over two leaves of one piece of four FP32 elements. -/
def collDecl0 (op : Nat) : CollDecl :=
  { num := 0, ioDie := 0, op := op, flags := 0, sendFormat := 2, recvFormat := 2, width := 2, memberCount := 1, reducingCore := 0, ringDepth := 0, reservedZero := true
    param := 0, pieceCount := 1, memberTable := .workspace 0, shardTable := .workspace 0, landing := .workspace 0, landingBytes := 0x100000
    members := [{ device := up.ident.device, firstLeaf := 0, leafCount := 2, firstContributor := 0 }], pieces := [{ member := 0, first := 0, count := 4 }] }
def collState (active : List CollInstance) (call : Bytes) : State :=
  ((running.setMem fun m => m.write (wsKey 3 0 0x40) call).setJob 3 fun b => { b with colls := [{ decl := collDecl0 1, context := 0, active := active }] }).setDie 0
    fun x => { x with domain := 0 }
def collCall (rows : Nat) : Bytes := toLe 2 0 ++ [1, 1] ++ toLe 4 rows ++ toLe 8 0x20000000 ++ toLe 8 0x20001000 ++ toLe 8 0
def inst0 (written : Bool) : CollInstance :=
  { number := 0, signal := false, line := 0, rows := 0, src := 0, dst := 0, counts := 0, step := 0, prov := false, written := written, ordinal := 0, reduced := true }
theorem witness_collstart : (∀ rows ∈ [0, 1], ∀ active ∈ [[], [inst0 true, { inst0 true with number := 1 }]], (collState active (collCall rows)).canIssue ⟨3, 0⟩ = true ∧
      (collState active (collCall rows)).task ⟨3, 0⟩ = some task0 ∧ (collState active (collCall rows)).plainWs ⟨3, 0⟩ task0 = true ∧
      fieldN ((collState active (collCall rows)).mem.read (wsKey 3 0 0x40) 32) 4 4 = rows) ∧
    memberIndex (collDecl0 1) up.ident.device = some 0 ∧ ((collState [] (collCall 1)).did ⟨3, 0⟩ id).plainRead 3 = true ∧
    srcBytes (collDecl0 1) 0 1 [] = 32 ∧ ((collState [inst0 true] []).collProgress 3 0 0).inst 3 0 0 = some ({ decl := collDecl0 1, context := 0, active := [inst0 true] }, inst0 true) ∧
    (collState [inst0 true] []).instDone 3 { decl := collDecl0 1, context := 0, active := [inst0 true] } (inst0 true) = true ∧
    (collState [inst0 false] []).instDone 3 { decl := collDecl0 1, context := 0, active := [inst0 false] } (inst0 false) = false := by decide +kernel

/-! ## CollectiveMessagesReachTheirInstance -/

def collPeer : MemberEntry := { device := 9, firstLeaf := 1, leafCount := 1, firstContributor := 1 }
def collDecl2 : CollDecl := { collDecl0 1 with memberCount := 2, members := [{ device := peerUp.ident.device, firstLeaf := 0, leafCount := 1, firstContributor := 0 }, collPeer] }
def collUp (active : List CollInstance) : State := peerUp.setJob 3 fun b => { b with colls := [{ decl := collDecl2, context := 0, active := active, started := active.length }] }
def collMsgOf (kind index block tag : Nat) : Msg :=
  { hdr := { headerOf peerUp peerUp.ident.device 0x10 3 tag (kind * 2 ^ 56 + index * 2 ^ 24 + block) 16 with source := 9 }, content := List.replicate 16 0, bad := [] }
theorem witness_collective_messages : (∀ x ∈ [(0, 0x10001, 0), (1, 0, 0), (2, 0, 0), (3, 0, 2), (3, 0, 2 ^ 22)], ∀ active ∈ [[], [inst0 false]],
    (collUp active).arrived 5 (collMsgOf x.1 x.2.1 x.2.2 0) 0x10 = true ∧ bitsOf (collMsgOf x.1 x.2.1 x.2.2 0).hdr.address.toNat 56 2 = x.1 ∧
    ((collUp active).takeRx 5 (collMsgOf x.1 x.2.1 x.2.2 0)).coll 3 0 = some { decl := collDecl2, context := 0, active := active, started := active.length }) ∧
    (∀ x ∈ [(0, 0), (3, 2 ^ 22)], bitsOf (collMsgOf x.1 0 x.2 0).hdr.address.toNat 0 24 / 2 ^ 22 = if x.1 = 0 then 0 else 1) ∧
    (collUp []).inDeviceSet 9 = true ∧ (collUp []).inDeviceSet 8 = false ∧ ((collUp []).job 3).loaded = true ∧ ((collUp []).job 3).memberEpoch = 0 ∧
    memberIndex collDecl2 9 = some 1 ∧ collDecl2.members[1]? = some collPeer ∧ fitsTable collDecl2 0 0x10001 collPeer = true ∧ ((collUp []).job 3).permute = none ∧
    (collUp []).coll 3 1 = none ∧ (collMsgOf 0 0 0 0).hdr.flags.toNat % 2 = 0 := by decide +kernel

/-! ## ReshardBeginsMovesAndEnds -/

/-- Job 3 stopped, with a scratch reserve, a PERMUTE context and a window at the start of the far tier's first. -/
def reshardState : State := peerUp.setJob 3 fun b => { b with
  state := 2, layout := 0x77, bindings := [{ kind := 2, device := 0, first := farBase + 0x100000, size := 0x100000 }]
  grants := [{ decl := rdecl0, addr := 0x20000000, blocks := 2 }, { decl := { rdecl0 with number := 1, role := .reshard, blocks := 1 }, addr := 0x20020000, blocks := 1 }]
  colls := [{ decl := { collDecl0 6 with num := 5 }, context := 0 }] }
def plan0 (old : List U32) (layout : U64) : Plan :=
  { oldLayout := layout, newLayout := 0x88, collectives := [], virtualWidth := (reshardState.job 3).width, shards := [(0, 0x8000)], rounds := [], newMembers := []
    oldMembers := old, membersChange := false, tasks := [] }
def reshardBody (n : Nat) : Bytes := toLe 8 (farBase + 0x100000) ++ toLe 8 n ++ toLe 8 0
theorem witness_reshard : (∀ n ∈ [0, 64], begins reshardState 0x0310 3 (reshardBody n) = true ∧ (cmdOf 0x0310 3 (reshardBody n)).p 8 8 = n) ∧
    jobAccepts (reshardState.job 3).state 0x0310 = .yes ∧ (reshardState.job 3).inWindow (farBase + 0x100000) 64 = true ∧
    (reshardState.job 3).planBad reshardState.ident.device (plan0 [] 0x77) = false ∧ (reshardState.job 3).planBad reshardState.ident.device (plan0 [9] 0x77) = false ∧
    (reshardState.job 3).planBad reshardState.ident.device (plan0 [9] 0x78) = true ∧ planOthers (plan0 [] 0x77) reshardState.ident.device = [] ∧
    planOthers (plan0 [9] 0x77) reshardState.ident.device = [9] ∧ (reshardState.job 3).member = none ∧
    (∀ k ∈ (reshardState.job 3).colls, k.early = []) ∧ 3 < reshardState.jobs.length := by
  refine ⟨?_, ?_, ?_, ?_, ?_, ?_, ?_, ?_, ?_, ?_, ?_⟩
  all_goals decide +kernel
/-- A move of 16 FP32 elements to this module, in the plan's first round. -/
def move0 : ReshardMove := { peer := 9, incoming := true, src := 0, dst := 0x20000100, elements := 16, srcFormat := 2, travelFormat := 2, dstFormat := 2 }
def plan1 : Plan := { plan0 [9] 0x77 with rounds := [[move0]] }
def reshardIn (stage toArrive : Nat) : State := reshardState.setJob 3 fun b => { b with
  reshard := some { cmd := ⟨128, 1, 0⟩, plan := plan1, epoch := 0, stage := stage, toArrive := toArrive } }
def moveMsg (bad : Bool) : Msg :=
  { hdr := { headerOf peerUp peerUp.ident.device 0x10 3 0 (5 * 2 ^ 58 + 2 ^ 56) 64 with source := 9 }, content := List.replicate 64 1, bad := if bad then [0] else [] }
theorem witness_reshard_data : (∀ bad ∈ [true, false], (reshardState.arrived 5 (moveMsg bad) 0x10 = true ∧ bitsOf (moveMsg bad).hdr.address.toNat 56 2 = 1 ∧
      bitsOf (moveMsg bad).hdr.address.toNat 58 6 = 5 ∧ bitsOf (moveMsg bad).hdr.address.toNat 24 32 = 0)) ∧ reshardState.inDeviceSet 9 = true ∧
    (reshardState.job 3).reshard = none ∧ (reshardState.job 3).permute.any (fun k => k.decl.num == 5) = true ∧ planBetween plan1 9 true = [(0, move0)] ∧
    (planBetween (plan0 [9] 0x77) 9 true)[0]? = none ∧
    (∀ st ∈ [1, 2], ∀ n ∈ [1, 2], (reshardIn st n).arrived 5 (moveMsg false) 0x10 = true ∧ ((reshardIn st n).job 3).reshard.any (fun x => x.stage == st && x.toArrive == n) = true) := by
  decide +kernel

/-! ## HeartbeatsAndSuspicionsSpread -/

/-- Job 3 with a membership of this module as `rank` (0 the coordinator) and device 9. -/
def memberOf (me : U32) (rank : Nat) : Membership :=
  if rank = 0 then { epoch := 4, members := [{ device := me, parent := me, deputy := 0 }, { device := 9, parent := me, deputy := 1 }] }
  else { epoch := 4, members := [{ device := 9, parent := 9, deputy := 0 }, { device := me, parent := 9, deputy := if rank = 1 then 1 else 0 }] }
def memberUp (rank : Nat) : State :=
  (peerUp.setPort 5 fun x => { x with neighbour := 9 }).setJob 3 fun b => { b with member := some (memberOf peerUp.ident.device rank) }
def ctlMsg (kind : Nat) (content : Bytes) : Msg :=
  { hdr := { headerOf peerUp peerUp.ident.device 0x20 3 0 (kind * 2 ^ 56) content.length with source := 9 }, content := content, bad := [] }
def ctlFrom (kind : Nat) (d : U32) : Msg := { ctlMsg kind [] with hdr := { (ctlMsg kind []).hdr with source := d } }
theorem witness_heartbeats : up.keeper.device = 0 ∧ up.fabric.beat < 2 ^ 32 ∧ ({ up with keeper := { up.keeper with device := 1 } } : State).keeper.device ≠ 0 ∧
    (∀ kind ∈ [1, 2, 3, 8], (memberUp 0).arrived 5 (ctlMsg kind []) 0x20 = true ∧ bitsOf (ctlMsg kind []).hdr.address.toNat 56 8 = kind ∧
      (memberUp 0).arrived 5 (ctlFrom kind 77) 0x20 = true) ∧
    ((memberUp 0).port 5).neighbour = 9 ∧ ((memberUp 0).port 5).state = 2 ∧ (memberUp 0).treeNeighbour 9 = true ∧ (memberUp 0).treeNeighbour 77 = false ∧ (memberUp 0).inDeviceSet 9 = true ∧
    (memberUp 0).inDeviceSet 77 = false ∧ ((memberUp 0).job 3).knowsMember 9 = true ∧ 3 < (memberUp 0).jobs.length := by decide +kernel
theorem witness_heartbeats_members : (∀ rank ∈ [0, 1, 2], ((memberUp rank).job 3).member = some (memberOf peerUp.ident.device rank) ∧
      (memberOf peerUp.ident.device rank).members.any (fun e => e.device == 9) = true ∧ (memberOf peerUp.ident.device rank).state = 1 ∧
      (memberOf peerUp.ident.device rank).suspects = []) ∧
    (memberOf peerUp.ident.device 0).root = some peerUp.ident.device ∧ (memberOf peerUp.ident.device 1).deputies.contains peerUp.ident.device = true ∧
    (memberOf peerUp.ident.device 2).root ≠ some peerUp.ident.device ∧ (memberOf peerUp.ident.device 2).deputies.contains peerUp.ident.device = false ∧
    (∀ q, q < 16 → ((memberUp 0).port q).state = 2 → ((memberUp 0).port q).neighbour ≠ 77) ∧
    ((memberOf peerUp.ident.device 2).root.toList ++ (memberOf peerUp.ident.device 2).deputies).filter (fun x => x != peerUp.ident.device) = [9] ∧
    (memberUp 2).outPort 9 = none ∧ ((memberOf peerUp.ident.device 0).root.toList ++ []).filter (fun x => x != peerUp.ident.device) = [] := by decide +kernel

/-! ## ProposalsLineUpAndTurn -/

def memberWith (rank : Nat) (f : Membership → Membership) : State := (memberUp rank).setMember 3 f
def q0 (rank : Nat) (removed : List U32) : Proposal := { epoch := 5, removed := removed, added := [], rank := rank }
theorem witness_proposals : (∀ kind ∈ [4, 5, 6, 7], (memberUp 0).arrived 5 (ctlMsg kind []) 0x20 = true ∧ bitsOf (ctlMsg kind []).hdr.address.toNat 56 8 = kind) ∧
    (∀ rank ∈ [0, 1, 2], ((memberUp rank).job 3).knowsMember 9 = true ∧ (memberOf peerUp.ident.device rank).held = [] ∧ ((memberUp rank).job 3).colls = [] ∧
      ((memberUp rank).job 3).reshard = none ∧ (memberOf peerUp.ident.device rank).removals = []) ∧ (running.job 3).member = none ∧
    (memberUp 0).mayPropose (memberOf up.ident.device 0) = true ∧ (memberUp 2).mayPropose (memberOf up.ident.device 2) = false ∧
    ((memberUp 0).job 3).reshardChange (memberOf up.ident.device 0) = none ∧
    (memberUp 1).mayPropose { memberOf up.ident.device 1 with suspects := [9] } = true ∧
    (memberOf up.ident.device 1).members.find? (fun e => e.device == up.ident.device) = some { device := up.ident.device, parent := 9, deputy := 1 } ∧
    childrenIn ((memberOf up.ident.device 0).proposed (q0 0 [])) up.ident.device = [9] ∧ childrenIn ((memberOf up.ident.device 0).proposed (q0 0 [9])) up.ident.device = [] ∧
    (q0 0 [9]).majority 2 = true ∧ (q0 1 [9]).majority 2 = false ∧ (memberOf up.ident.device 0).treeAfter [9] [] ≠ [] ∧
    childrenIn ((memberOf up.ident.device 1).proposed (q0 1 [9])) up.ident.device = [] ∧ (q0 1 [9]).majority 1 = true := by decide +kernel
theorem witness_proposals_received : (memberOf up.ident.device 2).root = some 9 ∧ (memberOf up.ident.device 0).root = some up.ident.device ∧
    childrenIn ((memberOf up.ident.device 2).proposed (q0 0 [])) up.ident.device = [] ∧
    (memberOf up.ident.device 0).allAnswered { q0 0 [] with counts := [(9, 1)] } up.ident.device = true ∧ ({ q0 0 [] with counts := [(9, 1)] } : Proposal).majority 2 = true ∧
    ({ q0 1 [] with counts := [(9, 0)] } : Proposal).majority 2 = false ∧ (memberOf up.ident.device 0).allAnswered (q0 0 []) up.ident.device = false ∧
    (memberOf up.ident.device 2).allAnswered (q0 0 []) up.ident.device = true ∧ (memberOf up.ident.device 0).treeAfter [] [] ≠ [] ∧ (memberOf up.ident.device 0).epoch + 1 = 5 := by
  decide +kernel

/-! ## MembershipCommandsSetAskAndReport -/

def setBody (epoch : Nat) (ds : List (U32 × U32)) : Bytes :=
  toLe 8 epoch ++ toLe 4 ds.length ++ toLe 4 0 ++ ds.flatMap fun d => toLe 4 d.1.toNat ++ toLe 4 d.2.toNat ++ toLe 8 0
def stoppedMember (rank : Nat) : State := (memberUp rank).setJob 3 fun b => { b with state := 2 }
theorem witness_membership_set : (∀ x ∈ [(4, [(up.ident.device, up.ident.device)], false), (5, [(up.ident.device, up.ident.device)], false), (5, [((9 : U32), (9 : U32))], true)],
    begins (stoppedMember 0) 0x0311 3 (setBody x.1 x.2.1) = true ∧ (let c := cmdOf 0x0311 3 (setBody x.1 x.2.1); c.p 8 4 = 1 ∧ c.p 0xC 4 = 0 ∧ c.p 0x19 7 = 0 ∧ c.p 0 8 = x.1 ∧
      c.params.length = 32 ∧ (stoppedMember 0).tableBad ((List.range 1).map c.treeEntry) = x.2.2)) ∧
    jobAccepts ((stoppedMember 0).job 3).state 0x0311 = .yes ∧ ((stoppedMember 0).job 3).memberEpoch = 4 ∧ ((stoppedMember 0).job 3).member.isSome = true := by decide +kernel
theorem witness_membership_remove : (∀ x ∈ [([], false), ([(9 : U32)], false), ([(77 : U32)], true)], ∀ rank ∈ [0, 1],
    (let bs : Bytes := toLe 4 x.1.length ++ x.1.flatMap fun d => toLe 4 d.toNat;
      begins (memberUp rank) 0x0312 3 bs = true ∧ (let c := cmdOf 0x0312 3 bs; c.p 0 4 = x.1.length ∧
        ((List.range (c.p 0 4)).map fun i => BitVec.ofNat 32 (c.p (4 + 4 * i) 4)) = x.1 ∧
        ((List.range x.1.length).any fun i => !((memberOf up.ident.device rank).members.any fun e => e.device == x.1.getD i 0)) = x.2))) ∧
    jobAccepts ((memberUp 0).job 3).state 0x0312 = .yes ∧ (∃ e ∈ (memberOf up.ident.device 0).members, [(9 : U32)].contains e.device = false) ∧
    (memberOf up.ident.device 1).root = some 9 ∧ begins (memberUp 0) 0x0313 3 (toLe 8 (farBase + 0x200000)) = true ∧ jobAccepts ((memberUp 0).job 3).state 0x0313 = .yes ∧
    (memberUp 0).farOk (farBase + 0x200000) ((memberUp 0).memberRecord 3).length = true := by decide +kernel

/-! ## TrainingInstructionsOpenTheStepAndReport -/

def epochState (spec : Bool) (f : Training) (at_ : Bool) : State := running.setJob 3 fun _ => { job3 with
  train := f, tasks := [{ task0 with atEpoch := at_ }], settings := if spec then [] else [(1, [0, 0, 0, 0, 0, 0, 0, 0, 0, 1])] }
theorem witness_epoch : ∀ spec ∈ [true, false], ∀ e ∈ [none, some 0, some 7], ∀ at_ ∈ [true, false],
    (epochState spec { openEpoch := e, noSpecAt := e } at_).canIssue ⟨3, 0⟩ = true ∧ ((epochState spec { openEpoch := e, noSpecAt := e } at_).task ⟨3, 0⟩).map (·.atEpoch) = some at_ ∧
    ((epochState spec { openEpoch := e, noSpecAt := e } at_).job 3).noSpec = !spec ∧ ((epochState spec { openEpoch := e, noSpecAt := e } at_).job 3).train.openEpoch = e := by decide +kernel
theorem witness_training_instructions : (running.job 3).width = 1 ∧ (running.job 3).groupCount = 0 ∧ (running.job 3).train.step = (running.job 3).train.judged ∧
    (running.job 3).train.loss = 0 ∧ ((epochState true { step := 1, lossNext := -64 } false).job 3).train.step = ((epochState true { step := 1, lossNext := -64 } false).job 3).train.judged + 1 ∧
    (epochState true { step := 1, lossNext := -64 } false).canIssue ⟨3, 0⟩ = true := by decide +kernel

/-! ## UpdatesRewriteMastersAndMoments -/

def optBytes (count group fmt : Nat) (ref : Nat) : Bytes :=
  toLe 4 0x400 ++ toLe 4 0x500 ++ toLe 4 0x600 ++ toLe 4 0x700 ++ toLe 4 0x800 ++ toLe 4 count ++ toLe 8 0 ++ toLe 2 group ++ toLe 1 fmt ++ toLe 1 3 ++ toLe 1 1 ++ toLe 1 2 ++ toLe 26 ref
def optState (b : Bytes) : State := (running.setMem fun m => m.write (wsKey 3 0 0x40) b).setJob 3 fun b => { b with settings := [(1, toLe 10 0 ++ toLe 2 1 ++ toLe 4 0 ++ toLe 8 0x20000000)] }
theorem witness_optupd : (∀ x ∈ [(4, 0, 0), (0, 0, 0), (4, 5000, 0)], (optState (optBytes x.1 x.2.1 2 x.2.2)).canIssue ⟨3, 0⟩ = true ∧
      (optState (optBytes x.1 x.2.1 2 x.2.2)).plainWs ⟨3, 0⟩ task0 = true ∧ (OptDesc.ofOpt (optBytes x.1 x.2.1 2 x.2.2)).bad = decide (4095 < x.2.1) ∧
      (OptDesc.ofOpt (optBytes x.1 x.2.1 2 x.2.2)).count = x.1) ∧ (optState []).plainRead 3 = true ∧ ((optState []).job 3).groupTable = 0x20000000 ∧ 0x40 + 64 ≤ wsBytes ∧
    (∀ b ∈ [true, false], ((optState []).job 3).updateBad 0 (OptDesc.ofUpdate (if b then toLe 4 1 ++ toLe 60 0 else toLe 64 0)) = b) ∧ ((optState []).hbm.getD 0 {}).queue.length = 0 ∧
    (optState []).resolveHbm 3 0x20000000 = .mem 0x20000000 ∧ (optState []).resolveHbm 3 0x2000001F = .mem 0x2000001F := by decide +kernel
def queueState (n : Nat) : State := { running with hbm := running.hbm.modify 0 fun h => { h with queue := List.replicate n { task := ⟨3, 0⟩, desc := toLe 64 0, prov := false } } }
theorem witness_update_queue : ((queueState 1).hbm.getD 0 {}).queue.find? (fun q => ((queueState 1).job q.task.job).live) = some { task := ⟨3, 0⟩, desc := toLe 64 0, prov := false } ∧
    ((queueState 0).hbm.getD 0 {}).queue.find? (fun q => ((queueState 0).job q.task.job).live) = none ∧ ((queueState 64).hbm.getD 0 {}).queue.length = 64 ∧
    (queueState 64).canIssue ⟨3, 0⟩ = true ∧ (queueState 64).plainWs ⟨3, 0⟩ task0 = true := by decide +kernel

/-! ## LatenessIsReportedAndDecided -/

/-- The straggler block: policy, flags, length of the replay list. -/
def stragBlock (policy flags n : Nat) : Bytes := toLe 1 policy ++ toLe 1 flags ++ toLe 14 0 ++ toLe 8 n ++ toLe 8 0
def inclState (rank policy flags n : Nat) (missing removed : List Nat) : State :=
  (memberUp rank).setJob 3 fun b => { b with settings := [(2, stragBlock policy flags n)], strag := { b.strag with reports := [(9, 0, missing.map fun v => (v, v))], removed := removed } }
theorem witness_inclusion : (∀ rank ∈ [0, 2], (inclState rank 1 0 0 [5] []).arrived 5 (ctlMsg 9 []) 0x20 = true ∧ bitsOf (ctlMsg 9 []).hdr.address.toNat 56 8 = 9 ∧
      (inclState rank 1 0 0 [5] []).inDeviceSet 9 = true ∧ ((inclState rank 1 0 0 [5] []).job 3).knowsMember 9 = true ∧ ((inclState rank 1 0 0 [5] []).job 3).train.judged = 0) ∧
    (((inclState 2 1 0 0 [5] []).job 3).member.bind fun y => y.parent (inclState 2 1 0 0 [5] []).ident.device) = some 9 ∧
    (((inclState 0 1 0 0 [5] []).job 3).member.bind fun y => y.parent (inclState 0 1 0 0 [5] []).ident.device) = none ∧
    ((inclState 2 1 0 0 [5] []).job 3).strag.sentReady = none ∧
    (toRanges ((((inclState 2 1 0 0 [5] []).job 3).ownMissing (inclState 2 1 0 0 [5] []).ident.device 0 ++ ((inclState 2 1 0 0 [5] []).job 3).childMissing (inclState 2 1 0 0 [5] []).ident.device 0).dedup)).length ≤ 500 ∧
    (∀ x ∈ [(0, 0), (0, 2), (2, 0)], ((inclState x.1 1 x.2 0 [5] []).job 3).loaded = true ∧ ((inclState x.1 1 x.2 0 [5] []).job 3).state = 3 ∧
      ((inclState x.1 1 x.2 0 [5] []).job 3).strag.knows 0 = none ∧ (inclState x.1 1 x.2 0 [5] []).decides 3 = decide (x.1 = 0) ∧ ((inclState x.1 1 x.2 0 [5] []).job 3).replay = decide (x.2 = 2)) ∧
    ((inclState 0 1 0 0 [5] []).job 3).childMissing (inclState 0 1 0 0 [5] []).ident.device 0 = [5] ∧ ((inclState 0 1 0 0 [5] []).job 3).colls = [] ∧
    replayStep (toLe 32 0) 32 1 0 = none ∧ replayStep [] 0 1 0 = some ([], 0) ∧ 3 < (inclState 0 1 0 0 [5] []).jobs.length := by decide +kernel

/-! ## VerdictsCommitOrSkipTheStep -/

def verdictOf (step : Nat) (bad : List Nat) (fps : List U64) (rep : Option (List U64)) : VerdictMsg :=
  { step := step, code := 2, nonFinite := bad, contribSq := [], globalSq := sqZero, groupSq := [], fingerprints := fps, repeated := rep }
/-- Job 3 at the verdict of step 5, with a dirty page, a tagged line and its task provisional. -/
def judging (q : Nat) : State :=
  let spare := [(1, toLe 10 0 ++ toLe 2 q ++ toLe 28 0)]
  running.setJob 3 fun b => { b with settings := spare, bin := some { bin0 with fpClasses := [0, 0] }, tasks := [{ task0 with prov := true, skipEntry := 0x40 }], train := { b.train with openEpoch := some 5, judged := 5, ratioStep := some 4, dirty := [7], tagged := [2 ^ 46] } }
theorem witness_verdict : (∀ x ∈ [(5, []), (5, [0])], let v := verdictOf x.1 x.2 [1, 1] none
      ((judging 0).job 3).loaded = true ∧ v.step = ((judging 0).job 3).train.judged ∧ ((judging 0).job 3).state = 3 ∧ ((judging 0).job 3).train.openEpoch = some v.step ∧
      (judging 0).decides 3 = true ∧ (judging 0).printCase 3 ((judging 0).combined 3 v) = .agree ∧ ((judging 0).combined 3 v).code = (if x.2 = [] then 1 else 2)) ∧
    (judging 0).printCase 3 (verdictOf 5 [] [1, 2] none) = .wait 1 ∧ (judging 0).printCase 3 (verdictOf 5 [] [1, 2] (some [3, 3])) = .hashing [0, 1] ∧
    (judging 0).printCase 3 (verdictOf 5 [] [1, 2] (some [3, 4])) = .diverged [0] [0, 1] ∧ ((judging 0).job 3).colls = [] ∧ ((judging 0).job 3).train.heldMsgs = [] ∧
    ((judging 0).job 3).stopper = none ∧ ((judging 0).job 3).vecLoan = none ∧ ((judging 0).job 3).member = none ∧ 3 < (judging 0).jobs.length ∧
    ((judging 0).job 3).train.paths = [] ∧ cellsWf (judging 0).mem.cells = true ∧ ((judging 0).job 3).train.noSpecAt = none ∧ ((judging 0).job 3).includedCount 5 = 1 ∧
    ((judging 0).job 3).includes 5 0 = true ∧ ((judging 0).job 3).train.clean + 1 < ((judging 0).job 3).cleanLimit ∧ (memberUp 2).decides 3 = false ∧
    (running.job 3).train.openEpoch = none ∧ (running.job 3).train.judged = 0 := by decide +kernel

/-! ## ChannelProgramsRunTheirInstructions -/

/-- Core channel 0 of job 3 at the start of its region, a program there and pulses on its line. -/
def chanRun (b : Bytes) (f : Chan → Chan) : State :=
  ((running.setMem fun m => m.write 0x20000000 b).setJob 3 fun x => { x with chans := [f { chan0 with state := 1, pc := 0x20000000 }] }).setDie 0 fun x => { x with lines := x.lines.set 5 { count := 2 } }
def chanRef0 : ChanRef := chan0.ref 3
def dmaMove : Bytes := toLe 32 (1 + 16 * 2 ^ 16 + 0x20000100 * 2 ^ 40 + 0x20000200 * 2 ^ 92 + 2 ^ 161 + 2 ^ 172 + 2 ^ 183)
def dmaLoop (body count : Nat) : Bytes := toLe 1 2 ++ [0] ++ toLe 2 body ++ toLe 4 count ++ toLe 24 0
def dmaWait (n : Nat) : Bytes := [3, 0, 1, 0] ++ toLe 2 n ++ toLe 26 0
def fetched (s : State) : Option Bytes :=
  match (s.chan chanRef0).map fun c => s.fetch chanRef0 c with
  | some (.ok b _) => some b
  | _ => none
theorem witness_channel_words : ∀ b ∈ [toLe 32 0, dmaMove, dmaMove.set 31 0x80, dmaLoop 2 3, dmaLoop 0 3, dmaWait 0, dmaWait 1, dmaWait 3, [4, 0, 1, 0, 1] ++ toLe 27 0, toLe 32 1],
      fetched (chanRun b id) = some b ∧ dmaBad b = false ∧ (chanRun b id).asleep = false := by decide +kernel
theorem witness_channels : dmaBad (toLe 32 5) = true ∧
    ((chanRun [] id).chan chanRef0).map (fun c => [c.state, c.pc, c.writes, c.loops.length, ((chanRun [] id).job 3).chanDie c]) = some [1, 0x20000000, 0, 0, 0] ∧
    ((chanRun [] id).chan chanRef0).map (fun c => [c.prov, (chanRun [] id).chanIdle 3 c]) = some [false, false] ∧
    ((chanRun [] id).job 3).line 0 1 = some 5 ∧ 0 < (chanRun [] id).dies.length ∧ 5 < ((chanRun [] id).die 0).lines.length ∧ (((chanRun [] id).die 0).lines.getD 5 {}).count = 2 ∧
    (running.chan chanRef0).map (·.state) = some 0 ∧ up.chan chanRef0 = none ∧ (chanRun [] id).plainRead 3 = true ∧
    ((chanRun [] fun c => { c with loops := [{ start := 0, stop := 0x20000020, index := 0, count := 2, src := 0, dst := 0 }] }).chan chanRef0).map (fun c => c.loops.length) = some 1 := by decide +kernel
theorem witness_move : (MoveWord.ofNat (leNat dmaMove)).length = 16 ∧ (MoveWord.ofNat (leNat dmaMove)).src = 0x20000100 ∧ (MoveWord.ofNat (leNat dmaMove)).dst = 0x20000200 ∧
    (MoveWord.ofNat (leNat dmaMove)).conv = 0 ∧ (MoveWord.ofNat (leNat (toLe 32 1))).length = 0 ∧
    ({ w := MoveWord.ofNat (leNat dmaMove), src := 0x20000100, dst := 0x20000200, fs := .raw, fd := .raw, conv := none } : MovePlan).overlaps = false ∧
    (∀ a ∈ [0x20000000, 0x20000100, 0x2000010F, 0x20000200, 0x2000020F], (chanRun [] id).resolveHbm 3 a = .mem a) ∧ ((chanRun [] id).job 3).groupCount = 0 := by decide +kernel

/-! ## ScrubbingAndTheHingeKeepGenerations -/

/-- Job 3 RUNNING with a hinge reserve of 64 KiB slots, its inactive slot in a state. -/
def hingeState (st : Nat) (copy : Option HingeCopy) : State :=
  running.setJob 3 fun b => { b with hinge := some { slot1 := { state := st, generation := if st = 0 then 0 else 2 }, slotBytes := 0x10000, copy := copy } }
def copy0 (kind : Nat) : HingeCopy := { cmd := ⟨128, 1, 0⟩, source := 0x20000000, length := 64, kind := kind, owner := 3 }
def prepParams : Bytes := toLe 4 2 ++ toLe 1 1 ++ toLe 1 0 ++ toLe 2 0 ++ toLe 8 0x20000000 ++ toLe 8 64
def hingeOf (s : State) : List Nat := match (s.job 3).hinge with
  | some h => [(h.slot h.other).state, (h.slot h.other).generation, h.maxTag, h.slotBytes]
  | none => []
theorem witness_scrub : 0 < up.hbm.length ∧ (up.die 0).domain = 0 ∧ up.power.input = true ∧ (up.hbm.getD 0 {}).scrub = 0 ∧ (State.reset.die 0).domain ≠ 0 := by decide +kernel
theorem witness_hinge : begins (hingeState 0 none) 0x0201 3 prepParams = true ∧ jobAccepts ((hingeState 0 none).job 3).state 0x0201 = .yes ∧
    hingeOf (hingeState 0 none) = [0, 0, 1, 0x10000] ∧ ((State.asked (hingeState 0 none) 0x0201 3 prepParams).begin ⟨128, 1, 0⟩).hingeSourceOk 3 1 3 0x20000000 64 = true ∧
    begins (hingeState 2 none) 0x0203 3 [] = true ∧ begins (hingeState 1 (some (copy0 0))) 0x0203 3 [] = true ∧ hingeOf (hingeState 2 none) = [2, 2, 1, 0x10000] ∧
    begins (hingeState 2 none) 0x0202 3 (toLe 8 2) = true ∧ (hingeState 2 none).others 3 = [] ∧
    ((hingeState 2 none).setJob 3 fun b => { b with member := some (memberOf peerUp.ident.device 0) }).others 3 = [9] ∧
    (hingeState 1 (some (copy0 0))).hingeWaits (copy0 0) = false ∧ (hingeState 1 (some (copy0 1))).hingeWaits (copy0 1) = false ∧
    ((hingeState 1 (some (copy0 1))).setTrain 3 fun t => { t with openEpoch := some 5 }).hingeWaits (copy0 1) = true ∧ (hingeState 1 (some (copy0 1))).mem.bad 0x20000000 64 = false ∧
    ((hingeState 1 (some (copy0 1))).setMem fun m => { m with ecc := [(0x4000000, true)] }).mem.bad 0x20000000 64 = true ∧ cellsWf (hingeState 1 none).mem.cells = true ∧
    3 < (hingeState 0 none).jobs.length := by decide +kernel

/-! ## JobsLoadStartStopAndUnload -/

def loading : State := { up with jobs := up.jobs.set 3 {} }
def stopped3 : State := { up with jobs := up.jobs.set 3 { job3 with state := 2, started := false } }
theorem witness_jobs : (3 < up.jobs.length ∧ (up.job 3).state = 0 ∧ begins up 0x0101 3 (toLe 8 (farBase + 0x200000) ++ toLe 8 0x1000 ++ toLe 0x30 0) = true ∧
      up.farOk (farBase + 0x200000) 0x1000 = true ∧ cellsWf up.mem.cells = true) ∧
    (begins stopped3 0x0104 3 [] = true ∧ (stopped3.job 3).state = 2 ∧ begins stopped3 0x0105 3 [] = true ∧ begins stopped3 0x0102 3 [] = true ∧
      (stopped3.job 3).lent = []) ∧
    begins running 0x0105 3 [] = true ∧ (running.job 3).state = 3 ∧ (running.job 3).train.openEpoch = none ∧ begins running 0x0102 3 [] = true ∧
    begins { running with jobs := running.jobs.set 3 { job3 with train := { job3.train with openEpoch := some 5 } } } 0x0105 3 [] = true := by decide +kernel
theorem witness_load_fits : (∃ p, up.shortfall bin0 (up.homeCores 0) 0 = .ok p ∧ p.homes = [0]) ∧
    (∀ y ∈ binaryChecks bin0 up.ident.device (bin0.detStrict || up.keeper.detEnforced) [0], y.1 = false) := by
  have h : (match up.shortfall bin0 (up.homeCores 0) 0 with
    | .ok p => p.homes == [0]
    | .error _ => false) = true := by decide +kernel
  refine ⟨?_, by decide +kernel⟩
  cases hp : up.shortfall bin0 (up.homeCores 0) 0 with
  | error d => rw [hp] at h; cases h
  | ok p => rw [hp] at h; exact ⟨p, rfl, by simpa using h⟩

end Sys2Proof.Tests
end

