-- ==== Sys2Proof/WellFormed.lean ====
section
/-! DEFINITION. Well-formed commands: operands inside the ranges that the rules give their fields (R2, R8, R9, R57, R65, R86,
R108, R110, R186, R198, R284, R312). -/

namespace Sys2Proof

/-- Job contexts 0 to 63 (R312). -/
def jobOk (j : Nat) : Bool := decide (j < 64)

/-- Core slots 0 to 191 (R9). -/
def coreOk (c : Nat) : Bool := decide (c < 192)

/-- Dies D0 to D3 (R8). -/
def dieOk (d : Nat) : Bool := decide (d < 4)

/-- Stacks H0 to H11 (R8). -/
def stackOk (h : Nat) : Bool := decide (h < 12)

/-- Ports FP0 to FP15 (R181). -/
def portOk (p : Nat) : Bool := decide (p < 16)

/-- A task of a job context. -/
def TaskRef.ok (t : TaskRef) : Bool := jobOk t.job

/-- A channel of a job context: a die channel has a die as its owner (R86, R430). -/
def ChanRef.ok (c : ChanRef) : Bool := jobOk c.job && (!c.die || dieOk c.owner)

/-- A command of queues 0 to 131 (R284). -/
def CmdRef.ok (r : CmdRef) : Bool := decide (r.queue < 132) && decide (r.sequence < 2 ^ 32)

/-- A 32-byte instruction word (R57, R65). -/
def wordOk (w : Bytes) : Bool := w.length == 32

/-- A 256-byte flit with its 24 codewords (R186). -/
def Flit.ok (f : Flit) : Bool := f.bytes.length == 256 && f.codes.length == 24

/-- A message whose header fields fit R198 and whose content is at most 4,096 bytes. -/
def Msg.ok (m : Msg) : Bool :=
  decide (m.hdr.tag < 8192) && decide (m.hdr.reason < 65536) && decide (m.hdr.length ≤ 4096) && decide (m.hdr.job < 2 ^ 32) &&
    decide (m.hdr.membership < 2 ^ 64) && decide (m.content.length ≤ 4096) && (m.hdr.opcode == 0x02 || m.content.length == m.hdr.length)

/-- A message on a port. -/
def onPort (p : Nat) (m : Msg) : Bool := portOk p && m.ok

/-- A unit that can idle exists (R404). -/
def IdleUnit.ok : IdleUnit → Bool
  | .core c => coreOk c
  | .die d => dieOk d
  | .device => true

/-- A reset domain by kind: device 0, core 1, die 2, port 3, Switrak 4, management 5 (R345). -/
def Domain.ok (d : Domain) : Bool :=
  match d.kind with
  | 1 => coreOk d.index
  | 2 => dieOk d.index
  | 3 => portOk d.index
  | k => decide (k ≤ 5) && d.index == 0

/-- A command whose operands are in range. -/
def Instr.wf : Instr → Bool
  | .mma t w _ => t.ok && wordOk w
  | .vadd t w | .vsub t w | .vmul t w | .vfma t w | .vdiv t w | .vsqrt t w | .vmax t w | .vmin t w | .vcvt t w | .vexp t w
  | .vlog t w | .vrsqrt t w | .vtanh t w | .verf t w | .vsigm t w | .vrsum t w | .vrmax t w | .vrmin t w | .vperm t w
  | .vwsum t w | .vptree t w | .vrand t w | .vrndu t w | .vld t w | .vst t w => t.ok && wordOk w
  | .recomputeVote c _ | .coreFence c | .sectionOverrun c | .preempt c _ | .sliceEnd c | .testDue c | .testForced c
  | .testDone c _ _ | .pacingWake c => coreOk c
  | .scalarOperation t _ _ _ _ _ => t.ok
  | .ppoint t | .tilekey t _ | .pacingPulse t | .epoch t _ | .lsexp t | .taskReady t => t.ok
  | .phase t _ n ns => t.ok && decide (n < 256) && decide (ns < 2 ^ 32)
  | .pace t l _ => t.ok && decide (l < 256)
  | .controllerWait t l n => t.ok && decide (l < 256) && decide (n < 65536)
  | .chgoStart t d n _ | .chgoRetry t d n _ | .chgoNext t d n _ | .chgoAbort t d n _ | .chclr t d n _ | .chstat t d n =>
    t.ok && decide (n < if d then 32 else 16)
  | .nonfin t v => t.ok && decide (v < 65536)
  | .optupd t o => t.ok && decide (o < 2 ^ 23)
  | .update t h o => t.ok && stackOk h && decide (o < 2 ^ 23)
  | .updateDescriptorRun h => stackOk h
  | .collstart t o => t.ok && decide (o < 2 ^ 23)
  | .collectiveInstanceDone j _ | .hingeCopyDone j _ | .hingeCopyFail j _ | .verdict j _ | .gatherWindowClose j
  | .lineupAllowance j | .proposalTimeout j | .repropose j | .isolate j | .readyDeadline j | .inclusion j _ _ _ _ => jobOk j
  | .cready t v => t.ok && decide (v < 65536)
  | .batch t _ _ => t.ok
  | .sexit t n => t.ok && decide (n < 16384)
  | .dmaEnd c | .move c | .loop c | .wait c | .signal c => c.ok
  | .hbmScrub h w n _ => stackOk h && decide (w + n ≤ 2 ^ 33)
  | .hingePrepare r | .hingeAbandon r | .groupSet r | .portStop r | .portConfigure r | .portStart r | .portStatus r | .routeSet r
  | .membershipSet r | .membershipRemove r | .membershipStatus r | .commandTimeout r | .nop r | .jobConfigure r | .jobWait r
  | .detEnforce r | .jobUnload r | .jobStart r | .jobStop r | .cast r | .lend r | .reclaim r | .streamStatus r | .testRun r | .healthRead r | .firmwareWrite r | .firmwareActivate r | .attest r
  | .profileSet r | .wakeBudget r => r.ok
  | .hingeSwitch r _ | .reshard r _ | .jobLoad r _ | .recast r _ | .streamAdmit r _ | .streamEnd r _ | .streamSet r _ => r.ok
  | .farEndTraining p | .trainTime p | .lossOfLight p | .retryTimeout p => portOk p
  | .trainingDone p _ | .retrainDone p _ => portOk p
  | .laneLossOfLock p l => portOk p && decide (l < 16)
  | .dataFlit p f | .idleFlit p f => portOk p && f.ok
  | .messageForward p v => portOk p && decide (v < 8)
  | .write p m | .read p m | .readData p m | .writeAck p m | .nak p m => onPort p m
  | .term p m | .data p m | .collectiveCredit p m | .collectiveCounts p m | .heartbeat p m | .goodbye p m | .evict p m => onPort p m
  | .summary p m _ _ _ => onPort p m
  | .suspect p m _ _ _ => onPort p m
  | .propose p m _ _ _ _ => onPort p m
  | .lineup p m _ _ => onPort p m
  | .turn p m _ _ _ => onPort p m
  | .abandon p m _ => onPort p m
  | .ready p m _ _ => onPort p m
  | .jobWideCommand p m _ => onPort p m
  | .busyResend p t | .transportTimeout p t => portOk p && decide (t < 8192)
  | .heartbeatPeriod | .heartbeatSilence _ | .patinaDecay | .flashCopy | .mbGo _ | .mbRefusedClear | .maquette | .logRead | .dumpRead
  | .bulkCopyDone | .dumpCopyFail _ _ | .portGoodbye | .lasersOff | .fenceAll | .deviceReset | .powerOff => true
  | .doorbell q _ | .ringEnable q _ | .ringDisable q _ | .commandRead q _ _ => decide (q < 132)
  | .registerWrite o n _ => decide (o < 0x10000) && (n == 4 || n == 8)
  | .resetDrainEnd d | .resetDone d _ | .escalate d _ | .correctedSummary d => d.ok
  | .deviceHeld _ | .resetNFall | .resetNRise | .nerurStall _ | .kpEventClear _ | .i3cEntdaa _ | .i3cPrivateWrite _ | .i3cPrivateRead _ => true
  | .thermalTrip d _ | .regulatorStep d _ | .thermalThrottle d _ => dieOk d
  | .nerurReady | .nerurReadyTimeout | .powerWindow _ _ | .powerUp | .powerLoss | .overvoltage _ | .evtIn0Fall | .evtIn1Fall
  | .evtIn1Rise | .adapterAcknowledgement _ _ | .adapterWindowTableWrite _ _ | .goodbyeRepeat | .evtIn0Rise | .logMirrorComplete => true
  | .idleEntry u | .wakeEvent u => u.ok

end Sys2Proof
end

section
/-! SUPPORT. The scope's statements: what the part holds right after reset, and what no run of commands changes (R1, R307). -/

namespace Sys2Proof.Machine

variable {s t : State} {i : Instr}

/-! ## What one step leaves: the fused identity and the rest of the queue -/

/-- Whatever a command does to the other fields, the identity and the queue of its next state are put back by `keep`. Only
OVERVOLTAGE has an outcome of its own beside that (R428). -/
theorem exec_next_eq_keep (h : exec i s = .next t) : ∃ u, t = s.keep u := by
  cases i with
  | overvoltage v =>
    change execOvervoltage v s = .next t at h
    unfold execOvervoltage at h
    split at h
    · cases h
    · exact ⟨_, (Host.Outcome.next.inj h).symm⟩
  | _ => exact ⟨_, (Host.Outcome.next.inj h).symm⟩

/-- The tick of an empty queue restores the identity and the queue as a command does. -/
theorem idleStep_next_eq_keep (h : idleStep s = .next t) : ∃ u, t = s.keep u := by
  unfold idleStep at h
  split at h
  · exact ⟨_, (Host.Outcome.next.inj h).symm⟩
  · exact ⟨s, (Host.Outcome.next.inj h).symm⟩

/-- A step takes the front command, if there is one, adds none, and keeps what is fused (R307). -/
theorem step_next_ident_pending (h : step s = .next t) : t.ident = s.ident ∧ t.pending = s.pending.tail := by
  unfold step at h
  split at h
  next c rest hp =>
    obtain ⟨u, rfl⟩ := exec_next_eq_keep h
    simp [hp]
  next hp =>
    obtain ⟨u, rfl⟩ := idleStep_next_eq_keep h
    simp [hp]

/-! ## Runs -/

/-- A run of one step more that ends in a next state begins with a step that does. -/
theorem run_succ_next (M : Host.Core) {n : Nat} {s t : M.State} (h : M.run (n + 1) s = .next t) :
    ∃ u, M.step s = .next u ∧ M.run n u = .next t := by
  unfold Host.Core.run at h
  split at h
  next u hu => exact ⟨u, hu, h⟩
  all_goals cases h

/-- A run of `n` steps keeps what is fused and takes `n` commands from the front of the queue, or all there are. -/
theorem run_next_ident_pending (n : Nat) (h : Host.Core.run Sys2Proof.core n s = .next t) :
    t.ident = s.ident ∧ t.pending = s.pending.drop n := by
  induction n generalizing s with
  | zero =>
    cases Host.Outcome.next.inj h
    simp
  | succ n ih =>
    obtain ⟨u, hu, hrun⟩ := run_succ_next Sys2Proof.core h
    obtain ⟨hid, hq⟩ := step_next_ident_pending hu
    obtain ⟨hid', hq'⟩ := ih hrun
    exact ⟨hid'.trans hid, by rw [hq', hq, List.drop_tail]⟩

/-- The identity block of the register window follows from the fused identity (R306, R307). -/
theorem windowByte_eq_of_ident (hid : t.ident = s.ident) {o : Nat} (ho : o < 0x38) : t.windowByte o = s.windowByte o := by
  have hlow : o < 0x1000 := by omega
  have hreg : t.identReg (o / 8 * 8) = s.identReg (o / 8 * 8) := s.identReg_congr hid (by omega)
  simp only [State.windowByte, if_pos hlow, hreg]

/-! ## The doorbells after reset (R286) -/

/-- A ring whose RING_CFG and HEAD are zero reads as zero bytes. -/
theorem doorbellByte_eq_zero {o : Nat} (hc : (s.ring (o / 16)).cfg = 0) (hh : (s.ring (o / 16)).head = 0) : s.doorbellByte o = 0 := by
  have hz : toLe 8 0 ++ toLe 4 0 ++ toLe 4 0 = List.replicate 16 0 := by decide
  simp only [State.doorbellByte, hc, hh, hz, List.getD_eq_getElem?_getD,
    List.getElem?_getD_replicate_default_eq, ite_self]

/-- Every ring after reset is the ring that nobody has enabled. -/
theorem ring_reset (q : Nat) : State.reset.ring q = {} :=
  (List.getD_eq_getElem?_getD ..).trans (List.getElem?_getD_replicate_default_eq ..)

end Sys2Proof.Machine

open Sys2Proof Sys2Proof.Machine

/-- Settles O4: every step restores the fused identity and leaves the queue's tail, and a run is an iteration of that. -/
theorem fusedIdentityKeptByEveryRun : Obligations.FusedIdentityKeptByEveryRun := by
  intro n s t hlegal hrun
  obtain ⟨hid, hq⟩ := run_next_ident_pending n hrun
  exact ⟨hid, hid ▸ hlegal, fun _ ho => windowByte_eq_of_ident hid ho, hq⟩

/-- Settles O2: the doorbell block by the one ring that every queue holds after reset, each other register by its value. -/
theorem resetStateIsAsTheManualGives : Obligations.ResetStateIsAsTheManualGives := by
  have hbell : ∀ o < 0x840, State.reset.doorbellByte o = 0 := fun o _ =>
    doorbellByte_eq_zero (by rw [ring_reset]; rfl) (by rw [ring_reset])
  refine ⟨?jobs, rfl, ?ports, hbell, rfl, rfl, rfl, rfl, rfl, ?ident, rfl, ?legal⟩
  case jobs => decide
  case ports => decide
  case ident => decide
  case legal => decide

end

section
/-! SUPPORT. A vector instruction that has issued: the job it finds, and the next state that its results leave. VRAND and VRNDU (R73) are
instances. -/

namespace Sys2Proof.Machine

variable (s : State) {t : TaskRef} {k : Task}

/-! ## A vector instruction that has issued -/

/-- Issuing changes the job's tasks alone: its seed, its step register and all its other parts stay. -/
theorem State.job_unitDid (core : Nat) (hk : s.task t = some k) (f : Task → Task) :
    (s.unitDid t core f).job t.job =
      { s.job t.job with tasks := (s.job t.job).tasks.modify t.task fun x => f { x with atPoint := false } } :=
  s.job_setTask hk _

@[simp] theorem State.unitDid_draws (core : Nat) (f : Task → Task) : (s.unitDid t core f).draws = s.draws := rfl

/-- Results put in dst after the issue are the whole of the instruction: issue and results change the task once, and SIGNAL goes by the
task's home die, which neither changes. -/
theorem State.vecDone_unitDid (hk : s.task t = some k) (w : VecWord) (f : Fmt) (xs : List Nat) :
    (s.unitDid t k.core id).vecDone t w f xs = s.vecDid t k w f xs := by
  simp only [State.vecDone, s.task_unitDid k.core hk, s.unitDid_setTask]
  rfl

/-! ## VRAND and VRNDU (R73) -/

theorem exec_vrand (word : Bytes) : exec (.vrand t word) s = .next (s.keep (doVrand t word s)) := rfl

theorem exec_vrndu (word : Bytes) : exec (.vrndu t word) s = .next (s.keep (doVrndu t word s)) := rfl

section Issued

variable {word : Bytes} {w : VecWord} (hc : s.canIssue t = true) (hk : s.task t = some k) (hw : VecWord.ofBytes word = w)
  (hfmt : Fmt.ofCode w.fmt = some .fp32 ∨ Fmt.ofCode w.fmt = some .int32)

include hc hk hw hfmt

/-- VRAND draws by the seed and the step register that the job had before the issue. -/
theorem doVrand_eq_vecDid (hop : w.op = 0x68) :
    doVrand t word s = s.vecDid t k w .int32 ((List.range w.count).map fun i =>
      (randomWord (s.job t.job).seed ((w.aux + i) % 2 ^ 64) (s.job t.job).train.step (w.imm % 65536)).toNat) := by
  simp [doVrand, s.issueUnit_eq hc hk, hw, hop, hfmt, s.job_unitDid k.core hk, s.vecDone_unitDid hk]

/-- VRNDU draws from the count of draws that the issue left alone. -/
theorem doVrndu_eq_vecDid (hop : w.op = 0x69) :
    doVrndu t word s = { s.vecDid t k w .int32 ((List.range w.count).map fun i => (Config.entropy (s.draws + i)).toNat) with
      draws := s.draws + w.count } := by
  simp [doVrndu, s.issueUnit_eq hc hk, hw, hop, hfmt, s.vecDone_unitDid hk]

end Issued

end Sys2Proof.Machine

open Sys2Proof Sys2Proof.Machine

/-- Settles O11: both rows are an issue followed by one vector result, and the issue leaves the seed, the step register and the count of
draws as they were. -/
theorem randomNumberResults : Obligations.RandomNumberResults := by
  intro s t k word hc hk w hfmt
  refine ⟨fun hop => ?vrand, fun hop => ?vrndu⟩
  case vrand => rw [exec_vrand, doVrand_eq_vecDid s hc hk rfl hfmt hop]
  case vrndu => rw [exec_vrndu, doVrndu_eq_vecDid s hc hk rfl hfmt hop]

end

section
/-! SUPPORT. VCVT, VWSUM and VPTREE (R70, R71, R429): an issue followed by one vector result. -/

namespace Sys2Proof.Machine

variable (s : State) {t : TaskRef} {k : Task}

theorem exec_vcvt (word : Bytes) : exec (.vcvt t word) s = .next (s.keep (doVcvt t word s)) := rfl

theorem exec_vwsum (word : Bytes) : exec (.vwsum t word) s = .next (s.keep (doVwsum t word s)) := rfl

theorem exec_vptree (word : Bytes) : exec (.vptree t word) s = .next (s.keep (doVptree t word s)) := rfl

@[simp] theorem State.unitDid_mem (core : Nat) (f : Task → Task) : (s.unitDid t core f).mem = s.mem := rfl

section Issued

variable {word : Bytes} {w : VecWord} (hc : s.canIssue t = true) (hk : s.task t = some k) (hw : VecWord.ofBytes word = w)

include hc hk hw

/-- VCVT puts the converted elements of the pair in dst. -/
theorem doVcvt_eq_vecDid {src dst : Fmt} (hop : w.op = 0x48) (hpair : vcvtPair w = some (src, dst)) :
    doVcvt t word s = s.vecDid t k w dst ((k.vget w.a src w.count).map (convElem src dst .plain)) := by
  simp [doVcvt, s.issueUnit_eq hc hk, hw, hop, hpair, s.vecDone_unitDid hk]

theorem doVwsum_eq_vecDid {fa fb : Fmt} (hop : w.op = 0x60) (hlen : w.imm % 256 = 32 ∨ w.imm % 256 = 64 ∨ w.imm % 256 = 128)
    (ha : Fmt.ofCode w.fmt = some fa) (hb : Fmt.ofCode (bitsOf w.imm 8 8) = some fb) (hpair : pairOk fa fb = true) :
    doVwsum t word s =
      let ps := List.zipWith Num.mul ((k.vget w.a fa w.count).map (decodeFloat fa)) ((k.vget w.b fb w.count).map (decodeFloat fb))
      s.vecDid t k w .fp32 (chunkSums (w.imm % 256) ps.length ps) := by
  simp [doVwsum, s.issueUnit_eq hc hk, hw, hop, hlen, ha, hb, hpair, s.vecDone_unitDid hk]

/-- VPTREE in plain workspace: the partial vectors are the bytes of memory, and with none of them the list of roots is empty. -/
theorem doVptree_eq_vecDid {f : Fmt} (hop : w.op = 0x61) (hf : Fmt.ofCode w.fmt = some f) (hfp : f = .fp32 ∨ f = .fp64) (hp : s.plainWs t k = true)
    {len pitch : Nat} (hlen : len = w.count * f.size) (hpitch : pitch = if w.stride = 0 then roundUp len 64 else 64 * w.stride)
    (hin : ∀ i < w.imm, w.addr + i * pitch + len ≤ wsBytes) :
    doVptree t word s = s.vecDid t k w f (if w.imm = 0 then [] else (List.range w.count).map fun e =>
      (treeOf (fAdd f) ((List.range w.imm).map fun i =>
        elemAt f (s.mem.read (wsKey t.job k.home (w.addr + i * pitch)) len) e)).getD 0) := by
  have hread := (s.unitDid t k.core id).readPartials_plain (s.plainWs_unitDid k.core hk id (fun _ => rfl) hp) len pitch w.imm w.addr [] hin
  simp [doVptree, s.issueUnit_eq hc hk, hw, hop, hf, hfp, ← hlen, ← hpitch, hread, s.vecDone_unitDid hk, Function.comp_def]

end Issued

end Sys2Proof.Machine

open Sys2Proof Sys2Proof.Machine

/-- Settles O10: each row is an issue followed by one vector result; the reads of VPTREE leave plain workspace as it was. -/
theorem vectorConversionAndSumResults : Obligations.VectorConversionAndSumResults := by
  intro s t k word hc hk w
  refine ⟨fun src dst hop hpair => ?vcvt, fun fa fb hop hlen ha hb hpair => ?vwsum, ?vptree⟩
  case vcvt => rw [exec_vcvt, doVcvt_eq_vecDid s hc hk rfl hop hpair]
  case vwsum => rw [exec_vwsum, doVwsum_eq_vecDid s hc hk rfl hop hlen ha hb hpair]
  case vptree =>
    intro f hop hf hfp hp len pitch hin
    rw [exec_vptree, doVptree_eq_vecDid s hc hk rfl hop hf hfp hp rfl rfl hin]

end

section
/-! SUPPORT. MMA of a tile whose operands lie in plain workspace (R43 to R59): the operands, the totals, and what becomes of the tile. -/

namespace Sys2Proof.Machine

variable (s : State) {t : TaskRef} {k : Task}

theorem exec_mma (word : Bytes) (x : TileFaults) : exec (.mma t word x) s = .next (s.keep (doMma t word x s)) := rfl

@[simp] theorem State.correctedWords_zero (d : Domain) : s.correctedWords d 0 = s := by
  simp [State.correctedWords]

/-- The bytes of an operand's rows in a task's workspace, row after row (R43). -/
def State.rowsOf (s : State) (t : TaskRef) (k : Task) (base pitch len n : Nat) : Bytes :=
  ((List.range n).map fun i => s.mem.read (wsKey t.job k.home (base + i * pitch)) len).flatten

/-- Both operands in plain workspace are what memory holds in their rows, and reading them changes nothing. -/
theorem State.readOperands_plain {w : ArrayWord} {fa fb : Fmt} (hp : s.plainWs t k = true)
    (ha : ∀ i < shapeM w.shape, w.aAddr + i * w.rowA fa + w.kCount * fa.size ≤ wsBytes)
    (hb : ∀ i < w.kCount, w.bAddr + i * w.rowB fb + shapeN w.shape * fb.size ≤ wsBytes) :
    s.readOperands t k w fa fb =
      (.ok [] s, operandRows fa (s.rowsOf t k w.aAddr (w.rowA fa) (w.kCount * fa.size) (shapeM w.shape)) (shapeM w.shape) w.kCount,
        operandRows fb (s.rowsOf t k w.bAddr (w.rowB fb) (shapeN w.shape * fb.size) w.kCount) w.kCount (shapeN w.shape)) := by
  simp [State.readOperands, s.readRows_plain hp _ _ _ _ _ ha, s.readRows_plain hp _ _ _ _ _ hb, State.rowsOf]

theorem State.withCells_setTask (m : Cells) (f : Task → Task) : (s.withCells m).setTask t f = (s.setTask t f).withCells m := rfl

/-! ## The tile takes its totals -/

theorem State.tileDone_open {w : ArrayWord} (hcl : w.closes = false) (tile : Tile) (len : Nat) (totals : List Nat) :
    s.tileDone t k w tile len totals = .ok [] (s.setTask t fun x => { x with
      tiles := x.tiles.filter (fun y => !(y.array == tile.array && y.slot == tile.slot)) ++
        [{ tile with totals := totals, chunk := tile.chunk + ceilDiv w.kCount len }] }) := by
  simp [State.tileDone, hcl]

theorem State.tileDone_close {w : ArrayWord} (hcl : w.closes = true) (hp : s.plainWs t k = true) (hm : cellsWf s.mem.cells = true)
    (tile : Tile) (len : Nat) {totals : List Nat} (hin : w.outAddr + (packElems (totalFmt tile.wide) totals).length ≤ wsBytes) :
    ∃ cells, s.tileDone t k w tile len totals =
        .ok [] (((s.withCells cells).setTask t fun x => { x with tiles := x.tiles.filter fun y => !(y.array == tile.array && y.slot == tile.slot) }).signalLine
          t k w.signals w.line) ∧ s.laid (s.withCells cells) (wsKey t.job k.home w.outAddr) (packElems (totalFmt tile.wide) totals) := by
  obtain ⟨cells, hwrite, -, hget⟩ := s.writeWs_plain hp hm hin
  exact ⟨cells, by simp [State.tileDone, hcl, hwrite], hget⟩

/-! ## MMA of a tile that no unit's fault and no sample touches (R43 to R59) -/

/-- The totals of a tile after an instruction whose operands lie in plain workspace. -/
def State.mmaTotals (s : State) (t : TaskRef) (k : Task) (w : ArrayWord) (fa fb : Fmt) (tile : Tile) : List Nat :=
  tileTotals (s.job t.job).chunk (totalFmt tile.wide) tile.chunk tile.totals
    (operandRows fa (s.rowsOf t k w.aAddr (w.rowA fa) (w.kCount * fa.size) (shapeM w.shape)) (shapeM w.shape) w.kCount)
    (operandRows fb (s.rowsOf t k w.bAddr (w.rowB fb) (shapeN w.shape * fb.size) w.kCount) w.kCount (shapeN w.shape))
    (shapeN w.shape)

section Clean

variable {word : Bytes} {w : ArrayWord} {x : TileFaults} {fa fb : Fmt} {tile : Tile} {u : State}
  (hc : s.canIssue t = true) (hk : s.task t = some k) (hp : s.plainWs t k = true) (hcorr : x.corrected = 0) (hunc : x.uncorrectable = false)
  (hglitch : x.array1 = none) (hw : ArrayWord.ofBytes word = w) (hu : s.unitDid t k.core id = u) (hop : w.op = 0x31)
  (hpair : w.pair = some (fa, fb)) (htile : u.tileOf t k w = some tile) (hsel : tile.selected = false) (hwait : u.arrayWaits t k w tile = false)
  (hsample : (w.opens && tileSelected (u.job t.job).seed k.tileKey.toNat (u.job t.job).train.step (u.job t.job).sampling) = false)
  (ha : ∀ i < shapeM w.shape, w.aAddr + i * w.rowA fa + w.kCount * fa.size ≤ wsBytes)
  (hb : ∀ i < w.kCount, w.bAddr + i * w.rowB fb + shapeN w.shape * fb.size ≤ wsBytes)

include hc hk hp hcorr hunc hglitch hw hu hop hpair htile hsel hwait hsample ha hb

/-- Such an MMA is its issue followed by the tile's taking its totals. -/
theorem doMma_of_tileDone {v : State} {bs : Bytes}
    (hdone : u.tileDone t k w tile (u.job t.job).chunk (u.mmaTotals t k w fa fb tile) = .ok bs v) : doMma t word x s = v := by
  have hpu : u.plainWs t k = true := hu ▸ s.plainWs_unitDid k.core hk id (fun _ => rfl) hp
  unfold State.mmaTotals at hdone
  simp [doMma, s.issueUnit_eq hc hk, hu, hw, hop, hpair, htile, hwait, u.readOperands_plain hpu ha hb, hcorr, hunc, hsample, hsel, hglitch,
    glitched, hdone]

end Clean

end Sys2Proof.Machine

open Sys2Proof Sys2Proof.Machine

/-- Settles O19: the MMA is its issue followed by the tile's taking its totals, and these come from the bytes that workspace held before. -/
theorem arrayInstructionsFormTheirTotals : Obligations.ArrayInstructionsFormTheirTotals := by
  intro s t k word x fa fb tile hc hk hp hm hcorr hunc hglitch u w m n hop hpair htile hsel hwait hsample ha hb row a b len totals others
  have hdo := fun v bs => doMma_of_tileDone (v := v) (bs := bs) s hc hk hp hcorr hunc hglitch rfl rfl hop hpair htile hsel hwait hsample ha hb
  have hpu : u.plainWs t k = true := s.plainWs_unitDid k.core hk id (fun _ => rfl) hp
  refine ⟨fun hkeep => ?kept, fun hclose hout => ?drained⟩
  case kept =>
    rw [exec_mma, hdo _ _ (u.tileDone_open hkeep tile _ _), s.unitDid_setTask]
    rfl
  case drained =>
    obtain ⟨cells, hdone, hlaid⟩ := u.tileDone_close hclose hpu hm tile len hout
    exact ⟨cells, by rw [exec_mma, hdo _ _ hdone, State.withCells_setTask, s.unitDid_setTask]; rfl, hlaid⟩

end

section
/-! SUPPORT. JOB_LOAD zeroes both halves of its context's workspace (R120, R149); a module on which the second half of an EMPTY context still
holds a byte. -/

namespace Sys2Proof.Machine

/-- A task that declares nothing. -/
def bareTask : TaskDecl :=
  { workspaceKib := 0, image := [], relocs := [], arrays := [], vectors := [], optUpdates := [], updates := [], chanOps := [], chans := []
    programs := [], regions := [], epochWorkspace := [], collectives := [], fpSlot := none, fpRegions := [] }

/-- The binary of that one task. -/
def bareBinary : Binary :=
  { malformed := false, classF := false, detStrict := false, virtualWidth := 1, layout := 0, digest := [], tasks := [bareTask], eventLines := 0
    regions := [], hingeSlotBytes := none, hingeChannels := 0, farWindowBytes := 0, claims := [], layers := [], collectives := [], serve := none
    fpClasses := [] }

/-- The first command of queue M0. -/
def loadRef : CmdRef := ⟨128, 0, 0⟩

/-- JOB_LOAD into context 0 of 4096 bytes at the start of the far window, without bindings. -/
def loadCmd : Cmd :=
  { ref := loadRef
    header := toLe 2 0x0101 ++ toLe 1 2 ++ toLe 1 0 ++ toLe 2 0 ++ toLe 2 0 ++ toLe 4 64 ++ toLe 4 0 ++ toLe 8 0 ++ toLe 8 0
    params := toLe 8 farBase ++ toLe 8 4096 ++ toLe 48 0 }

/-- The first key of the second half of context 0's workspace. -/
def staleKey : Nat := 2 ^ 52 + halfShift

/-- Every domain runs, nothing is loaded, the command has been read, and memory holds one byte, at the stale key. -/
def staleState : State :=
  { keeper := { management := 0, resets := [] }, fw := { awaiting := false }, mem := { cells := [(staleKey, 1)] }
    cores := List.replicate 192 { domain := 0 }, dies := List.replicate 4 { domain := 0 }
    host := { windows := [(0, 4096)], rings := (List.replicate 132 {}).set 128 { cmds := [loadCmd] } } }

/-- The room that the load takes: core 0 and the first block of H1. -/
def staleLoadPlan : LoadPlan := { homes := [0], grants := [], slots := [0x10_0000_0000] }

theorem shortfall_staleState :
    (staleState.begin loadRef).shortfall bareBinary ((staleState.begin loadRef).homeCores (loadCmd.p 0x18 24)) 0 = .ok staleLoadPlan := by
  decide +kernel

theorem exec_jobLoad_staleState_erases {t : State} (h : exec (.jobLoad loadRef bareBinary) staleState = .next t) :
    cellGet t.mem.cells staleKey = 0 := by
  have ht : staleState.keep (cmdRow loadRef 0x0101 (.jobLoad loadRef bareBinary) (doJobLoad loadRef bareBinary) staleState) = t :=
    Host.Outcome.next.inj h
  rw [← ht]
  decide +kernel

end Sys2Proof.Machine

open Sys2Proof Sys2Proof.Machine

/-- Refutes O56: JOB_LOAD zeroes the second half of its workspace too, 2 ^ 62 above the first, and the statement's list of the bytes that may
change leaves that half out. A byte that stands there in `staleState` is gone after the load. -/
theorem not_jobsLoadStartStopAndUnload : ¬ Obligations.JobsLoadStartStopAndUnload := by
  intro h
  obtain ⟨hload, -⟩ := h staleState loadRef loadCmd bareBinary (by decide +kernel)
  have hbegins : staleState.mayBegin loadRef loadCmd 0x0101 = true := by decide +kernel
  have hfar : staleState.farOk (loadCmd.p 0 8) (loadCmd.p 8 8) = true := by decide +kernel
  have hbeyond : ∀ n, 0x40 + 24 * loadCmd.p 0x30 4 ≤ n → loadCmd.params.getD n 0 = 0 := fun n hn =>
    List.getD_eq_default _ _ (Nat.le_trans (by decide +kernel) hn)
  obtain ⟨-, hempty⟩ := hload hbegins hfar (by decide +kernel) (by decide +kernel) (by decide +kernel) (by decide +kernel) (by decide +kernel)
    hbeyond (by decide +kernel) (by decide +kernel)
  obtain ⟨-, hfits⟩ := hempty rfl
  obtain ⟨t, hexec, -, -, -, -, -, -, -, -, -, hframe⟩ := hfits staleLoadPlan shortfall_staleState (by decide +kernel) (by decide +kernel)
  have houtside : ¬ (2 ^ 52 * (loadCmd.job + 1) ≤ staleKey ∧ staleKey < 2 ^ 52 * (loadCmd.job + 1) + 2 ^ 52) := by decide +kernel
  have hkept : cellGet t.mem.cells staleKey = cellGet staleState.mem.cells staleKey := hframe staleKey houtside (by decide +kernel) (by decide +kernel)
  rw [exec_jobLoad_staleState_erases hexec] at hkept
  exact absurd hkept (by decide)

end

section
/-! SUPPORT. The vector rows whose results come from registers (R63 to R69, R429): what a row does with a word of its own, with any other
word, and without its task on its core. -/

namespace Sys2Proof.Machine

variable (s : State) {t : TaskRef} {k : Task}

/-- A meaning that comes to nothing answers the state as it was. -/
theorem State.become_of_eq {u : State} (h : u = s) : s.become u = .next s := by rw [h, State.become_eq, State.keep_self]

/-! ## A row that runs from registers -/

section Run

variable {word : Bytes} {op : Nat} {res : Task → VecWord → Fmt → List Nat}

/-- A word of the row's opcode and of a vector format: the issue and the results are one vector result. -/
theorem vecRun_eq_vecDid {w : VecWord} {f : Fmt} (hc : s.canIssue t = true) (hk : s.task t = some k) (hw : VecWord.ofBytes word = w)
    (hop : w.op = op) (hf : vecFmt w.fmt = some f) : vecRun t word op res s = s.vecDid t k w f (res k w f) := by
  simp [vecRun, s.issueUnit_eq hc hk, hw, hop, hf, s.vecDone_unitDid hk]

/-- A word of another opcode, or of a format that vector arithmetic does not take, does nothing, issued or not. -/
theorem vecRun_eq_self (h : (VecWord.ofBytes word).op ≠ op ∨ vecFmt (VecWord.ofBytes word).fmt = none) : vecRun t word op res s = s := by
  unfold vecRun
  cases s.issueUnit t with
  | none => rfl
  | some x => rcases h with h | h <;> simp [h]

/-- Without its task on its core the row does nothing (R320). -/
theorem vecRun_of_not_canIssue (hc : s.canIssue t = false) : vecRun t word op res s = s := by
  simp [vecRun, s.issueUnit_none hc]

theorem become_vecRun {w : VecWord} {f : Fmt} (hc : s.canIssue t = true) (hk : s.task t = some k) (hw : VecWord.ofBytes word = w)
    (hf : vecFmt w.fmt = some f) (hop : w.op = op) :
    s.become (vecRun t word op res s) = .next (s.keep (s.vecDid t k w f (res k w f))) := by
  rw [vecRun_eq_vecDid s hc hk hw hop hf, State.become_eq]

end Run

end Sys2Proof.Machine

open Sys2Proof Sys2Proof.Machine

/-- Settles O7: the eight rows are runs from registers with the element-wise operation of their opcode. -/
theorem vectorElementwiseResults : Obligations.VectorElementwiseResults := by
  intro s t k word f hc hk w a b c
  have runs {op res} hf (hop : w.op = op) := become_vecRun (res := res) s hc hk (rfl : VecWord.ofBytes word = w) (f := f) hf hop
  have stays {op res} (h : w.op ≠ op ∨ vecFmt w.fmt = none) := s.become_of_eq (vecRun_eq_self (t := t) (word := word) (res := res) s h)
  exact ⟨fun hf => ⟨runs hf, runs hf, runs hf, runs hf, runs hf, runs hf, runs hf, runs hf⟩, stays, stays, stays, stays, stays, stays, stays, stays⟩

/-- Settles O8: but for FP64, which leaves the state, the six rows are runs from registers. -/
theorem vectorTranscendentalResults : Obligations.VectorTranscendentalResults := by
  intro s t k word f hc hk w a hf
  refine ⟨fun hne => ?plain, fun heq => ?fp64⟩
  case plain =>
    have hif (u : State) : (if vecFmt w.fmt = some .fp64 then s else u) = u := if_neg (by simp [hf, hne])
    have runs {op res} (hop : w.op = op) : s.become (if vecFmt w.fmt = some .fp64 then s else vecRun t word op res s) = _ :=
      (congrArg s.become (hif _)).trans (become_vecRun s hc hk rfl hf hop)
    exact ⟨runs, runs, runs, runs, runs, runs⟩
  case fp64 =>
    have stays (u : State) : s.become (if vecFmt w.fmt = some .fp64 then s else u) = .next s := s.become_of_eq (if_pos (heq ▸ hf))
    exact ⟨stays _, stays _, stays _, stays _, stays _, stays _⟩

/-- Settles O9: the four rows are runs from registers; their results are the statement's by definition. -/
theorem vectorAcrossLanesResults : Obligations.VectorAcrossLanesResults := by
  intro s t k word f hc hk w a pick hf
  have runs {op res} (hop : w.op = op) := become_vecRun (res := res) s hc hk (rfl : VecWord.ofBytes word = w) hf hop
  exact ⟨runs, runs, runs, runs⟩

end

section
/-! SUPPORT. Instructions whose task cannot issue (R74, R312, R317, R320, R404). -/

open Sys2Proof Sys2Proof.Machine

/-- Settles O6: every row of a task asks for the issue first, and without one its meaning is the state it was given. -/
theorem instructionsNeedTheirTaskOnItsCore : Obligations.InstructionsNeedTheirTaskOnItsCore := by
  intro i t s ht hc
  have hi := s.issue_none hc
  have hu := s.issueUnit_none hc
  cases i with
  | vadd | vsub | vmul | vfma | vdiv | vsqrt | vmax | vmin | vrsum | vrmax | vrmin | vperm =>
    cases ht
    exact s.become_of_eq (vecRun_of_not_canIssue s hc)
  | vexp | vlog | vrsqrt | vtanh | verf | vsigm =>
    cases ht
    exact s.become_of_eq (by rw [vecRun_of_not_canIssue s hc, ite_self])
  | mma | vcvt | vwsum | vptree | vrand | vrndu | vld | vst =>
    cases ht
    refine s.become_of_eq ?_
    simp only [doMma, doVcvt, doVwsum, doVptree, doVrand, doVrndu, doVld, doVst, hu]
  | scalarOperation | ppoint | phase | tilekey | pace | controllerWait =>
    cases ht
    refine s.become_of_eq ?_
    simp only [doScalar, doPpoint, doPhase, doTilekey, doPace, doControllerWait, hi]
  | chgoStart | chgoRetry | chgoNext | chgoAbort | chstat | chclr =>
    cases ht
    refine s.become_of_eq ?_
    simp only [doChgo, doChstat, doChclr, hi]
  | epoch | nonfin | lsexp | optupd | update | collstart | cready | batch | sexit =>
    cases ht
    refine s.become_of_eq ?_
    simp only [doEpoch, doNonfin, doLsexp, doOptupd, doUpdate, doCollstart, doCready, doBatch, doSexit, hi]
  | _ => cases ht

end

section
/-! SUPPORT. VLD and VST in plain workspace, and a load that meets an uncorrectable word (R65, R81 to R85). -/

namespace Sys2Proof.Machine

variable (s : State) {t : TaskRef} {k : Task}

/-! ## A load that meets an uncorrectable word -/

/-- Issuing leaves what the tasks of the job declare. -/
theorem State.unitDid_epochWorkspace (core : Nat) (hk : s.task t = some k)
    (h : ((s.job t.job).tasks.all fun x => x.decl.epochWorkspace.isEmpty) = true) :
    (((s.unitDid t core id).job t.job).tasks.all fun x => x.decl.epochWorkspace.isEmpty) = true := by
  have hdecl : ((s.unitDid t core id).job t.job).tasks.map Task.decl = (s.job t.job).tasks.map Task.decl := by
    rw [s.job_unitDid core hk]
    exact map_modify_same Task.decl (fun x => { x with atPoint := false }) (fun _ => rfl) _ _
  have hall (l : List Task) : (l.all fun x => x.decl.epochWorkspace.isEmpty) = (l.map Task.decl).all fun x => x.epochWorkspace.isEmpty := by
    rw [List.all_map]
    rfl
  rw [hall, hdecl, ← hall, h]

/-- A stretch within one 64-byte line is one access (R95). -/
theorem funnel_one_line {o n : Nat} (hn : 0 < n) (hline : o % 64 + n ≤ 64) : funnel n o n = [(o, n)] := by
  obtain ⟨m, rfl⟩ : ∃ m, n = m + 1 := ⟨n - 1, by omega⟩
  have hmin : min (m + 1) (64 - o % 64) = m + 1 := by omega
  cases m <;> simp [funnel, hmin]

/-- A read of one line of workspace that holds an uncorrectable word gives no bytes (R84). -/
theorem State.readWs_bad {o n : Nat} (ht : (s.job t.job).train.tagged = [])
    (hw : ((s.job t.job).tasks.all fun x => x.decl.epochWorkspace.isEmpty) = true) (hn : 0 < n) (hline : o % 64 + n ≤ 64) (hin : o + n ≤ wsBytes)
    (hbad : s.mem.bad (wsKey t.job k.home o) n = true) : s.readWs t k o n = .err 3 := by
  have hin' : ¬ o + n > wsBytes := by omega
  simp [State.readWs, hin', funnel_one_line hn hline, State.readAs, Job.readWaits, ht, Job.readHalf, Job.inEpoch_ws hw, State.readKey, hbad]

/-! ## The rows -/

section Issued

variable {word : Bytes} {w : VecWord} {f : Fmt} (hc : s.canIssue t = true) (hk : s.task t = some k) (hw : VecWord.ofBytes word = w)
  (hf : vecFmt w.fmt = some f)

include hc hk hw hf

theorem doVld_eq_vecDid (hop : w.op = 0x70) (hp : s.plainWs t k = true) (hin : w.addr + f.bytesOf w.count ≤ wsBytes) :
    doVld t word s = s.vecDid t k w f (elemsOf f (s.mem.read (wsKey t.job k.home w.addr) (f.bytesOf w.count)) w.count) := by
  have hread := (s.unitDid t k.core id).readWs_plain (s.plainWs_unitDid k.core hk id (fun _ => rfl) hp) hin
  simp [doVld, s.issueUnit_eq hc hk, hw, hop, hf, hread, s.vecDone_unitDid hk]

theorem doVld_bad (hop : w.op = 0x70) (ht : (s.job t.job).train.tagged = [])
    (hews : ((s.job t.job).tasks.all fun x => x.decl.epochWorkspace.isEmpty) = true) (hn : 0 < f.bytesOf w.count)
    (hline : w.addr % 64 + f.bytesOf w.count ≤ 64) (hin : w.addr + f.bytesOf w.count ≤ wsBytes)
    (hbad : s.mem.bad (wsKey t.job k.home w.addr) (f.bytesOf w.count) = true) :
    doVld t word s = s.faultStop t.job stUncorrectable true := by
  have ht' : ((s.unitDid t k.core id).job t.job).train.tagged = [] := by rw [s.job_unitDid k.core hk]; exact ht
  have hread := (s.unitDid t k.core id).readWs_bad (k := k) ht' (s.unitDid_epochWorkspace k.core hk hews) hn hline hin hbad
  simp [doVld, s.issueUnit_eq hc hk, hw, hop, hf, hread, State.unitFail]

theorem doVst_eq_withCells (hop : w.op = 0x71) (hp : s.plainWs t k = true) (hm : cellsWf s.mem.cells = true)
    {bs : Bytes} (hbs : packElems f (k.vget w.a f w.count) = bs) (hin : w.addr + bs.length ≤ wsBytes) :
    ∃ m, doVst t word s = ((s.unitDid t k.core id).withCells m).signalLine t k (bitOf w.flags 0) w.line ∧ cellsWf m = true ∧
      ∀ a, cellGet m a = if wsKey t.job k.home w.addr ≤ a ∧ a < wsKey t.job k.home w.addr + bs.length
        then bs.getD (a - wsKey t.job k.home w.addr) 0 else cellGet s.mem.cells a := by
  obtain ⟨m, hwrite, hwf, hget⟩ := (s.unitDid t k.core id).writeWs_plain (s.plainWs_unitDid k.core hk id (fun _ => rfl) hp) hm hin
  exact ⟨m, by simp [doVst, s.issueUnit_eq hc hk, hw, hop, hf, hbs, hwrite], hwf, hget⟩

end Issued

end Sys2Proof.Machine

open Sys2Proof Sys2Proof.Machine

/-- Settles O12: in plain workspace a load reads what memory holds and a store lays its bytes; an uncorrectable word in the one line of a load
stops the job. -/
theorem vectorLoadAndStoreMoveWorkspaceBytes : Obligations.VectorLoadAndStoreMoveWorkspaceBytes := by
  intro s t k word f hc hk w key hf
  refine ⟨fun hp hop hin => ?load, ?store, fun hop ht hews hn hline hin hbad => ?uncorrectable⟩
  case load => exact congrArg s.become (doVld_eq_vecDid s hc hk rfl hf hop hp hin)
  case store =>
    intro hp hm hop bs hin
    obtain ⟨m, hdo, hwf, hget⟩ := doVst_eq_withCells s hc hk rfl hf hop hp hm rfl hin
    exact ⟨m, congrArg s.become hdo, hwf, hget⟩
  case uncorrectable => exact congrArg s.become (doVld_bad s hc hk rfl hf hop ht hews hn hline hin hbad)

end

section
/-! SUPPORT. Scalar operations of the core controller (R64). -/

namespace Sys2Proof.Machine

variable (s : State) {t : TaskRef} {k : Task}

theorem doScalar_of_some {op fmt : Byte} {a b c : U64} {f : Fmt} {v : Nat} (hc : s.canIssue t = true) (hk : s.task t = some k)
    (hf : vecFmt fmt.toNat = some f) (hv : scalarOp op.toNat f a.toNat b.toNat c.toNat = some v) :
    doScalar t op fmt a b c s = s.did t fun x => { x with scalar := BitVec.ofNat 64 v } := by
  simp [doScalar, s.issue_eq hc hk, hf, hv, s.did_setTask]

/-- An opcode or a format without a scalar operation does nothing. -/
theorem doScalar_of_none {op fmt : Byte} {a b c : U64} (hc : s.canIssue t = true) (hk : s.task t = some k)
    (h : ∀ f, vecFmt fmt.toNat = some f → scalarOp op.toNat f a.toNat b.toNat c.toNat = none) : doScalar t op fmt a b c s = s := by
  simp only [doScalar, s.issue_eq hc hk]
  cases hf : vecFmt fmt.toNat with
  | none => rfl
  | some f => simp only [h f hf]

end Sys2Proof.Machine

open Sys2Proof Sys2Proof.Machine

/-- Settles O13: `scalarOp` names the vector operations of its opcodes, and the row puts its result in the task's register. -/
theorem scalarOperationGivesTheVectorBits : Obligations.ScalarOperationGivesTheVectorBits := by
  refine ⟨fun f a b c => ?bits, fun s t k op fmt a b c hc hk => ⟨fun f v hf hv => ?result, fun h => ?unnamed⟩⟩
  case bits =>
    have htrans : f ≠ .fp64 → ∀ fn x, (if f = .fp64 then none else some (transIn fn f x)) = some (transIn fn f x) := fun h _ _ => if_neg h
    exact ⟨rfl, rfl, rfl, rfl, rfl, rfl, rfl, rfl, fun h =>
      ⟨htrans h _ _, htrans h _ _, htrans h _ _, htrans h _ _, htrans h _ _, htrans h _ _⟩⟩
  case result => exact congrArg s.become (doScalar_of_some s hc hk hf hv)
  case unnamed => exact s.become_of_eq (doScalar_of_none s hc hk h)

end

section
/-! SUPPORT. The frame of the vector rows whose results come from registers (R65, R73, R99). -/

namespace Sys2Proof.Machine

/-- A state without what such a row can change: jobs with their tasks and channels, cores, event lines, the error log and the count of draws. -/
def State.offEngine (s : State) : State := { s with jobs := [], cores := [], dies := [], keeper := {}, draws := 0 }

variable (s : State) {t : TaskRef}

theorem State.offEngine_fields {s u : State} (h : u.offEngine = s.offEngine) : u.mem = s.mem ∧ u.fabric = s.fabric ∧ u.host = s.host ∧
    u.health = s.health ∧ u.fw = s.fw ∧ u.power = s.power ∧ u.hbm = s.hbm :=
  ⟨congrArg (·.mem) h, congrArg (·.fabric) h, congrArg (·.host) h, congrArg (·.health) h, congrArg (·.fw) h, congrArg (·.power) h,
    congrArg (·.hbm) h⟩

theorem State.offEngine_keep {s u : State} (h : u.offEngine = s.offEngine) : (s.keep u).offEngine = s.offEngine :=
  congrArg (fun x : State => { x with ident := s.ident, pending := s.pending }) h

/-! ## Event lines -/

theorem State.offEngine_served (a : WaitAgent) : (s.served a).offEngine = s.offEngine := by
  cases a <;> rfl

theorem State.offEngine_serve (n d l : Nat) : (State.serve n s d l).offEngine = s.offEngine := by
  induction n generalizing s with
  | zero => rfl
  | succ n ih =>
    unfold State.serve
    dsimp only
    split
    · rfl
    · split
      · rw [ih, State.offEngine_served]
        rfl
      · rfl

theorem State.offEngine_pulses (n d l : Nat) : (State.pulses n s d l).1.offEngine = s.offEngine := by
  induction n generalizing s with
  | zero => rfl
  | succ n ih =>
    unfold State.pulses
    dsimp only
    split
    · exact ih s
    · rw [ih, State.offEngine_serve]
      rfl

theorem State.offEngine_pulse (j d rel n : Nat) : (s.pulse j d rel n).offEngine = s.offEngine := by
  unfold State.pulse
  split
  · rfl
  · dsimp only
    split
    · exact s.offEngine_pulses _ _ _
    · exact s.offEngine_pulses _ _ _

theorem State.offEngine_signalLine (k : Task) (flag : Bool) (line : Nat) : (s.signalLine t k flag line).offEngine = s.offEngine := by
  unfold State.signalLine
  split
  · exact s.offEngine_pulse _ _ _ _
  · rfl

/-! ## Issue and results -/

/-- What an issue answers is the issued instruction of the task. -/
theorem State.issueUnit_some {x : Task × State} (h : s.issueUnit t = some x) : x.2 = s.unitDid t x.1.core id := by
  cases hc : s.canIssue t with
  | false => simp [s.issueUnit_none hc] at h
  | true =>
    obtain ⟨k, hk⟩ := s.task_of_canIssue hc
    rw [s.issueUnit_eq hc hk] at h
    cases h
    rfl

/-- Results put in dst after the issue. -/
theorem State.offEngine_vecDone {x : Task × State} (h : s.issueUnit t = some x) (w : VecWord) (f : Fmt) (xs : List Nat) :
    (x.2.vecDone t w f xs).offEngine = s.offEngine := by
  rw [s.issueUnit_some h]
  unfold State.vecDone
  split
  · rfl
  · rw [State.offEngine_signalLine]
    rfl

/-! ## The rows -/

variable (word : Bytes)

theorem State.offEngine_vecRun (op : Nat) (res : Task → VecWord → Fmt → List Nat) : (vecRun t word op res s).offEngine = s.offEngine := by
  unfold vecRun
  split
  · rfl
  · next hx =>
    dsimp only
    split_ifs
    · rfl
    · split
      · exact s.offEngine_vecDone hx _ _ _
      · rfl

theorem State.offEngine_doVcvt : (doVcvt t word s).offEngine = s.offEngine := by
  unfold doVcvt
  split
  · rfl
  · next hx =>
    dsimp only
    split_ifs
    · rfl
    · split
      · exact s.offEngine_vecDone hx _ _ _
      · rfl

theorem State.offEngine_doVwsum : (doVwsum t word s).offEngine = s.offEngine := by
  unfold doVwsum
  split
  · rfl
  · next hx =>
    dsimp only
    split_ifs
    · rfl
    · split
      · split
        · exact s.offEngine_vecDone hx _ _ _
        · rfl
      · rfl

theorem State.offEngine_doVrand : (doVrand t word s).offEngine = s.offEngine := by
  unfold doVrand
  split
  · rfl
  · next hx =>
    dsimp only
    split_ifs
    · rfl
    · exact s.offEngine_vecDone hx _ _ _

theorem State.offEngine_doVrndu : (doVrndu t word s).offEngine = s.offEngine := by
  unfold doVrndu
  split
  · rfl
  · next hx =>
    dsimp only
    split_ifs
    · rfl
    · exact s.offEngine_vecDone hx _ _ _

/-- No row whose results come from registers changes anything off the engine. -/
theorem exec_registerRow_offEngine {i : Instr} {u : State} (hr : registerRow i = some (t, word)) (h : exec i s = .next u) :
    u.offEngine = s.offEngine := by
  cases i with
  | vadd | vsub | vmul | vfma | vdiv | vsqrt | vmax | vmin | vrsum | vrmax | vrmin | vperm =>
    cases h
    exact State.offEngine_keep (State.offEngine_vecRun ..)
  | vexp | vlog | vrsqrt | vtanh | verf | vsigm =>
    cases h
    refine State.offEngine_keep ?_
    split
    · rfl
    · exact State.offEngine_vecRun ..
  | vcvt => cases h; exact State.offEngine_keep (State.offEngine_doVcvt ..)
  | vwsum => cases h; exact State.offEngine_keep (State.offEngine_doVwsum ..)
  | vrand => cases h; exact State.offEngine_keep (State.offEngine_doVrand ..)
  | vrndu => cases h; exact State.offEngine_keep (State.offEngine_doVrndu ..)
  | _ => cases hr

end Sys2Proof.Machine

open Sys2Proof Sys2Proof.Machine

/-- Settles O14: a vector result changes a task, a core and, by SIGNAL, an event line with its waiters and the error log. -/
theorem registerInstructionsLeaveMemoryAlone : Obligations.RegisterInstructionsLeaveMemoryAlone := by
  intro i t w s u hr h
  have hfields := State.offEngine_fields (exec_registerRow_offEngine s w hr h)
  exact ⟨fun key => by rw [hfields.1], hfields⟩

end

section
/-! SUPPORT. The controller's registers and pacing timer 0 (R74, R76, R77, R99, R102). -/

namespace Sys2Proof.Machine

variable (s : State) {t : TaskRef} {k : Task}

/-! ## Rows of the controller that have issued -/

section Issued

variable (hc : s.canIssue t = true) (hk : s.task t = some k)

include hc hk

theorem doTilekey_eq_did (key : U64) : doTilekey t key s = s.did t fun x => { x with tileKey := key } := by
  simp [doTilekey, s.issue_eq hc hk, s.did_setTask]

theorem doPace_eq_did (line : Nat) (period : U32) : doPace t line period s = s.did t fun x => { x with pace := paceOf line period.toNat } := by
  simp [doPace, s.issue_eq hc hk, s.did_setTask]

theorem doPhase_open {n : Nat} (timer : Nat) (hn : n ≤ 255) : doPhase t true n timer s =
    s.did t fun x => { x with phases := x.phases.filter (fun p => p.1 != n) ++ [(n, timer % 2 ^ 32)] } := by
  have hn' : ¬ n > 255 := by omega
  simp [doPhase, s.issue_eq hc hk, hn', s.did_setTask]

/-- Closing an open phase notes its duration. -/
theorem doPhase_close {n : Nat} {p : Nat × Nat} (timer : Nat) (hn : n ≤ 255) (hp : (k.phases.find? fun p => p.1 == n) = some p) :
    doPhase t false n timer s = (s.did t fun x => { x with phases := x.phases.filter fun p => p.1 != n }).setTrain t.job
      fun x => { x with phaseTimes := notePhase x.phaseTimes n ((timer + 2 ^ 32 - p.2) % 2 ^ 32) } := by
  have hn' : ¬ n > 255 := by omega
  simp [doPhase, s.issue_eq hc hk, hn', hp, s.did_setTask]

/-- Closing a phase that is not open notes nothing. -/
theorem doPhase_close_none {n : Nat} (timer : Nat) (hn : n ≤ 255) (hp : (k.phases.find? fun p => p.1 == n) = none) :
    doPhase t false n timer s = s.did t id := by
  have hn' : ¬ n > 255 := by omega
  simp [doPhase, s.issue_eq hc hk, hn', hp]

theorem doPpoint_eq : doPpoint t s = (s.setTask t fun x => { x with atPoint := true }).applyMargins k.core := by
  simp [doPpoint, s.issue_eq hc hk, State.did, s.setTask_setTask]

theorem doControllerWait_zero (line : Nat) : doControllerWait t line 0 s = s.did t id := by
  simp [doControllerWait, s.issue_eq hc hk]

end Issued

/-! ## Pacing timer 0 -/

theorem paceOf_zero {line : Nat} {period : U32} (h : period = 0) : paceOf line period.toNat = none := by
  simp [paceOf, h]

theorem paceOf_pos {line : Nat} {period : U32} (h : period ≠ 0) : paceOf line period.toNat = some (line, max 1000 period.toNat) :=
  if_neg fun h0 => h (BitVec.eq_of_toNat_eq h0)

theorem doPacingPulse_running {p : Nat × Nat} (hk : s.task t = some k) (hp : k.pace = some p) :
    doPacingPulse t s = s.pulse t.job (dieOf k.home) p.1 1 := by
  simp [doPacingPulse, hk, hp]

theorem doPacingPulse_stopped (hk : s.task t = some k) (hp : k.pace = none) : doPacingPulse t s = s := by
  simp [doPacingPulse, hk, hp]

end Sys2Proof.Machine

open Sys2Proof Sys2Proof.Machine

/-- Settles O15: each row is its issue with one change of the task; a pulse of timer 0 asks for no issue. -/
theorem controllerRegistersTakeTheirValues : Obligations.ControllerRegistersTakeTheirValues := by
  intro s t k hk
  refine ⟨fun hc => ⟨?tilekey, ?paceStop, ?paceStart, ?phaseOpen, ?phaseClose, ?phaseNone, ?ppoint, ?wait⟩, ?pulse, ?noPulse⟩
  case tilekey => exact fun key => congrArg s.become (doTilekey_eq_did s hc hk key)
  case paceStop =>
    intro line period h
    exact paceOf_zero (line := line) h ▸ congrArg s.become (doPace_eq_did s hc hk line period)
  case paceStart =>
    intro line period h
    exact paceOf_pos (line := line) h ▸ congrArg s.become (doPace_eq_did s hc hk line period)
  case phaseOpen => exact fun n timer hn => congrArg s.become (doPhase_open s hc hk timer hn)
  case phaseClose => exact fun n timer p hn hp => congrArg s.become (doPhase_close s hc hk timer hn hp)
  case phaseNone => exact fun n timer hn hp => congrArg s.become (doPhase_close_none s hc hk timer hn hp)
  case ppoint => exact congrArg s.become (doPpoint_eq s hc hk)
  case wait => exact fun line => congrArg s.become (doControllerWait_zero s hc hk line)
  case pulse => exact fun p hp => congrArg s.become (doPacingPulse_running s hk hp)
  case noPulse => exact fun hp => s.become_of_eq (doPacingPulse_stopped s hk hp)

end

section
/-! SUPPORT. Scheduling events (R74, R75, R320 to R322, R367): a task joins its core's order, keeps its core, or gives it up at a
preemption point. -/

namespace Sys2Proof.Machine

variable (s : State) {t t' : TaskRef} {k k' : Task} {core : Nat}

/-! ## The order of a core -/

theorem State.enqueue_joins (hk : s.task t = some k) (hr : s.isReady t = true) (hn : (s.core k.core).has t = false) :
    s.enqueue t = s.setCore k.core fun c =>
      if (s.job t.job).bestEffort then { c with readyBe := c.readyBe ++ [t] } else { c with readyLc := c.readyLc ++ [t] } := by
  simp [State.enqueue, hk, hr, hn]

theorem State.enqueue_stays (hk : s.task t = some k) (h : s.isReady t = false ∨ (s.core k.core).has t = true) : s.enqueue t = s := by
  rcases h with h | h <;> simp [State.enqueue, hk, h]

/-! ## The task on a core -/

theorem doSliceEnd_bestEffort (hr : (s.core core).running = some t) (hb : (s.job t.job).bestEffort = true) :
    doSliceEnd core s = s.setCore core fun c => { c with sliceOver := true } := by
  simp [doSliceEnd, hr, hb]

theorem doSectionOverrun_running (hr : (s.core core).running = some t) : doSectionOverrun core s =
    ((s.setTask t fun x => { x with atPoint := true }).setTrain t.job fun x => { x with overruns := sat32 (x.overruns + 1) }).applyMargins core := by
  simp [doSectionOverrun, hr]

/-! ## Filling a core -/

/-- What a change of a core keeps is kept on every core. -/
theorem State.core_setCore_kept {α : Type} (g : Core → α) (f : Core → Core) (h : ∀ x, g (f x) = g x) (c : Nat) :
    g ((s.setCore core f).core c) = g (s.core c) := by
  have hmap := congrArg (fun l => l.getD c (g {})) (map_modify_same g f h s.cores core)
  simpa [State.core, State.setCore, List.getD_eq_getElem?_getD, Option.getD_map] using hmap

/-- Whether a core is in service depends on its domain, its fence and its test alone. -/
theorem State.inService_setCore (f : Core → Core) (h : ∀ x, (f x).domain = x.domain ∧ (f x).fenced = x.fenced ∧ (f x).test = x.test) (c : Nat) :
    (s.setCore core f).inService c = s.inService c := by
  unfold State.inService
  rw [s.core_setCore_kept Core.domain f (fun x => (h x).1), s.core_setCore_kept Core.fenced f (fun x => (h x).2.1),
    s.core_setCore_kept Core.test f (fun x => (h x).2.2)]
  rfl

/-- A free core in service takes the next task of its order. -/
theorem State.fill_core (hl : core < s.cores.length) (hfree : (s.core core).running = none) (hs : s.inService core = true)
    (hn : (s.core core).next = some t) (hk : s.task t = some k) :
    (s.fill core).core core = { s.core core with running := some t
                                                 readyLc := (s.core core).readyLc.filter fun x => !(x == t)
                                                 readyBe := (s.core core).readyBe.filter fun x => !(x == t)
                                                 sliceOver := false
                                                 idle := 0 } := by
  unfold State.fill
  simp only [hfree, hs, hn, Option.isSome_none, Bool.not_true, Bool.or_self, Bool.false_eq_true, if_false]
  refine (State.run_core (s.setCore core _) hk (by simpa using hl)).trans ?_
  rw [State.core_setCore _ _ _ hl]
  simp [List.filter_filter]

/-! ## PREEMPT -/

@[simp] theorem State.applyMargins_job (j : Nat) : (s.applyMargins core).job j = s.job j := rfl

@[simp] theorem State.applyMargins_task : (s.applyMargins core).task t = s.task t := rfl

theorem State.applyMargins_core (hl : core < s.cores.length) :
    (s.applyMargins core).core core = { s.core core with liveMargins := ((s.core core).delay, (s.core core).volt) } :=
  s.core_setCore _ _ hl

theorem State.unrun_running (hr : (s.core core).running = some t) :
    s.unrun core = (s.setCore core fun c => { c with running := none, sliceOver := false }).saveChans t := by
  simp [State.unrun, hr]

/-- Off a preemption point, or on a core out of service, nothing happens. -/
theorem doPreempt_refused (us : Nat) (h : s.inService core = false ∨ s.atGap core = false) : doPreempt core us s = s := by
  rcases h with h | h <;> simp [doPreempt, h]

theorem State.saveChans_task : (s.saveChans t).task t' = s.task t' := by
  rw [State.saveChans, State.task_setJob]
  exact fun _ => rfl

/-- A core whose running best-effort task has given it up inside its slice: the task stands first in the best-effort order. -/
def State.yielded (s : State) (core : Nat) (t : TaskRef) : State :=
  ((s.applyMargins core).unrun core).setCore core fun c => { c with readyBe := t :: c.readyBe }

theorem State.yielded_eq (hl : core < s.cores.length) (hr : (s.core core).running = some t) : s.yielded core t =
    (((s.applyMargins core).setCore core fun c => { c with running := none, sliceOver := false }).saveChans t).setCore core
      fun c => { c with readyBe := t :: c.readyBe } := by
  rw [State.yielded, State.unrun_running _ (t := t) (by rw [s.applyMargins_core hl, hr])]

theorem State.yielded_core (hl : core < s.cores.length) (hr : (s.core core).running = some t) : (s.yielded core t).core core =
    { s.core core with running := none
                       sliceOver := false
                       liveMargins := ((s.core core).delay, (s.core core).volt)
                       readyBe := t :: (s.core core).readyBe } := by
  rw [s.yielded_eq hl hr, State.core_setCore _ _ _ (by simpa [State.applyMargins] using hl), State.core_of_cores (State.saveChans_cores _ t),
    State.core_setCore _ _ _ (by simpa [State.applyMargins] using hl), s.applyMargins_core hl]

theorem State.yielded_inService (hl : core < s.cores.length) (hr : (s.core core).running = some t) (c : Nat) :
    (s.yielded core t).inService c = s.inService c := by
  have hsave (u : State) : (u.saveChans t).inService c = u.inService c := rfl
  simp [s.yielded_eq hl hr, State.applyMargins, hsave, State.inService_setCore]

theorem State.yielded_task (hl : core < s.cores.length) (hr : (s.core core).running = some t) : (s.yielded core t).task t' = s.task t' := by
  rw [s.yielded_eq hl hr]
  exact ((s.applyMargins core).setCore core _).saveChans_task

theorem State.yielded_mem (hl : core < s.cores.length) (hr : (s.core core).running = some t) : (s.yielded core t).mem = s.mem := by
  rw [s.yielded_eq hl hr]
  rfl

section AtGap

variable (us : Nat) (hl : core < s.cores.length) (hs : s.inService core = true) (hg : s.atGap core = true)
  (hr : (s.core core).running = some t) (hk : s.task t = some k) (hb : k.block = none) (hlive : (s.job t.job).live = true)

include hl hs hg hr hk hb hlive

/-- A latency-critical task keeps its core, as does a best-effort one inside its slice with nothing latency-critical waiting. -/
theorem doPreempt_keeps (h : (s.job t.job).bestEffort = false ∨ (s.core core).readyLc = [] ∧ (s.core core).sliceOver = false) :
    doPreempt core us s = (s.applyMargins core).setCore core fun c => { c with sliceOver := false } := by
  rcases h with h | ⟨hnone, hslice⟩
  · simp [doPreempt, hs, hg, s.applyMargins_core hl, hr, hk, hb, hlive, h]
  · simp [doPreempt, hs, hg, s.applyMargins_core hl, hr, hk, hb, hlive, hnone, hslice]

/-- A best-effort task inside its slice yields to a waiting latency-critical one and stands first in its own order. -/
theorem doPreempt_yields (hbe : (s.job t.job).bestEffort = true) (hslice : (s.core core).sliceOver = false)
    (hhead : (s.core core).readyLc.head? = some t') : doPreempt core us s = (s.yielded core t).fill core := by
  have hne : (s.core core).readyLc ≠ [] := by
    intro h
    simp [h] at hhead
  simp [doPreempt, hs, hg, s.applyMargins_core hl, hr, hk, hb, hlive, hbe, hslice, hne, State.yielded]

end AtGap

/-- The core that has yielded takes the latency-critical task, which then stands in no order of it. -/
theorem State.yielded_fill_core (hl : core < s.cores.length) (hs : s.inService core = true) (hr : (s.core core).running = some t)
    (hhead : (s.core core).readyLc.head? = some t') (hk' : s.task t' = some k') (hne : t' ≠ t) :
    (((s.yielded core t).fill core).core core).running = some t' ∧
      (((s.yielded core t).fill core).core core).readyLc = (s.core core).readyLc.filter (fun x => !(x == t')) ∧
      (((s.yielded core t).fill core).core core).readyBe = t :: (s.core core).readyBe.filter (fun x => !(x == t')) := by
  have hcore := s.yielded_core hl hr
  have hlen : core < (s.yielded core t).cores.length := by
    rw [s.yielded_eq hl hr]
    simpa [State.applyMargins] using hl
  have hnext : ((s.yielded core t).core core).next = some t' := by simp [Core.next, hcore, hhead]
  rw [State.fill_core _ hlen (by rw [hcore]) ((s.yielded_inService hl hr core).trans hs) hnext ((s.yielded_task hl hr).trans hk'), hcore]
  simp [hne.symm]

end Sys2Proof.Machine

open Sys2Proof Sys2Proof.Machine

/-- Settles O18: the first three rows change one order, one core or one task; PREEMPT leaves the task where it is or fills the core again. -/
theorem schedulingEventsMoveTasks : Obligations.SchedulingEventsMoveTasks := by
  intro s core t k hk hl
  refine ⟨fun hr hn => ?joins, fun h => ?stays, fun hr hb => ?slice, fun hr => ?overrun, fun us h => ?refused,
    fun us hs hg hr hb hlive => ⟨fun h => ?keeps, fun t' k' hbe hslice hhead hk' hne => ?yields⟩⟩
  case joins => exact congrArg s.become (s.enqueue_joins hk hr hn)
  case stays => exact s.become_of_eq (s.enqueue_stays hk h)
  case slice => exact congrArg s.become (doSliceEnd_bestEffort s hr hb)
  case overrun => exact congrArg s.become (doSectionOverrun_running s hr)
  case refused => exact s.become_of_eq (doPreempt_refused s us h)
  case keeps => exact congrArg s.become (doPreempt_keeps s us hl hs hg hr hk hb hlive h)
  case yields =>
    obtain ⟨hrun, hlc, hbest⟩ := s.yielded_fill_core hl hs hr hhead hk' hne
    obtain ⟨-, -, -, hmem, -⟩ := State.fill_outerAs (s.yielded core t) core
    exact ⟨_, congrArg s.become (doPreempt_yields s us hl hs hg hr hk hb hlive hbe hslice hhead), hrun, hlc, hbest,
      hmem.trans (s.yielded_mem hl hr)⟩

end

section
/-! SUPPORT. CONTROLLER_WAIT on an event line (R99, R100): the task takes its pulses or joins the end of the line's order. -/

namespace Sys2Proof.Machine

variable (s : State) {t : TaskRef} {k : Task} {line l count : Nat}

/-- A task that waits on a line. -/
def Task.blockedOn (d l : Nat) (x : Task) : Task := { x with block := some (.line d l) }

/-- The head of a line's order that needs more pulses than the line has. -/
theorem head_above_of_any {o : Option Waiter} {n : Nat} (h : (o.any fun w => decide (n < w.count)) = true) : ∀ w ∈ o, n < w.count := by
  cases o with
  | none => simp
  | some w => simpa using h

section Joins

variable (hc : s.canIssue t = true) (hk : s.task t = some k) (h0 : 0 < count) (hline : (s.job t.job).line (dieOf k.home) line = some l)
  (hd : dieOf k.home < s.dies.length) (hl : l < (s.die (dieOf k.home)).lines.length)

include hc hk h0 hline

/-- A wait of at least one pulse blocks its task on the line and joins the line. -/
theorem doControllerWait_joins : doControllerWait t line count s =
    (s.did t (Task.blockedOn (dieOf k.home) l)).joinLine (dieOf k.home) l count (.task t) := by
  have hj : ((s.did t id).job t.job).line (dieOf k.home) line = some l := by
    rw [State.did, s.job_setTask hk]
    exact hline
  simp only [doControllerWait, s.issue_eq hc hk, Nat.ne_of_gt h0, if_false, hj]
  exact congrArg (fun u => u.joinLine (dieOf k.home) l count (.task t)) (s.did_setTask t id (Task.blockedOn (dieOf k.home) l))

include hd hl

theorem doControllerWait_served (hw : ((s.die (dieOf k.home)).lines.getD l {}).waiters = [])
    (hn : count ≤ ((s.die (dieOf k.home)).lines.getD l {}).count) : doControllerWait t line count s =
      ((s.did t (Task.blockedOn (dieOf k.home) l)).setDie (dieOf k.home) fun x => { x with
        lines := x.lines.set l { count := ((s.die (dieOf k.home)).lines.getD l {}).count - count, waiters := [] } }).served (.task t) := by
  rw [doControllerWait_joins s hc hk h0 hline]
  exact State.joinLine_served _ _ hd hl hw hn

theorem doControllerWait_blocks (hw : ∀ w ∈ (((s.die (dieOf k.home)).lines.getD l {}).waiters ++ [({ agent := .task t, count := count } : Waiter)]).head?,
      ((s.die (dieOf k.home)).lines.getD l {}).count < w.count) : doControllerWait t line count s =
      (s.did t (Task.blockedOn (dieOf k.home) l)).setDie (dieOf k.home) fun x => { x with
        lines := x.lines.set l { (s.die (dieOf k.home)).lines.getD l {} with
          waiters := ((s.die (dieOf k.home)).lines.getD l {}).waiters ++ [{ agent := .task t, count := count }] } } := by
  rw [doControllerWait_joins s hc hk h0 hline]
  exact State.joinLine_waits _ _ hd hl hw

end Joins

end Sys2Proof.Machine

open Sys2Proof Sys2Proof.Machine

/-- Settles O16: a wait joins its line, where the head is served at once or nobody is. -/
theorem controllerWaitTakesItsPulsesInOrder : Obligations.ControllerWaitTakesItsPulsesInOrder := by
  intro s t k line l count hc hk h0 hline hd hl
  refine ⟨fun hw hn => ?served, fun hw => ?blocks⟩
  case served =>
    exact ⟨_, congrArg s.become (doControllerWait_served s hc hk h0 hline hd hl hw hn),
      State.task_setTask _ (s.task_did hk (Task.blockedOn (dieOf k.home) l)) fun x => { x with block := none }, State.lineAfter _ hd hl _, rfl⟩
  case blocks =>
    exact ⟨_, congrArg s.become (doControllerWait_blocks s hc hk h0 hline hd hl (head_above_of_any hw)),
      s.task_did hk (Task.blockedOn (dieOf k.home) l), State.lineAfter _ hd hl _, rfl⟩

end

section
/-! SUPPORT. The channel registers of the core controller: CHGO, CHSTAT and CHCLR (R108 to R110, R341, R430). -/

namespace Sys2Proof.Machine

variable (s : State) {t : TaskRef} {k : Task} {c c' : Chan} {v : U64}

/-! ## Actions of CH_GO -/

theorem Chan.go_reserved {n : Nat} (h : bitOf n 10 = true) : c.go n = none := by
  simp [Chan.go, h]

theorem Chan.go_start {n : Nat} (ha : goAction n = 0) : c.go n = if bitOf n 10 = false ∧ c.state = 0 then
    some { c.taken n with state := 1, pc := goProg n, loops := [], issued := false, remote := [], wrote := false } else none := by
  cases h : bitOf n 10 <;> simp [Chan.go, h, ha]

theorem Chan.go_retry {n : Nat} (ha : goAction n = 1) : c.go n = if bitOf n 10 = false ∧ c.state = 3 then
    some { c.taken n with state := 1, issued := false, remote := [], wrote := false } else none := by
  cases h : bitOf n 10 <;> simp [Chan.go, h, ha]

theorem Chan.go_next {n : Nat} (ha : goAction n = 2) : c.go n = if bitOf n 10 = false ∧ c.state = 3 then
    some { (c.taken n).advance with state := 1 } else none := by
  cases h : bitOf n 10 <;> simp [Chan.go, h, ha]

theorem Chan.go_abort {n : Nat} (ha : goAction n = 3) : c.go n = if bitOf n 10 = false ∧ c.state = 3 then
    some { c.taken n with state := 0, loops := [], issued := false, remote := [], wrote := false } else none := by
  cases h : bitOf n 10 <;> simp [Chan.go, h, ha]

/-! ## Rows of a task that issues -/

/-- An issue leaves the channels of its job. -/
theorem State.chan_did (hk : s.task t = some k) (f : Task → Task) {r : ChanRef} (hr : r.job = t.job) : (s.did t f).chan r = s.chan r := by
  simp only [State.chan, hr, State.did, s.job_setTask hk]

/-- An issue leaves the source domain of a channel's log entries. -/
theorem State.chanDomain_did (hk : s.task t = some k) : ((s.did t id).job t.job).chanDomain c = (s.job t.job).chanDomain c := by
  rw [State.did, s.job_setTask hk]
  unfold Job.chanDomain
  simp only [List.getElem?_modify]
  cases (s.job t.job).tasks[c.owner]? <;> by_cases h : t.task = c.owner <;> simp [h]

section Issued

variable (hc : s.canIssue t = true) (hk : s.task t = some k) (die : Bool) (num : Nat)

include hc hk

/-- CHGO with the action of its row sets the channel when the action matches its state, and logs the mismatch otherwise. -/
theorem become_doChgo {a : Nat} {p : Prop} [Decidable p] (ha : goAction v.toNat = a) (hr : s.chan (k.chanRef t die num) = some c)
    (hg : c.go v.toNat = if p then some c' else none) : s.become (doChgo t die num v a s) =
      .next (if p then (s.did t id).setChan (k.chanRef t die num) fun _ => c'
        else (s.did t id).log 0x0104 2 ((s.job t.job).chanDomain c) t.job c.phys v.toNat 0) := by
  have hr' : (s.did t id).chan (k.chanRef t die num) = some c := (s.chan_did hk id rfl).trans hr
  by_cases hp : p <;>
    simp only [doChgo, s.issue_eq hc hk, ha, ne_eq, not_true_eq_false, if_false, hr', hg, hp, if_true, s.chanDomain_did hk] <;> rfl

theorem become_doChstat (hr : s.chan (k.chanRef t die num) = some c) : s.become (doChstat t die num s) =
    .next (s.did t fun x => { x with scalar := BitVec.ofNat 64 c.status, scalar2 := BitVec.ofNat 64 c.pcReg }) := by
  have hr' : (s.did t id).chan (k.chanRef t die num) = some c := (s.chan_did hk id rfl).trans hr
  simp only [doChstat, s.issue_eq hc hk, hr', s.did_setTask]
  rfl

theorem become_doChclr : s.become (doChclr t die num v s) =
    .next ((s.did t id).setChan (k.chanRef t die num) fun x => x.clear v.toNat) := by
  simp only [doChclr, s.issue_eq hc hk]
  rfl

end Issued

end Sys2Proof.Machine

open Sys2Proof Sys2Proof.Machine

/-- Settles O17: each row is an issue followed by the channel's own answer to the action of its row. -/
theorem channelCommandsFollowTheStateOfTheChannel : Obligations.ChannelCommandsFollowTheStateOfTheChannel := by
  intro s t k die num v c hc hk r x mismatch hr
  exact ⟨fun ha => become_doChgo s hc hk die num ha hr (Chan.go_start ha), fun ha => become_doChgo s hc hk die num ha hr (Chan.go_retry ha),
    fun ha => become_doChgo s hc hk die num ha hr (Chan.go_next ha), fun ha => become_doChgo s hc hk die num ha hr (Chan.go_abort ha),
    become_doChstat s hc hk die num hr, become_doChclr s hc hk die num⟩

end

section
/-! SUPPORT. Answers of the adapter (R101, R122, R177, R295, R390). -/

namespace Sys2Proof.Machine

variable (s : State) {id : Nat} {x : FarReq}

/-- The requests to the adapter without those of an identifier. -/
def State.farDone (s : State) (id : Nat) : State := s.setHost fun h => { h with far := h.far.filter fun y => y.id != id }

theorem doAdapterAcknowledgement_unknown (a : AdapterAnswer) (h : (s.host.far.find? fun y => y.id == id) = none) :
    doAdapterAcknowledgement id a s = s := by
  simp [doAdapterAcknowledgement, h]

theorem doAdapterAcknowledgement_wrong {a : AdapterAnswer} (h : (s.host.far.find? fun y => y.id == id) = some x) (ha : answers x a = false) :
    doAdapterAcknowledgement id a s = s := by
  simp [doAdapterAcknowledgement, h, ha]

/-- An acknowledgement of an outstanding write has the effect of its use, when that changes neither what is fused nor the queue. -/
theorem exec_acknowledged {v : State} (h : (s.host.far.find? fun y => y.id == id) = some x) (hx : x.length = 0) (he : (s.farDone id).farAcked x = v)
    (hi : v.ident = s.ident) (hp : v.pending = s.pending) : exec (.adapterAcknowledgement id .ack) s = .next v := by
  have hdo : doAdapterAcknowledgement id .ack s = v := by
    rw [← he]
    simp [doAdapterAcknowledgement, h, answers, hx, State.farDone]
  exact (congrArg s.become hdo).trans (congrArg Host.Outcome.next (s.keep_of_same hi hp))

/-- Data of an outstanding read have the effect of its use, in the same way. -/
theorem exec_data {v : State} {b : Bytes} (h : (s.host.far.find? fun y => y.id == id) = some x) (hx : x.length ≠ 0)
    (he : (s.farDone id).farData x b = v) (hi : v.ident = s.ident) (hp : v.pending = s.pending) :
    exec (.adapterAcknowledgement id (.data b)) s = .next v := by
  have hdo : doAdapterAcknowledgement id (.data b) s = v := by
    rw [← he]
    simp [doAdapterAcknowledgement, h, answers, hx, State.farDone]
  exact (congrArg s.become hdo).trans (congrArg Host.Outcome.next (s.keep_of_same hi hp))

theorem State.farAcked_replyBody {q : Nat} {st : Bytes} (hu : x.use = .replyBody q st) (hq : (s.ring q).quiet = false) :
    s.farAcked x = s.farPut (x.addr - 2) st 0 (.replyStatus q) := by
  simp [State.farAcked, hu, hq]

theorem State.farAcked_replyStatus {q : Nat} {c : Cmd} (hu : x.use = .replyStatus q) (hc : s.repliedCmd q x.addr = some c) :
    s.farAcked x = s.dropCmd c.ref := by
  simp [State.farAcked, hu, State.replyOver, hc]

theorem State.farAcked_recordBody {n : Nat} (hu : x.use = .recordBody n) : s.farAcked x = s.farPut (x.addr - 8) (toLe 8 n) 0 .recordStep := by
  simp [State.farAcked, hu]

theorem State.farAcked_chanWrite {c : ChanRef} (hu : x.use = .chanWrite c) : s.farAcked x = s.setChan c fun y => { y with writes := y.writes - 1 } := by
  simp [State.farAcked, hu]

theorem State.farData_chanRead {c : ChanRef} {a : Nat} (b : Bytes) (hu : x.use = .chanRead c a) : s.farData x b = s.setChan c fun y => { y with
    reads := y.reads - 1, remote := y.remote ++ (sliceZ b 0 x.length).mapIdx fun i v => (a + i, v) } := by
  simp [State.farData, hu]

end Sys2Proof.Machine

open Sys2Proof Sys2Proof.Machine

/-- Settles O24: an answer takes its request off the list, and each use of a request has its own effect. -/
theorem answersOfTheAdapterCompleteRequests : Obligations.AnswersOfTheAdapterCompleteRequests := by
  intro s id x b u
  refine ⟨fun a h => ?unknown, fun w n => ?windows, fun h => ⟨fun hx => ?notAck, fun hx => ?notData,
    fun hx => ⟨fun q st hu hq => ?replyBody, fun q c hu hcmd => ?replyStatus, fun n hu => ?recordBody, fun c hu => ?chanWrite⟩,
    fun hx c a hu => ?chanRead⟩⟩
  case unknown => exact s.become_of_eq (doAdapterAcknowledgement_unknown s a h)
  case windows => rfl
  case notAck => exact s.become_of_eq (doAdapterAcknowledgement_wrong s h (by simp [answers, hx]))
  case notData => exact s.become_of_eq (doAdapterAcknowledgement_wrong s h (by simp [answers, hx]))
  case replyBody => exact exec_acknowledged s h hx (State.farAcked_replyBody _ hu hq) rfl rfl
  case replyStatus => exact exec_acknowledged s h hx (State.farAcked_replyStatus _ hu hcmd) rfl rfl
  case recordBody => exact exec_acknowledged s h hx (State.farAcked_recordBody _ hu) rfl rfl
  case chanWrite => exact exec_acknowledged s h hx (State.farAcked_chanWrite _ hu) rfl rfl
  case chanRead => exact exec_data s h hx (State.farData_chanRead _ b hu) rfl rfl

end

section
/-! SUPPORT. Requests of peers at their target: admission (R201, R202, R249, R356), access (R85, R115, R199) and the answer (R198, R199, R201). -/

namespace Sys2Proof.Machine

variable {s u v : State} {p : Nat} {m : Msg}

/-! ## States that differ in their ports -/

/-- The second state differs from the first in the ports of the fabric only. -/
def State.portsOnly (s u : State) : Prop := ∃ ps : List Port, u = { s with fabric := { s.fabric with ports := ps } }

theorem State.portsOnly_setPort (h : s.portsOnly u) (f : Port → Port) : s.portsOnly (u.setPort p f) := by
  obtain ⟨ps, rfl⟩ := h
  exact ⟨_, rfl⟩

theorem State.portsOnly_takeRx (s : State) (p : Nat) (m : Msg) : s.portsOnly (s.takeRx p m) := by
  unfold State.takeRx
  split
  · exact ⟨_, rfl⟩
  · exact ⟨_, rfl⟩

theorem State.portsOnly_job (h : s.portsOnly u) (j : Nat) : u.job j = s.job j := by
  obtain ⟨ps, rfl⟩ := h
  rfl

theorem State.portsOnly_mem (h : s.portsOnly u) : u.mem = s.mem := by
  obtain ⟨ps, rfl⟩ := h
  rfl

theorem State.portsOnly_inDeviceSet (h : s.portsOnly u) (d : U32) : u.inDeviceSet d = s.inDeviceSet d := by
  obtain ⟨ps, rfl⟩ := h
  rfl

theorem State.portsOnly_leaving (h : s.portsOnly u) : u.fabric.leaving = s.fabric.leaving := by
  obtain ⟨ps, rfl⟩ := h
  rfl

theorem State.portsOnly_plainDev (h : s.portsOnly u) (j : Nat) : u.plainDev j = s.plainDev j := by
  obtain ⟨ps, rfl⟩ := h
  rfl

theorem State.portsOnly_reaches (h : s.portsOnly u) {j a n : Nat} (hr : s.reaches j a n) : u.reaches j a n := by
  obtain ⟨ps, rfl⟩ := h
  exact hr

/-! ## The answer -/

/-- An answer leaves everything but messages to send and its port's table. -/
theorem State.answer_frame (s : State) (p : Nat) (m : Msg) (op reason : Nat) (b : Bytes) (bad : List Nat) :
    (s.answer p m op reason b bad).mem = s.mem ∧ (s.answer p m op reason b bad).jobs = s.jobs ∧
      (s.answer p m op reason b bad).keeper = s.keeper := by
  unfold State.answer
  dsimp only
  split
  · rename_i h
    obtain ⟨hmem, -, hjobs, -, hkeeper, -⟩ := State.sends_fields (State.sends_send _ h)
    exact ⟨hmem, hjobs, hkeeper⟩
  · exact ⟨rfl, rfl, rfl⟩

/-! ## Admission -/

theorem State.admitRequest_ward (h : s.inDeviceSet m.hdr.source = false) : s.admitRequest p m = s.wardDrop p := by
  simp [State.admitRequest, h]

theorem State.admitRequest_stale (h : s.inDeviceSet m.hdr.source = true) (he : m.hdr.membership < (s.job m.hdr.job).memberEpoch) :
    s.admitRequest p m = (s.countStale p).nakTo p m 5 := by
  have ht : (s.job m.hdr.job).turnover m.hdr.membership = .stale := by
    unfold Job.turnover
    rw [if_neg (by omega), if_pos he]
  simp [State.admitRequest, h, ht]

section Now

variable (h : s.inDeviceSet m.hdr.source = true) (he : m.hdr.membership = (s.job m.hdr.job).memberEpoch)

include h he

theorem State.admitRequest_leaving (hl : s.fabric.leaving = true) : s.admitRequest p m = s.nakTo p m 1 := by
  simp [State.admitRequest, h, Job.turnover, he, hl]

theorem State.admitRequest_full (hl : s.fabric.leaving = false) (ha : (s.port p).admits m.hdr.source = false) : s.admitRequest p m =
    ((s.setCount p fun c => { c with busy := sat32 (c.busy + 1) }).setPort p fun x => { x with
      refused := if x.refused.contains m.hdr.source then x.refused else x.refused ++ [m.hdr.source] }).nakTo p m 4 := by
  simp [State.admitRequest, h, Job.turnover, he, hl, ha]

/-- A request that its port admits has its table entry and is looked at. -/
theorem State.admitRequest_takes (hl : s.fabric.leaving = false) (ha : (s.port p).admits m.hdr.source = true) : s.admitRequest p m =
    (s.setPort p fun x => { x with requests := x.requests ++ [(m.hdr.source, m.hdr.tag)], refused := x.refused.erase m.hdr.source }).peerRequest p m := by
  simp [State.admitRequest, h, Job.turnover, he, hl, ha]

end Now

/-! ## An admitted request -/

theorem State.peerRequest_unloaded (h : 64 ≤ m.hdr.job ∨ (s.job m.hdr.job).loaded = false) : s.peerRequest p m = s.answer p m 0x05 2 [] [] := by
  unfold State.peerRequest
  exact if_pos (by simpa using h)

/-- A request of committed work is carried out. -/
theorem State.peerRequest_committed (hj : m.hdr.job < 64) (hl : (s.job m.hdr.job).loaded = true) (hf : m.hdr.flags.toNat % 2 = 0) :
    s.peerRequest p m = s.peerCarry p m false := by
  have hp : hdrProv m.hdr = false := by simp [hdrProv, bitOf, hf]
  have hc : (s.job m.hdr.job).epochCase m.hdr = .committed := by simp [Job.epochCase, hp]
  unfold State.peerRequest
  rw [if_neg (by simp [hl]; omega)]
  simp only [hc]

theorem State.peerCarry_write_nothing (ho : m.hdr.opcode = 0x01) (h : m.content = []) : s.peerCarry p m false = s.answer p m 0x04 0 [] [] := by
  simp [State.peerCarry, ho, h]

theorem State.peerCarry_read_nothing (ho : m.hdr.opcode = 0x02) (h : m.hdr.length = 0) : s.peerCarry p m false = s.answer p m 0x03 0 [] [] := by
  simp [State.peerCarry, ho, h]

/-- A WRITE to plain HBM that the job reaches lays its content and is answered. -/
theorem State.peerCarry_write (ho : m.hdr.opcode = 0x01) (hp : s.plainDev m.hdr.job = true) (hm : cellsWf s.mem.cells = true) (hc : m.content ≠ [])
    (hb : m.bad = []) (hr : s.reaches m.hdr.job m.hdr.address.toNat m.content.length) : ∃ cells,
      s.peerCarry p m false = (s.withCells cells).answer p m 0x04 0 [] [] ∧ s.laid (s.withCells cells) m.hdr.address.toNat m.content := by
  obtain ⟨cells, hw, -, hg⟩ := s.funnel_dmaWrite (s.plainRead_of_dev hp) hm _ _ m.content (Nat.le_refl _) hr (s.offTable_of_dev hp _ _)
  refine ⟨cells, ?_, hg⟩
  simp [State.peerCarry, ho, hc, s.peerFault_plain _ _ _ (Nat.le_refl _) hr, hw, State.landBad, hb]

/-- A READ of plain HBM that the job reaches is answered with the bytes of memory. -/
theorem State.peerCarry_read (ho : m.hdr.opcode = 0x02) (hp : s.plainDev m.hdr.job = true) (hn : m.hdr.length ≠ 0)
    (hr : s.reaches m.hdr.job m.hdr.address.toNat m.hdr.length) :
      s.peerCarry p m false = s.answer p m 0x03 0 (s.mem.read m.hdr.address.toNat m.hdr.length) [] := by
  simp [State.peerCarry, ho, hn, s.peerFault_plain _ _ _ (Nat.le_refl _) hr, s.peerRead_plain hp _ _ _ _ _ (Nat.le_refl _) hr]

/-! ## The rows -/

theorem exec_write_elsewhere (h : s.arrived p m 0x01 = false) : exec (.write p m) s = .next s :=
  s.become_of_eq (by simp [doWrite, h])

theorem exec_read_elsewhere (h : s.arrived p m 0x02 = false) : exec (.read p m) s = .next s :=
  s.become_of_eq (by simp [doRead, h])

/-- A WRITE or READ that has arrived is taken from its port and admitted or not. -/
theorem exec_request_arrived {i : Instr} (h : (i = .write p m ∧ s.arrived p m 0x01 = true) ∨ (i = .read p m ∧ s.arrived p m 0x02 = true)) :
    exec i s = .next (s.keep ((s.takeRx p m).admitRequest p m)) := by
  rcases h with ⟨rfl, h⟩ | ⟨rfl, h⟩
  · exact congrArg s.become (by simp [doWrite, h])
  · exact congrArg s.become (by simp [doRead, h])

theorem State.arrived_opcode {n : Nat} (hn : n < 256) (h : s.arrived p m n = true) : m.hdr.opcode = BitVec.ofNat 8 n := by
  simp only [State.arrived, Bool.and_eq_true, beq_iff_eq] at h
  obtain ⟨⟨-, ho⟩, -⟩ := h
  exact BitVec.eq_of_toNat_eq (by rw [ho, BitVec.toNat_ofNat, Nat.mod_eq_of_lt hn])

end Sys2Proof.Machine

open Sys2Proof Sys2Proof.Machine

/-- Settles O42: admission turns a request away or enters it in its port's table, and an entered one is answered from memory. -/
theorem peerRequestsAreAdmittedAndAnswered : Obligations.PeerRequestsAreAdmittedAndAnswered := by
  intro s p m j a u v
  have hu : s.portsOnly u := s.portsOnly_takeRx p m
  have hv : s.portsOnly v := State.portsOnly_setPort hu _
  refine ⟨fun w op reason b bad => w.answer_frame p m op reason b bad, exec_write_elsewhere, exec_read_elsewhere, fun i hi => ?_⟩
  have hexec : ∀ {w : State}, u.admitRequest p m = w → exec i s = .next (s.keep w) :=
    fun h => (exec_request_arrived hi).trans (congrArg s.become h)
  have hset : ∀ {x : Bool}, s.inDeviceSet m.hdr.source = x → u.inDeviceSet m.hdr.source = x := (State.portsOnly_inDeviceSet hu _).trans
  have hjob : u.job m.hdr.job = s.job j := State.portsOnly_job hu j
  refine ⟨fun hd => hexec (State.admitRequest_ward (hset hd)), fun hd he => hexec (State.admitRequest_stale (hset hd) (hjob ▸ he)),
    fun hd he => ⟨fun hl => ?leaving, fun hl ha => ?full, fun hl ha => ?taken⟩⟩
  all_goals have he' : m.hdr.membership = (u.job m.hdr.job).memberEpoch := hjob ▸ he
  all_goals have hl' := (State.portsOnly_leaving hu).trans hl
  case leaving => exact hexec (State.admitRequest_leaving (hset hd) he' hl')
  case full => exact hexec (State.admitRequest_full (hset hd) he' hl' ha)
  case taken =>
    have htaken : ∀ {w : State}, v.peerRequest p m = w → exec i s = .next (s.keep w) :=
      fun h => hexec ((State.admitRequest_takes (hset hd) he' hl' ha).trans h)
    have hvjob : v.job m.hdr.job = s.job j := State.portsOnly_job hv j
    refine ⟨fun h => htaken (State.peerRequest_unloaded (hvjob.symm ▸ h)), fun hj hload hf => ?_⟩
    have hcarry : ∀ {w : State}, v.peerCarry p m false = w → exec i s = .next (s.keep w) :=
      fun h => htaken ((State.peerRequest_committed hj (hvjob.symm ▸ hload) hf).trans h)
    have hwrite : i = .write p m → m.hdr.opcode = 0x01 := by
      rintro rfl
      rcases hi with ⟨-, h⟩ | ⟨h, -⟩
      · exact State.arrived_opcode (by decide) h
      · cases h
    have hread : i = .read p m → m.hdr.opcode = 0x02 := by
      rintro rfl
      rcases hi with ⟨h, -⟩ | ⟨-, h⟩
      · cases h
      · exact State.arrived_opcode (by decide) h
    refine ⟨fun h hc => hcarry (State.peerCarry_write_nothing (hwrite h) hc), fun h hn => hcarry (State.peerCarry_read_nothing (hread h) hn),
      fun hp hm => ⟨fun h hc hb hr => ?_, fun h hn hr => ?_⟩⟩
    · obtain ⟨cells, h1, h2⟩ := State.peerCarry_write (p := p) (hwrite h) ((State.portsOnly_plainDev hv j).trans hp)
        ((State.portsOnly_mem hv).symm ▸ hm) hc hb (State.portsOnly_reaches hv hr)
      exact ⟨cells, hcarry h1, fun key => (h2 key).trans (by rw [State.portsOnly_mem hv])⟩
    · rw [← State.portsOnly_mem hv]
      exact hcarry (State.peerCarry_read (hread h) ((State.portsOnly_plainDev hv j).trans hp) hn (State.portsOnly_reaches hv hr))

end

section
/-! SUPPORT. How the transactions of this module end: READ_DATA, WRITE_ACK, NAK, BUSY_RESEND and TRANSPORT_TIMEOUT (R101, R103, R104, R199 to
R201, R242, R250, R325). -/

namespace Sys2Proof.Machine

variable {s u : State} {p : Nat} {m : Msg} {t : Txn}

/-! ## A response -/

theorem State.txnOf_takeRx (s : State) (p : Nat) (m : Msg) : (s.takeRx p m).fabric.txnOf p m.hdr = s.fabric.txnOf p m.hdr := by
  obtain ⟨ps, hps⟩ := s.portsOnly_takeRx p m
  rw [hps]
  rfl

section Response

variable {op : Nat} {act : Txn → State → State}

theorem State.response_elsewhere (h : s.arrived p m op = false) : s.response p m op act = s := by
  simp [State.response, h]

variable (h : s.arrived p m op = true)

include h

theorem State.response_ward (hd : s.inDeviceSet m.hdr.source = false) : s.response p m op act = (s.takeRx p m).wardDrop p := by
  simp [State.response, h, State.portsOnly_inDeviceSet (s.portsOnly_takeRx p m), hd]

theorem State.response_unknown (hd : s.inDeviceSet m.hdr.source = true) (ht : s.fabric.txnOf p m.hdr = none) :
    s.response p m op act = (s.takeRx p m).protocolError p m.hdr.job m.hdr := by
  simp [State.response, h, State.portsOnly_inDeviceSet (s.portsOnly_takeRx p m), hd, State.txnOf_takeRx, ht]

theorem State.response_known (hd : s.inDeviceSet m.hdr.source = true) (ht : s.fabric.txnOf p m.hdr = some t) :
    s.response p m op act = act t (s.takeRx p m) := by
  simp [State.response, h, State.portsOnly_inDeviceSet (s.portsOnly_takeRx p m), hd, State.txnOf_takeRx, ht]

end Response

/-- The three rows of responses are one operation with the end that the row gives the transaction. -/
theorem exec_response {i : Instr} {op : Nat} (h : (i = .readData p m ∧ op = 0x03) ∨ (i = .writeAck p m ∧ op = 0x04) ∨ (i = .nak p m ∧ op = 0x05)) :
    ∃ act, exec i s = .next (s.keep (s.response p m op act)) := by
  rcases h with ⟨rfl, rfl⟩ | ⟨rfl, rfl⟩ | ⟨rfl, rfl⟩ <;> exact ⟨_, rfl⟩

/-! ## Failures of a transaction -/

/-- Without SKIP an error halts the channel. -/
theorem State.moveFail_halts {r : ChanRef} {c : Chan} (hc : s.chan r = some c) (hs : c.skip = false) (cause : Nat) (dir : Bool) (addr : Nat) :
    s.moveFail r cause dir addr = s.haltChan r cause dir addr := by
  simp [State.moveFail, hc, hs]

theorem State.txnFail_chan {c : ChanRef} {x : Chan} (hu : t.use = .chan c) (hc : s.chan c = some x) (hs : x.skip = false) (cause : Nat) :
    s.txnFail t cause = (s.dropTxn t).haltChan c cause t.isWrite t.window := by
  simp only [State.txnFail, hu]
  exact State.moveFail_halts (s := s.dropTxn t) hc hs _ _ _

theorem State.txnFail_dropped (hu : t.use = .dropped) (cause : Nat) : s.txnFail t cause = s.dropTxn t := by
  simp only [State.txnFail, hu]
  rfl

/-! ## Rows that end a transaction -/

section Known

variable (hd : s.inDeviceSet m.hdr.source = true) (ht : s.fabric.txnOf p m.hdr = some t)

include hd ht

section ReadData

variable (ha : s.arrived p m 0x03 = true) (hw : t.isWrite = false) (hb : m.bad = [])

include ha hw hb

theorem doReadData_chan {c : ChanRef} (hu : t.use = .chan c) : doReadData p m s = ((s.takeRx p m).dropTxn t).setChan c fun x => { x with
    reads := x.reads - 1, remote := x.remote ++ (m.content.take t.length).mapIdx fun i b => (t.window + i, b) } := by
  simp [doReadData, State.response_known ha hd ht, hw, hb, hu]

theorem doReadData_dropped (hu : t.use = .dropped) : doReadData p m s = (s.takeRx p m).dropTxn t := by
  simp [doReadData, State.response_known ha hd ht, hw, hb, hu]

end ReadData

theorem doWriteAck_chan (ha : s.arrived p m 0x04 = true) (hw : t.isWrite = true) {c : ChanRef} (hu : t.use = .chan c) :
    doWriteAck p m s = ((s.takeRx p m).dropTxn t).setChan c fun x => { x with writes := x.writes - 1 } := by
  simp [doWriteAck, State.response_known ha hd ht, hw, hu]

theorem doWriteAck_dropped (ha : s.arrived p m 0x04 = true) (hw : t.isWrite = true) (hu : t.use = .dropped) :
    doWriteAck p m s = (s.takeRx p m).dropTxn t := by
  simp [doWriteAck, State.response_known ha hd ht, hw, hu]

section Nak

variable (ha : s.arrived p m 0x05 = true)

include ha

theorem doNak_busy (hr : m.hdr.reason = 4) : doNak p m s = (s.takeRx p m).setFabric fun f => { f with
    txns := f.txns.map fun (x : Txn) => if x.port = t.port ∧ x.tag = t.tag then { x with busy := true } else x } := by
  simp [doNak, State.response_known ha hd ht, hr]

theorem doNak_fails (h4 : m.hdr.reason ≠ 4) (h5 : m.hdr.reason ≠ 5) : doNak p m s = (s.takeRx p m).txnFail t (nakCause m.hdr.reason) := by
  simp [doNak, State.response_known ha hd ht, h4, h5]

theorem doNak_stale (hr : m.hdr.reason = 5) :
    doNak p m s = ((s.takeRx p m).txnFail t (nakCause m.hdr.reason)).evicted t.request.hdr.job := by
  simp [doNak, State.response_known ha hd ht, hr]

end Nak

end Known

/-! ## BUSY_RESEND and TRANSPORT_TIMEOUT -/

/-- The mark of a refused transaction taken off. -/
def State.unmarked (s : State) (p tag : Nat) : State := s.setFabric fun f => { f with
  txns := f.txns.map fun (x : Txn) => if x.port = p ∧ x.tag = tag then { x with busy := false } else x }

theorem State.sends_txns (h : s.sends u) : u.fabric.txns = s.fabric.txns := by
  obtain ⟨⟨ps, rfl, -⟩, -⟩ := h
  rfl

section Resend

variable {tag : Nat} (h : (s.fabric.txns.find? fun t => t.port == p && t.tag == tag && t.busy) = some t)

include h

theorem doBusyResend_sent {q : Nat} {w : State} (hs : (s.unmarked p tag).send (s.job t.request.hdr.job).msgClass t.request = some (q, w)) :
    doBusyResend p tag s = w := by
  unfold State.unmarked at hs
  simp only [doBusyResend, h, hs]

theorem doBusyResend_unsent (hs : (s.unmarked p tag).send (s.job t.request.hdr.job).msgClass t.request = none) : doBusyResend p tag s = s := by
  unfold State.unmarked at hs
  simp only [doBusyResend, h, hs]

end Resend

/-- A transaction found by its port and tag has them. -/
theorem txn_of_find {l : List Txn} {tag : Nat} (h : (l.find? fun t => t.port == p && t.tag == tag) = some t) : t.port = p ∧ t.tag = tag := by
  simpa using List.find?_some h

theorem doTransportTimeout_eq {tag : Nat} (h : (s.fabric.txns.find? fun t => t.port == p && t.tag == tag) = some t) :
    doTransportTimeout p tag s = (s.txnFail t 5).suspectAll t.dest 7 := by
  simp only [doTransportTimeout, h]

/-- Notices leave transactions, memory, the keeper, and tasks and channels of every job. -/
theorem State.calm_frame (h : u.calm = s.calm) : u.fabric.txns = s.fabric.txns ∧ u.mem = s.mem ∧ u.keeper = s.keeper ∧
    ∀ j, (u.job j).tasks = (s.job j).tasks ∧ (u.job j).chans = (s.job j).chans := by
  obtain ⟨hkeeper, -, -, hmem, -⟩ := State.calm_congr h
  have htxns : u.calm.fabric.txns = s.calm.fabric.txns := by rw [h]
  have htasks : ∀ j, (u.job j).alone.tasks = (s.job j).alone.tasks := fun j => by rw [State.calm_job h j]
  have hchans : ∀ j, (u.job j).alone.chans = (s.job j).alone.chans := fun j => by rw [State.calm_job h j]
  exact ⟨htxns, hmem, hkeeper, fun j => ⟨htasks j, hchans j⟩⟩

/-- Without a channel that waits, a timeout takes the transaction off and sends notices. -/
theorem doTransportTimeout_dropped {tag : Nat} (h : (s.fabric.txns.find? fun t => t.port == p && t.tag == tag) = some t) (hu : t.use = .dropped) :
    ∃ w, doTransportTimeout p tag s = w ∧ w.calm = (s.dropTxn t).calm :=
  ⟨_, rfl, by rw [doTransportTimeout_eq h, State.txnFail_dropped hu, State.calm_suspectAll]⟩

end Sys2Proof.Machine

open Sys2Proof Sys2Proof.Machine

/-- Settles O43: a response finds the transaction of its tag and ends that one; a transaction that nothing answers ends as one refused. -/
theorem responsesEndTransactionsOnce : Obligations.ResponsesEndTransactionsOnce := by
  intro s p m u gone
  refine ⟨fun i op hi => ?response, fun t hd ht => ⟨fun ha hw hb => ⟨fun c hc => ?readData, fun hc => ?readDropped⟩,
    fun ha hw => ⟨fun c hc => ?writeAck, fun hc => ?writeDropped⟩,
    fun ha => ⟨fun hr => ?nakBusy, fun h4 h5 => ⟨fun c x hc hx hs => ?nakHalts, fun hc => ?nakDropped⟩, fun hr hc => ?nakStale⟩⟩,
    fun tag h => ?resendNone, fun tag t h => ⟨fun q w hs => ?resent, fun hs => ?unsent⟩,
    fun tag h => ?timeoutNone, fun tag t c x h hc hx hs => ?timeoutHalts, fun tag t h hc => ?timeoutDropped⟩
  case response =>
    obtain ⟨act, hexec⟩ := exec_response (s := s) hi
    rw [hexec]
    exact ⟨fun ha => s.become_of_eq (State.response_elsewhere ha), fun ha hd => congrArg s.become (State.response_ward ha hd),
      fun ha hd ht => congrArg s.become (State.response_unknown ha hd ht)⟩
  case readData => exact congrArg s.become (doReadData_chan hd ht ha hw hb hc)
  case readDropped => exact congrArg s.become (doReadData_dropped hd ht ha hw hb hc)
  case writeAck => exact congrArg s.become (doWriteAck_chan hd ht ha hw hc)
  case writeDropped => exact congrArg s.become (doWriteAck_dropped hd ht ha hw hc)
  case nakBusy => exact congrArg s.become (doNak_busy hd ht ha hr)
  case nakHalts =>
    have hx' : u.chan c = some x := by rw [State.chan, State.portsOnly_job (s.portsOnly_takeRx p m)]; exact hx
    exact congrArg s.become ((doNak_fails hd ht ha h4 h5).trans (State.txnFail_chan hc hx' hs _))
  case nakDropped => exact congrArg s.become ((doNak_fails hd ht ha h4 h5).trans (State.txnFail_dropped hc _))
  case nakStale =>
    exact congrArg s.become ((doNak_stale hd ht ha hr).trans (congrArg (State.evicted · t.request.hdr.job) (State.txnFail_dropped hc _)))
  case resendNone => exact s.become_of_eq (by simp only [doBusyResend, h])
  case resent =>
    have hsends := State.sends_send _ hs
    obtain ⟨-, -, hjobs, -⟩ := State.sends_fields hsends
    exact ⟨congrArg s.become (doBusyResend_sent h hs), State.sends_txns hsends, hjobs⟩
  case unsent => exact s.become_of_eq (doBusyResend_unsent h hs)
  case timeoutNone => exact s.become_of_eq (by simp only [doTransportTimeout, h])
  case timeoutHalts =>
    obtain ⟨rfl, rfl⟩ := txn_of_find h
    exact congrArg s.become ((doTransportTimeout_eq h).trans (congrArg (State.suspectAll · t.dest 7) (State.txnFail_chan hc hx hs 5)))
  case timeoutDropped =>
    obtain ⟨w, hw, hcalm⟩ := doTransportTimeout_dropped h hc
    obtain ⟨rfl, rfl⟩ := txn_of_find h
    exact ⟨_, congrArg s.become hw, State.calm_frame hcalm⟩

end

section
/-! SUPPORT. HBM_SCRUB (R84, R115, R116): what a pass of the scrubber leaves of the words it reads. -/

namespace Sys2Proof.Machine

variable (s : State) {stack word count : Nat} (found : List (Nat × Bool))

/-- Counting corrected words leaves memory, cores and stacks. -/
theorem State.correctedWords_fields (d : Domain) (n : Nat) : (s.correctedWords d n).mem = s.mem ∧ (s.correctedWords d n).cores = s.cores ∧
    (s.correctedWords d n).hbm = s.hbm := by
  unfold State.correctedWords
  split
  · exact ⟨rfl, rfl, rfl⟩
  · obtain ⟨H, h, -⟩ := State.calm_patina ((s.setHealth fun h => { h with corrected := h.corrected + n }).setKeeper fun k => k.countCorrected d n 0 0) (16 * n)
    obtain ⟨-, -, hcores, hmem, -⟩ := State.calm_congr h
    have hhbm := congrArg State.hbm h
    exact ⟨hmem, hcores, hhbm⟩

theorem doHbmScrub_elsewhere (h : 12 ≤ stack ∨ (s.die (stack / 3)).domain ≠ 0 ∨ s.power.input = false ∨ (s.hbm.getD stack {}).scrub ≠ word ∨
    count = 0 ∨ 2 ^ 33 < word + count) : doHbmScrub stack word count found s = s := by
  unfold doHbmScrub stackWords
  exact if_pos (by simpa using h)

/-- Whether a word lies in the stretch of `count` words from `base`. -/
def inStretch (base count w : Nat) : Bool := decide (base ≤ w) && decide (w < base + count)

theorem inStretch_iff {base w : Nat} : inStretch base count w = true ↔ base ≤ w ∧ w < base + count := by
  simp [inStretch]

/-- The words in error after a pass over a stretch: correctable errors inside it are gone, uncorrectable ones are added. -/
def eccScrubbed (ecc new : List (Nat × Bool)) (base count : Nat) : List (Nat × Bool) := (ecc.filter fun e => e.2 || !inStretch base count e.1) ++ new

theorem mem_eccScrubbed_weak {ecc new : List (Nat × Bool)} {base : Nat} (hnew : ∀ e ∈ new, e.2 = true) {e : Nat × Bool}
    (he : e ∈ eccScrubbed ecc new base count) (hweak : e.2 = false) : e ∈ ecc ∧ ¬ (base ≤ e.1 ∧ e.1 < base + count) := by
  rcases List.mem_append.1 he with h | h
  · rw [← inStretch_iff]
    simpa [hweak] using h
  · rw [hnew e h] at hweak
    cases hweak

theorem mem_eccScrubbed_of_mem {ecc new : List (Nat × Bool)} {base : Nat} {e : Nat × Bool} (he : e ∈ ecc)
    (h : e.2 = true ∨ ¬ (base ≤ e.1 ∧ e.1 < base + count)) : e ∈ eccScrubbed ecc new base count :=
  List.mem_append_left _ (List.mem_filter.2 ⟨he, by rw [← inStretch_iff] at h; simpa using h⟩)

/-- A pass writes correctable words back, adds the uncorrectable words it finds, moves on and counts. -/
theorem doHbmScrub_scrubs (hstack : stack < 12) (hlen : stack < s.hbm.length) (hdie : (s.die (stack / 3)).domain = 0) (hpower : s.power.input = true)
    (hword : (s.hbm.getD stack {}).scrub = word) (hcount : count ≠ 0) (hend : word + count ≤ 2 ^ 33) : ∃ (t : State) (new : List (Nat × Bool)),
    doHbmScrub stack word count found s = t ∧ (∀ e ∈ new, e.2 = true) ∧ t.mem = { s.mem with ecc := eccScrubbed s.mem.ecc new (2 ^ 33 * stack + word) count } ∧
      t.cores = s.cores ∧ (t.hbm.getD stack {}).scrub = (word + count) % 2 ^ 33 := by
  unfold doHbmScrub stackWords
  rw [if_neg (by simp only [hdie, hpower, hword]; simp [hcount]; omega)]
  obtain ⟨hmem, hcores, hhbm⟩ := State.correctedWords_fields _ _ _
  refine ⟨_, _, rfl, fun e he => (List.mem_filter.1 he).2, hmem, hcores, ?_⟩
  rw [hhbm]
  simp [hlen]

end Sys2Proof.Machine
end

section
/-! SUPPORT. Laying stretches of bytes one after another (R85). -/

namespace Sys2Proof.Machine

/-- Stretches laid after a first one are laid on the memory that has it. -/
theorem laidByte_cons {m m' : Cells} {a : Nat} {bs : Bytes} (h : ∀ k, cellGet m' k = if a ≤ k ∧ k < a + bs.length then bs.getD (k - a) 0 else cellGet m k)
    (ws : List (Nat × Bytes)) (key : Nat) : laidByte m ((a, bs) :: ws) key = laidByte m' ws key := by
  unfold laidByte
  rw [List.foldl_cons, h key]

end Sys2Proof.Machine
end

section
/-! SUPPORT. The hinge (R134, R137 to R143): its commands past their checks, and the ends of a copy. -/

namespace Sys2Proof.Machine

variable (s : State) {r : CmdRef} {c : Cmd} {h : Hinge} {j : Nat}

/-! ## A hinge changed -/

theorem State.hinge_setHinge (hj : j < s.jobs.length) (hb : (s.job j).hinge = some h) (f : Hinge → Hinge) :
    ((s.setHinge j f).job j).hinge = some (f h) := by
  rw [State.setHinge, s.job_setJob _ _ hj, hb]
  rfl

/-! ## Checks that pass -/

theorem Cmd.reserved_pass {off n : Nat} (hz : c.p off n = 0) : (c.reserved off n).1 = false := by
  simp [Cmd.reserved, hz]

theorem Job.stateCheck_pass {b : Job} {op : Nat} (hs : jobAccepts b.state op = .yes) : (b.stateCheck op).1 = false := by
  simp [Job.stateCheck, hs]

theorem Job.hingeCheck_pass {b : Job} {fits : Hinge → Bool} (hb : b.hinge = some h) (hs : h.switch = none) (hf : fits h = true) :
    (b.hingeCheck fits).1 = false := by
  simp [Job.hingeCheck, hb, hs, hf]

theorem Cmd.beyond_passes {n : Nat} (hz : ∀ i, n ≤ i → c.params.getD i 0 = 0) : (c.beyond n).1 = false := by
  rw [Cmd.beyond_pass hz]

/-! ## Commands whose checks pass -/

section Commands

variable (hb : (s.job c.job).hinge = some h) (hsw : h.switch = none)

include hb hsw

/-- HINGE_PREPARE of an EMPTY slot builds its generation there. -/
theorem doHingePrepare_builds (hs : jobAccepts (s.job c.job).state 0x0201 = .yes) (hgen : h.maxTag < c.p 0 4) (hkind : c.p 4 1 ≤ 2) (h5 : c.p 5 1 = 0)
    (hsrc : c.p 6 2 ≠ 0 → c.p 4 1 = 1 ∧ c.p 6 2 ≤ 64)
    (hok : s.hingeSourceOk c.job (c.p 4 1) (if c.p 6 2 = 0 then c.job else c.p 6 2 - 1) (c.p 8 8) (c.p 0x10 8) = true)
    (hsize : c.p 0x10 8 ≤ h.slotBytes) (hbeyond : ∀ n, 0x18 ≤ n → c.params.getD n 0 = 0) (hempty : (h.slot h.other).state = 0) :
    doHingePrepare r c s = (s.setHinge c.job fun x => { (x.setSlot x.other { state := 1, generation := c.p 0 4 }) with
      maxTag := c.p 0 4
      copy := some { cmd := r, source := c.p 8 8, length := c.p 0x10 8, kind := c.p 4 1
                     owner := if c.p 6 2 = 0 then c.job else c.p 6 2 - 1 } }).setHost
        fun x => { x with order := x.order.filter fun y => !(y == r) } := by
  unfold doHingePrepare
  refine State.checked_pass _ _ _ _ (firstBad_none ?_)
  simp only [List.forall_mem_cons, hb, Option.map_some, Option.getD_some]
  have hsrc' : (c.p 6 2 != 0 && (c.p 4 1 != 1 || decide (c.p 6 2 > 64))) = false := by
    by_cases h0 : c.p 6 2 = 0
    · simp [h0]
    · obtain ⟨h1, h2⟩ := hsrc h0
      simp [h1, Nat.not_lt.2 h2]
  exact ⟨by simp; omega, by simpa using hkind, Cmd.reserved_pass h5, hsrc', by simp [hok], by simpa using hsize, Cmd.beyond_passes hbeyond,
    Job.stateCheck_pass hs, Job.hingeCheck_pass hb hsw (by simp [hempty]), List.forall_mem_nil _⟩

/-- HINGE_ABANDON of a BUILDING or READY slot ends its copy and empties it. -/
theorem doHingeAbandon_empties (hs : jobAccepts (s.job c.job).state 0x0203 = .yes) (hbeyond : ∀ n, c.params.getD n 0 = 0)
    (hslot : (h.slot h.other).state = 1 ∨ (h.slot h.other).state = 2) : doHingeAbandon r c s =
      ((s.hingeAbort c.job stAborted).setHinge c.job fun h => h.setSlot h.other {}).reply r stOk 0 0 := by
  unfold doHingeAbandon
  refine State.checked_pass _ _ _ _ (firstBad_none ?_)
  simp only [List.forall_mem_cons]
  exact ⟨Cmd.beyond_passes fun i _ => hbeyond i, Job.stateCheck_pass hs, Job.hingeCheck_pass hb hsw (by simpa using hslot), List.forall_mem_nil _⟩

/-- HINGE_SWITCH to the READY generation, every report that is in being ready, goes on when all are in and waits otherwise. -/
theorem doHingeSwitch_passes {reports theirs : List HingeReport} (htheirs : theirs = reports.filter fun x => (s.others c.job).contains x.device)
    (hs : jobAccepts (s.job c.job).state 0x0202 = .yes) (hgen : c.p 0 4 ≠ 0) (h4 : c.p 4 1 ≤ 1) (h5 : c.p 5 3 = 0)
    (hbeyond : ∀ n, 8 ≤ n → c.params.getD n 0 = 0) (hready : (h.slot h.other).state = 2) (hslot : (h.slot h.other).generation = c.p 0 4)
    (hall : ∀ x ∈ theirs, x.ready = true) : doHingeSwitch r reports c s =
      if (s.others c.job).all fun d => theirs.any fun x => x.device == d then
        (s.setHinge c.job fun x => { x with switch := some (c.p 0 4, bitOf (c.p 4 1) 0,
          theirs.foldl (fun n x => max n x.batchStep) (s.job c.job).serving.batchStep + 2, some r) }).toTree c.job 0x0C
          [c.p 0 4, theirs.foldl (fun n x => max n x.batchStep) (s.job c.job).serving.batchStep + 2, if bitOf (c.p 4 1) 0 then 1 else 0] none
      else s.unbegin r := by
  subst htheirs
  unfold doHingeSwitch
  refine State.checked_pass _ _ _ _ (firstBad_none ?_)
  simp only [List.forall_mem_cons]
  exact ⟨by simpa using hgen, by simpa using h4, Cmd.reserved_pass h5, Cmd.beyond_passes hbeyond, Job.stateCheck_pass hs,
    Job.hingeCheck_pass hb hsw (by simp only [hready, hslot, beq_self_eq_true, Bool.true_and]; exact List.all_eq_true.2 hall), List.forall_mem_nil _⟩

end Commands

/-! ## The ends of a copy -/

theorem State.hingeAbort_nothing (st : Nat) (h0 : ((s.job j).hinge.bind fun h => h.copy) = none) : s.hingeAbort j st = s := by
  unfold State.hingeAbort
  cases hb : (s.job j).hinge with
  | none => rfl
  | some h =>
    have hc : h.copy = none := by simpa [hb] using h0
    simp only [hc]

theorem doHingeCopyDone_nothing (image : Bytes) (h0 : ((s.job j).hinge.bind fun h => h.copy) = none) : doHingeCopyDone j image s = s := by
  unfold doHingeCopyDone
  cases hb : (s.job j).hinge with
  | none => rfl
  | some h =>
    have hc : h.copy = none := by simpa [hb] using h0
    simp only [hc]

section Copy

variable {x : HingeCopy} (hb : (s.job j).hinge = some h) (hx : h.copy = some x)

include hb hx

theorem State.hingeAbort_copy (st : Nat) : s.hingeAbort j st = ((s.setHinge j fun y => { (y.setSlot y.other {}) with copy := none }).log 0x0206 3
    devDomain j (h.slot h.other).generation st 0).reply x.cmd st 0 0 := by
  simp only [State.hingeAbort, hb, hx]

theorem doHingeCopyDone_waits (image : Bytes) (hw : s.hingeWaits x = true) : doHingeCopyDone j image s = s := by
  simp only [doHingeCopyDone, hb, hx, hw, if_true]

variable (hw : s.hingeWaits x = false)

include hw

theorem doHingeCopyDone_bad (image : Bytes) (hk : x.kind = 1) (hbad : s.mem.bad x.source x.length = true) :
    doHingeCopyDone j image s = s.hingeAbort j stUncorrectable := by
  simp only [doHingeCopyDone, hb, hx, hw, hk, hbad, and_self, if_true, Bool.false_eq_true, if_false]

/-- The image lies in the slot's regions and the prepare is answered. -/
theorem doHingeCopyDone_fills (image : Bytes) (hbad : ¬ (x.kind = 1 ∧ s.mem.bad x.source x.length = true)) {data whole : Bytes}
    (hdata : data = if x.kind = 1 then s.committedBytes x.owner x.source x.length else sliceZ image 0 x.length)
    (hwhole : whole = sliceZ data 0 h.slotBytes) : doHingeCopyDone j image s =
      ((s.setMem fun m => layRegions ((s.job j).slotRegions h.other) whole m).setHinge j fun y =>
        { (y.setSlot h.other { y.slot h.other with state := 2, fingerprint := fingerprintBytes whole }) with copy := none }).reply x.cmd stOk 0
          (fingerprintBytes whole).toNat := by
  simp only [doHingeCopyDone, hb, hx, hw, hbad, Bool.false_eq_true, if_false, hwhole, hdata]

end Copy

/-! ## The image in the regions of a slot -/

/-- The part of an image that each region of a slot takes. -/
def regionParts : List Grant → Bytes → List (Nat × Bytes)
  | [], _ => []
  | g :: gs, b => (g.addr, b.take (g.decl.blocks * blockBytes)) :: regionParts gs (b.drop (g.decl.blocks * blockBytes))

theorem foldl_regionParts (gs : List Grant) (acc : List (Nat × Bytes)) (b : Bytes) :
    (gs.foldl (fun (acc : List (Nat × Bytes) × Bytes) g =>
      (acc.1 ++ [(g.addr, acc.2.take (g.decl.blocks * blockBytes))], acc.2.drop (g.decl.blocks * blockBytes))) (acc, b)).1 = acc ++ regionParts gs b := by
  induction gs generalizing acc b with
  | nil => simp [regionParts]
  | cons g gs ih => simp [regionParts, ih]

/-- Laying an image over regions lays the part of each region in turn. -/
theorem cellGet_layRegions (gs : List Grant) (b : Bytes) {m : Memory} (hm : cellsWf m.cells = true) (key : Nat) :
    cellGet (layRegions gs b m).cells key = laidByte m.cells (regionParts gs b) key := by
  induction gs generalizing b m with
  | nil => rfl
  | cons g gs ih =>
    rw [regionParts, laidByte_cons (fun k => cellGet_cellWrite g.addr k (b.take (g.decl.blocks * blockBytes)) hm)]
    exact ih _ (cellWrite_wf _ _ hm)

end Sys2Proof.Machine

open Sys2Proof Sys2Proof.Machine

/-- Settles O55: the scrubber touches only the errors of its stretch; each hinge command past its checks, and each end of a copy, has one effect. -/
theorem scrubbingAndTheHingeKeepGenerations : Obligations.ScrubbingAndTheHingeKeepGenerations := by
  intro s
  refine ⟨?scrub, ?commands, ?ends⟩
  case scrub =>
    intro stack word count found i base
    refine ⟨fun h => s.become_of_eq (doHbmScrub_elsewhere s found h), fun hstack hlen hdie hpower hword hcount hend => ?_⟩
    obtain ⟨t, new, heq, hnew, hmem, hcores, hscrub⟩ := doHbmScrub_scrubs s found hstack hlen hdie hpower hword hcount hend
    refine ⟨_, congrArg s.become heq, by rw [State.keep_mem, hmem], hcores, hscrub, fun e he => ?_, fun e he h => ?_⟩
    · rw [State.keep_mem, hmem] at he
      exact mem_eccScrubbed_weak hnew he
    · rw [State.keep_mem, hmem]
      exact mem_eccScrubbed_of_mem he h
  case commands =>
    intro r c h b u other hb hsw
    refine ⟨?prepare, ?abandon, ?switch⟩
    case prepare =>
      intro hbegin hs hgen hkind h5 hsrc hok hsize hbeyond hempty
      exact congrArg s.become ((cmdRow_begins s _ _ hbegin).trans (doHingePrepare_builds u hb hsw hs hgen hkind h5 hsrc hok hsize hbeyond hempty))
    case abandon =>
      intro hbegin hs hbeyond
      refine ⟨fun hready hcopy => ?ready, fun hbuild x hx => ?building⟩
      case ready =>
        have h0 : ((u.job c.job).hinge.bind fun h => h.copy) = none := by rw [State.begin_job, hb]; exact hcopy
        have := doHingeAbandon_empties (r := r) u hb hsw hs hbeyond (Or.inr hready)
        rw [u.hingeAbort_nothing _ h0] at this
        exact congrArg s.become ((cmdRow_begins s _ _ hbegin).trans this)
      case building =>
        have := doHingeAbandon_empties (r := r) u hb hsw hs hbeyond (Or.inl hbuild)
        rw [u.hingeAbort_copy hb hx] at this
        exact congrArg s.become ((cmdRow_begins s _ _ hbegin).trans this)
    case switch =>
      intro reports hbegin hs hgen h4 h5 hbeyond hready hslot theirs hall
      have heq := (cmdRow_begins s (.hingeSwitch r reports) (doHingeSwitch r reports) hbegin).trans
        (doHingeSwitch_passes (r := r) u hb hsw (theirs := theirs) rfl hs hgen h4 h5 hbeyond hready hslot hall)
      refine ⟨fun hin => ?_, fun hout => ?_⟩
      · exact congrArg s.become (heq.trans (if_pos (by simpa using hin)))
      · exact congrArg s.become (heq.trans (if_neg (by simpa using hout)))
  case ends =>
    intro j image cause b
    refine ⟨fun h0 => ⟨s.become_of_eq (doHingeCopyDone_nothing s image h0), s.become_of_eq (s.hingeAbort_nothing _ h0)⟩, ?_⟩
    intro h x hb hx aborted
    refine ⟨congrArg s.become (s.hingeAbort_copy hb hx _), fun hk ho he => ?held, fun hw => ⟨fun hk hbad => ?bad, ?filled⟩⟩
    case held => exact s.become_of_eq (doHingeCopyDone_waits s hb hx image (by simp only [State.hingeWaits, hk, ho]; exact he))
    case bad => exact congrArg s.become ((doHingeCopyDone_bad s hb hx hw image hk hbad).trans (s.hingeAbort_copy hb hx _))
    case filled =>
      intro hbad hm hj data whole parts
      refine ⟨_, congrArg s.become (doHingeCopyDone_fills s hb hx hw image hbad (data := data) (whole := whole) rfl rfl), rfl, fun key => ?_, ?_⟩
      · exact (cellGet_layRegions _ _ hm key).trans (congrArg (laidByte s.mem.cells · key) (foldl_regionParts _ [] whole).symm)
      · exact (s.setMem _).hinge_setHinge hj hb _

end

section
/-! SUPPORT. Steps of a DMA channel (R87 to R89, R96 to R101): fetching, END, LOOP, WAIT and SIGNAL. -/

namespace Sys2Proof.Machine

variable {s : State} {r : ChanRef} {c : Chan}

/-! ## A channel after a change -/

theorem State.chan_setChan (hj : r.job < s.jobs.length) (hc : s.chan r = some c) {f : Chan → Chan} (hf : ∀ x, (f x).named r = x.named r) :
    (s.setChan r f).chan r = some (f c) := by
  have hnamed : c.named r = true := List.find?_some (p := fun x : Chan => x.named r) hc
  have hsame : (fun c : Chan => c.named r) ∘ (fun c => if c.named r then f c else c) = fun c => c.named r := by
    funext x
    by_cases h : x.named r = true <;> simp [h, hf]
  unfold State.chan State.setChan
  rw [s.job_setJob _ _ hj, List.find?_map, hsame]
  rw [State.chan] at hc
  simp [hc, hnamed]

/-! ## Fetching -/

/-- A PC in plain HBM that the job reaches fetches the bytes of memory. -/
theorem State.fetch_plain (hpc : c.pc % 32 = 0) (hprov : c.prov = false) (hp : s.plainRead r.job = true) (hr : s.reaches r.job c.pc 32) :
    s.fetch r c = .ok (s.mem.read c.pc 32) s := by
  have hplace : programPlace c.pc = true := by
    have hend := hr.1
    simp only [programPlace, Bool.or_eq_true, decide_eq_true_eq]
    omega
  unfold State.fetch
  rw [if_neg (by simp [hpc]), if_neg (by simp [hplace]), hprov]
  exact s.readDev_plain hp hr

/-- The rows of channel programs with their opcodes. -/
def dmaRows (r : ChanRef) : List (Nat × Instr) := [(0, .dmaEnd r), (1, .move r), (2, .loop r), (3, .wait r), (4, .signal r)]

theorem exec_dmaRow {x : Nat × Instr} (hx : x ∈ dmaRows r) : ∃ act, exec x.2 s = s.become (dmaStep r x.1 x.2 act s) := by
  simp only [dmaRows, List.mem_cons, List.not_mem_nil, or_false] at hx
  rcases hx with rfl | rfl | rfl | rfl | rfl <;> exact ⟨_, rfl⟩

section Step

variable {op : Nat} {i : Instr} {act : Bytes → Chan → State → State}

theorem dmaStep_absent (hc : s.chan r = none) : dmaStep r op i act s = s := by
  simp only [dmaStep, hc]

variable (hc : s.chan r = some c)

include hc

theorem dmaStep_stopped (h : c.state ≠ 1 ∨ s.asleep = true ∨ s.chanIdle r.job c = true) : dmaStep r op i act s = s := by
  simp only [dmaStep, hc]
  exact if_pos h

variable (hrun : c.state = 1) (hawake : s.asleep = false) (hbusy : s.chanIdle r.job c = false)

include hrun hawake hbusy

theorem dmaStep_waits (h : s.fetch r c = .wait) : dmaStep r op i act s = s.hold .other i := by
  simp [dmaStep, hc, hrun, hawake, hbusy, h]

theorem dmaStep_fails {e : Nat} (h : s.fetch r c = .err e) : dmaStep r op i act s = s.haltChan r e false c.pc := by
  simp [dmaStep, hc, hrun, hawake, hbusy, h]

variable {b : Bytes} (hb : s.fetch r c = .ok b s)

include hb

theorem dmaStep_other (h : fieldN b 0 1 ≤ 4) (hop : fieldN b 0 1 ≠ op) : dmaStep r op i act s = s := by
  simp [dmaStep, hc, hrun, hawake, hbusy, hb, h, hop]

theorem dmaStep_reserved (h : ¬ (fieldN b 0 1 ≤ 4 ∧ fieldN b 0 1 ≠ op)) (hbad : dmaBad b = true) :
    dmaStep r op i act s = s.haltChan r 7 false c.pc := by
  simp only [dmaStep, hc, hrun, hawake, hbusy, hb, hbad, if_neg h]
  simp

/-- A sound instruction of the row's opcode is carried out. -/
theorem dmaStep_acts (hop : fieldN b 0 1 = op) (hbad : dmaBad b = false) : dmaStep r op i act s = act b c s := by
  simp [dmaStep, hc, hrun, hawake, hbusy, hb, hbad, hop]

end Step

theorem State.fetch_misaligned (h : c.pc % 32 ≠ 0) : s.fetch r c = .err 7 := if_pos h

/-! ## LOOP, WAIT and SIGNAL -/

section Loops

variable {b : Bytes}

/-- LOOP nested deeper than four or past the end of the enclosing body (R97). -/
def Chan.tooDeep (c : Chan) (stop : Nat) : Prop := 4 ≤ c.loops.length ∨ ∃ l, c.loops.head? = some l ∧ l.stop < stop

theorem Chan.tooDeep_iff (stop : Nat) : c.tooDeep stop ↔ (decide (c.loops.length ≥ 4) || (match c.loops with
      | l :: _ => decide (stop > l.stop)
      | [] => false)) = true := by
  unfold Chan.tooDeep
  cases c.loops <;> simp

theorem loopAct_deep (h : c.tooDeep (c.pc + 32 + 32 * fieldN b 2 2)) : loopAct r b c s = s.haltChan r 7 false c.pc := by
  unfold loopAct
  exact if_pos ((Chan.tooDeep_iff _).1 h)

theorem loopAct_passes (h : ¬ c.tooDeep (c.pc + 32 + 32 * fieldN b 2 2)) (h0 : fieldN b 2 2 = 0 ∨ fieldN b 4 4 = 0) :
    loopAct r b c s = s.setChan r fun x => x.goTo (c.pc + 32 + 32 * fieldN b 2 2) := by
  unfold loopAct
  exact (if_neg (mt (Chan.tooDeep_iff _).2 h)).trans (if_pos h0)

theorem loopAct_opens (h : ¬ c.tooDeep (c.pc + 32 + 32 * fieldN b 2 2)) (hbody : fieldN b 2 2 ≠ 0) (hcount : fieldN b 4 4 ≠ 0) :
    loopAct r b c s = s.setChan r fun x => { x with pc := c.pc + 32, loops :=
      { start := c.pc + 32, stop := c.pc + 32 + 32 * fieldN b 2 2, index := 0, count := fieldN b 4 4, src := signedOf (fieldN b 8 8) 64
        dst := signedOf (fieldN b 0x10 8) 64 } :: x.loops } := by
  unfold loopAct
  exact (if_neg (mt (Chan.tooDeep_iff _).2 h)).trans (if_neg (by tauto))

theorem waitAct_zero (h : fieldN b 4 2 = 0) : waitAct r b c s = s.setChan r Chan.advance := by
  simp only [waitAct, h, if_true]

theorem signalAct_waits (h : 0 < c.writes) : signalAct r b c s = s.hold .other (.signal r) := if_pos h

theorem signalAct_pulses (h : c.writes = 0) : signalAct r b c s = (s.setChan r Chan.advance).pulse r.job
    (if fieldN b 3 1 = 0 then (s.job r.job).chanDie c else fieldN b 3 1 - 4) (fieldN b 2 1) (fieldN b 4 2) :=
  if_neg (by omega)

section Waits

variable {l : Nat} (h0 : fieldN b 4 2 ≠ 0) (hline : (s.job r.job).line ((s.job r.job).chanDie c) (fieldN b 2 1) = some l)
  (hd : (s.job r.job).chanDie c < s.dies.length) (hl : l < (s.die ((s.job r.job).chanDie c)).lines.length)

/-- A channel that waits on its line. -/
def Chan.waits (x : Chan) : Chan := { x with state := 2 }

/-- What the head of a line does to its channel when it is served (R99). -/
def Chan.woken (x : Chan) : Chan :=
  if x.state = 2 then { x.advance with state := 1 } else if x.state = 4 ∧ x.savedState = 2 then { x.advance with savedState := 1 } else x

theorem Chan.woken_waits (hrun : c.state = 1) : c.waits.woken = c.advance := by
  simp [Chan.woken, Chan.waits, Chan.advance, Chan.goTo, hrun]

theorem Chan.woken_named (x : Chan) : x.woken.named r = x.named r := by
  unfold Chan.woken
  split
  · rfl
  · split <;> rfl

include h0 hline

theorem waitAct_joins : waitAct r b c s = (s.setChan r Chan.waits).joinLine ((s.job r.job).chanDie c) l (fieldN b 4 2) (.chan r) := by
  simp only [waitAct, h0, if_false, hline]
  rfl

include hd hl

theorem waitAct_served (hw : ((s.die ((s.job r.job).chanDie c)).lines.getD l {}).waiters = [])
    (hn : fieldN b 4 2 ≤ ((s.die ((s.job r.job).chanDie c)).lines.getD l {}).count) : waitAct r b c s =
      (((s.setChan r Chan.waits).setDie ((s.job r.job).chanDie c) fun x => { x with
        lines := x.lines.set l { count := ((s.die ((s.job r.job).chanDie c)).lines.getD l {}).count - fieldN b 4 2, waiters := [] } }).setChan r Chan.woken) := by
  rw [waitAct_joins h0 hline]
  exact State.joinLine_served (s.setChan r Chan.waits) (.chan r) hd hl hw hn

theorem waitAct_blocks (hw : ∀ w ∈ (((s.die ((s.job r.job).chanDie c)).lines.getD l {}).waiters ++ [({ agent := .chan r, count := fieldN b 4 2 } : Waiter)]).head?,
      ((s.die ((s.job r.job).chanDie c)).lines.getD l {}).count < w.count) : waitAct r b c s =
      (s.setChan r Chan.waits).setDie ((s.job r.job).chanDie c) fun x => { x with
        lines := x.lines.set l { (s.die ((s.job r.job).chanDie c)).lines.getD l {} with
          waiters := ((s.die ((s.job r.job).chanDie c)).lines.getD l {}).waiters ++ [{ agent := .chan r, count := fieldN b 4 2 }] } } := by
  rw [waitAct_joins h0 hline]
  exact State.joinLine_waits (s.setChan r Chan.waits) (.chan r) hd hl hw

end Waits

end Loops

end Sys2Proof.Machine
end

section
/-! SUPPORT. MOVE of raw bytes between stretches of plain HBM (R90 to R96, R101): where its runs lie, and what it leaves in memory. -/

namespace Sys2Proof.Machine

variable {s : State} {r : ChanRef} {c : Chan} {p : MovePlan}

/-! ## Raw elements are bytes -/

theorem toLe_elemAt_raw (b : Bytes) (i : Nat) : toLe 1 (elemAt .raw b i) = [b.getD i 0] := by
  have hs : sliceZ b i 1 = [b.getD i 0] := by
    unfold sliceZ
    rw [List.getD_eq_getElem?_getD]
    cases h : b.drop i with
    | nil => simp [List.drop_eq_nil_iff.1 h]
    | cons x xs =>
      have hx : b[i]? = some x := by rw [← List.head?_drop, h]; rfl
      simp [hx]
  simp [elemAt, Fmt.width, hs, leNat, toLe]

/-- Packing the raw elements of bytes gives the bytes. -/
theorem packElems_elemsOf_raw (b : Bytes) : packElems .raw (elemsOf .raw b b.length) = b := by
  have h : ∀ i, toLe (Fmt.width .raw / 8) (elemAt .raw b i) = [b.getD i 0] := toLe_elemAt_raw b
  unfold packElems elemsOf
  rw [if_neg (by decide), List.map_map]
  simp only [Function.comp_def, h, ← List.flatMap_def, ← List.map_eq_flatMap]
  refine List.ext_getElem (by simp) fun i _ h2 => ?_
  simp [h2]

/-! ## Accesses -/

/-- The accesses of a stretch lie inside it and are not empty. -/
theorem mem_funnel {fuel a n : Nat} {x : Nat × Nat} (h : x ∈ funnel fuel a n) : a ≤ x.1 ∧ x.1 + x.2 ≤ a + n ∧ 0 < x.2 := by
  induction fuel generalizing a n with
  | zero => cases h
  | succ fuel ih =>
    unfold funnel at h
    split at h
    · cases h
    · have hline : 0 < 64 - a % 64 := by omega
      rcases List.mem_cons.1 h with rfl | h
      · dsimp only; omega
      · have := ih h; omega

/-- Accesses that all give bytes give the bytes of the stretch. -/
theorem State.readStretch_of_dmaReadAll {j : Nat} {l : List (Nat × Nat)} {acc b : Bytes} {t : State} (h : s.dmaReadAll j c.prov l acc = .ok b t) :
    State.readStretch j c l s acc = .ok b t := by
  induction l generalizing s acc with
  | nil =>
    simp only [State.dmaReadAll, Got.ok.injEq] at h
    simp only [State.readStretch, h]
  | cons x l ih =>
    obtain ⟨a, n⟩ := x
    cases hx : s.dmaRead j c.prov a n
    case ok =>
      simp only [State.dmaReadAll, hx] at h
      simp only [State.readStretch, hx]
      exact ih h
    all_goals simp [State.dmaReadAll, hx] at h

theorem State.writeStretch_of_dmaWriteAll {l : List (Nat × Nat)} {bs b : Bytes} {t : State} (h : s.dmaWriteAll r.job c.prov l bs = .ok b t) :
    State.writeStretch r c l s bs = .ok b t := by
  induction l generalizing s bs with
  | nil =>
    simp only [State.dmaWriteAll, Got.ok.injEq] at h
    simp only [State.writeStretch, h]
  | cons x l ih =>
    obtain ⟨a, n⟩ := x
    cases hx : s.dmaWrite r.job c.prov a (bs.take n)
    case ok =>
      simp only [State.dmaWriteAll, hx] at h
      simp only [State.writeStretch, hx]
      exact ih h
    all_goals simp [State.dmaWriteAll, hx] at h

/-! ## Runs -/

/-- The first byte of run `i` on one side of a MOVE of bytes (R91). -/
def MovePlan.runAt (p : MovePlan) (strided : Bool) (base : Int) (i : Nat) : Int :=
  base + if strided then p.stride i else ((i * p.w.length : Nat) : Int)

/-- The first source byte of run `i`. -/
def MovePlan.srcRun (p : MovePlan) (i : Nat) : Int := p.runAt (!p.w.strideDst) p.src i

/-- The first destination byte of run `i`. -/
def MovePlan.dstRun (p : MovePlan) (i : Nat) : Int := p.runAt p.w.strideDst p.dst i

/-- The elements of run `i` begin at its first byte. -/
theorem MovePlan.place_raw (strided : Bool) (base : Int) (i : Nat) :
    p.place strided base .raw i (i * p.w.length) = (p.runAt strided base i, 0) := by
  cases strided <;> simp [MovePlan.place, MovePlan.runAt, Fmt.width]

theorem spanBytes_raw (n : Nat) : spanBytes .raw 0 n = n := by
  simp only [spanBytes, Fmt.width, ceilDiv]
  omega

theorem foldl_min_le (l : List Int) (a : Int) : l.foldl min a ≤ a ∧ ∀ x ∈ l, l.foldl min a ≤ x := by
  induction l generalizing a with
  | nil => simp
  | cons y l ih =>
    obtain ⟨h1, h2⟩ := ih (min a y)
    simp only [List.foldl_cons, List.forall_mem_cons]
    exact ⟨by omega, by omega, h2⟩

theorem le_foldl_max (l : List Int) (a : Int) : a ≤ l.foldl max a ∧ ∀ x ∈ l, x ≤ l.foldl max a := by
  induction l generalizing a with
  | nil => simp
  | cons y l ih =>
    obtain ⟨h1, h2⟩ := ih (max a y)
    simp only [List.foldl_cons, List.forall_mem_cons]
    exact ⟨by omega, by omega, h2⟩

/-- Every run of a side lies in its extent. -/
theorem MovePlan.runAt_extent (strided : Bool) (base : Int) {i : Nat} (hi : i < p.runs) :
    (p.extent strided base .raw).1 ≤ p.runAt strided base i ∧ p.runAt strided base i + p.w.length ≤ (p.extent strided base .raw).2 := by
  unfold MovePlan.extent MovePlan.runAt
  cases strided
  · have hle : i * p.w.length + p.w.length ≤ p.runs * p.w.length := by
      rw [← Nat.succ_mul]
      exact Nat.mul_le_mul_right _ hi
    simp only [Bool.false_eq_true, if_false, spanBytes_raw]
    omega
  · have hmem : p.stride i ∈ (List.range p.runs).map p.stride := List.mem_map_of_mem (List.mem_range.2 hi)
    have hmin := (foldl_min_le _ 0).2 _ hmem
    have hmax := (le_foldl_max _ 0).2 _ hmem
    simp only [if_true, spanBytes_raw]
    omega

/-- Sides that do not overlap have no byte of a source run in a destination run. -/
theorem MovePlan.runs_apart (hs : p.fs = .raw) (hd : p.fd = .raw) (h : p.overlaps = false) {i k : Nat} (hi : i < p.runs) (hk : k < p.runs) :
    p.srcRun i + p.w.length ≤ p.dstRun k ∨ p.dstRun k + p.w.length ≤ p.srcRun i := by
  have h1 := p.runAt_extent (!p.w.strideDst) p.src hi
  have h2 := p.runAt_extent p.w.strideDst p.dst hk
  simp only [MovePlan.overlaps, hs, hd, Bool.and_eq_false_iff, decide_eq_false_iff_not] at h
  unfold MovePlan.srcRun MovePlan.dstRun
  omega

/-- A MOVE without overlap is one piece for each run. -/
theorem MovePlan.pieces_whole : p.pieces false = (List.range p.runs).map fun i => (i, i * p.w.length, p.w.length) := by
  simp [MovePlan.pieces, List.map_eq_flatMap]

end Sys2Proof.Machine
end

section
/-! SUPPORT. A MOVE of raw bytes whose sides do not overlap, run by run (R90 to R96). -/

namespace Sys2Proof.Machine

variable {s : State} {r : ChanRef} {c : Chan} {p : MovePlan}

/-- The accesses of a stretch of HBM. -/
theorem accessesAt_hbm {a : Int} {n : Nat} (h0 : 0 ≤ a) (h : a.toNat + n ≤ hbmEnd) : accessesAt a n = some (funnel n a.toNat n) := by
  unfold accessesAt
  unfold hbmEnd at h
  exact if_neg (by omega)

theorem Memory.read_length (m : Memory) (a n : Nat) : (m.read a n).length = n := by
  simp [Memory.read, cellRead]

/-- A MOVE of bytes: raw on both sides, without conversion (R90). -/
def MovePlan.ofBytes (p : MovePlan) : Prop := p.fs = .raw ∧ p.fd = .raw ∧ p.conv = none

/-- Both ends of run `i` lie in HBM that the job reaches, the destination off the group table. -/
def State.runReaches (s : State) (j : Nat) (p : MovePlan) (i : Nat) : Prop :=
  0 ≤ p.srcRun i ∧ 0 ≤ p.dstRun i ∧ s.reaches j (p.srcRun i).toNat p.w.length ∧ s.reaches j (p.dstRun i).toNat p.w.length ∧
    s.offTable j (p.dstRun i).toNat p.w.length

/-- The bytes that run `i` takes. -/
def State.runBytes (s : State) (p : MovePlan) (i : Nat) : Bytes := s.mem.read (p.srcRun i).toNat p.w.length

theorem State.convertAll_none (hconv : p.conv = none) (e : Nat) (xs acc : List Nat) :
    State.convertAll r c p e xs s acc = (.ok [] s, acc ++ xs) := by
  induction xs generalizing e acc with
  | nil => simp [State.convertAll]
  | cons x xs ih => simp [State.convertAll, hconv, ih]

section Bytes

variable (hp : p.ofBytes) (hprov : c.prov = false)

include hp hprov

/-- A run leaves its source bytes at its destination. -/
theorem State.movePiece_bytes (hs : s.plainRead r.job = true) (hm : cellsWf s.mem.cells = true) {i : Nat} (hi : s.runReaches r.job p i) :
    ∃ m, State.movePiece r c p none i (i * p.w.length) p.w.length s = .ok [] (s.withCells m) ∧ cellsWf m = true ∧
      ∀ k, cellGet m k = if (p.dstRun i).toNat ≤ k ∧ k < (p.dstRun i).toNat + (s.runBytes p i).length then
        (s.runBytes p i).getD (k - (p.dstRun i).toNat) 0 else cellGet s.mem.cells k := by
  obtain ⟨hfs, hfd, hconv⟩ := hp
  obtain ⟨hsrc0, hdst0, hsrc, hdst, hoff⟩ := hi
  have hlen : (s.runBytes p i).length = p.w.length := Memory.read_length _ _ _
  obtain ⟨m, hwrite, hwf, hget⟩ := s.funnel_dmaWrite hs hm p.w.length (p.dstRun i).toNat (s.runBytes p i) (by rw [hlen]) (by rw [hlen]; exact hdst)
    (by rw [hlen]; exact hoff)
  refine ⟨m, ?_, hwf, hget⟩
  have hread : State.readStretch r.job c (funnel p.w.length (p.srcRun i).toNat p.w.length) s [] = .ok (s.runBytes p i) s :=
    State.readStretch_of_dmaReadAll (by rw [hprov]; exact s.funnel_dmaRead hs _ _ _ [] (Nat.le_refl _) hsrc)
  have hput : State.writeStretch r c (funnel p.w.length (p.dstRun i).toNat p.w.length) s (s.runBytes p i) = .ok [] (s.withCells m) :=
    State.writeStretch_of_dmaWriteAll (by rw [hprov, ← hwrite, hlen])
  have hplaceS : p.srcAt i (i * p.w.length) = (p.srcRun i, 0) := by rw [MovePlan.srcAt, hfs, MovePlan.place_raw]; rfl
  have hplaceD : p.dstAt i (i * p.w.length) = (p.dstRun i, 0) := by rw [MovePlan.dstAt, hfd, MovePlan.place_raw]; rfl
  have hpack : s.layElems r c .raw (p.dstRun i).toNat 0 (elemsOf .raw (s.runBytes p i) p.w.length) = s.runBytes p i := by
    have h := packElems_elemsOf_raw (s.runBytes p i)
    rw [hlen] at h
    exact h
  simp only [State.movePiece, hplaceS, hplaceD, hfs, hfd, spanBytes_raw, accessesAt_hbm hsrc0 hsrc.1, accessesAt_hbm hdst0 hdst.1, hread,
    Nat.zero_add, List.drop_zero, State.convertAll_none hconv, List.nil_append, hpack, hput]

/-- Runs carried out in order lay their source bytes in order. -/
theorem State.moveAll_bytes (hs : s.plainRead r.job = true) (hov : p.overlaps = false) (hall : ∀ i < p.runs, s.runReaches r.job p i)
    (l : List Nat) (hl : ∀ i ∈ l, i < p.runs) {m : Cells} (hm : cellsWf m = true)
    (hsame : ∀ i < p.runs, (s.withCells m).runBytes p i = s.runBytes p i) :
    ∃ m', State.moveAll r c p none (l.map fun i => (i, i * p.w.length, p.w.length)) (s.withCells m) = .ok [] (s.withCells m') ∧
      ∀ key, cellGet m' key = laidByte m (l.map fun i => ((p.dstRun i).toNat, s.runBytes p i)) key := by
  induction l generalizing m with
  | nil => exact ⟨m, rfl, fun key => rfl⟩
  | cons i l ih =>
    have hi : i < p.runs := hl i (by simp)
    obtain ⟨m1, hpiece, hwf, hget⟩ := State.movePiece_bytes (s := s.withCells m) hp hprov hs hm (hall i hi)
    rw [hsame i hi] at hget
    have hsame1 : ∀ k < p.runs, (s.withCells m1).runBytes p k = s.runBytes p k := by
      intro k hk
      rw [← hsame k hk]
      refine List.map_congr_left fun q hq => ?_
      have hapart := p.runs_apart hp.1 hp.2.1 hov hk hi
      obtain ⟨hsrc0, -⟩ := hall k hk
      obtain ⟨-, hdst0, -⟩ := hall i hi
      have hq' := List.mem_range.1 hq
      have hlen : (s.runBytes p i).length = p.w.length := Memory.read_length _ _ _
      exact (hget _).trans (if_neg (by omega))
    obtain ⟨m', hrest, hlaid⟩ := ih (fun k hk => hl k (by simp [hk])) hwf hsame1
    refine ⟨m', ?_, fun key => ?_⟩
    · simp only [List.map_cons, State.moveAll, hpiece]
      exact hrest
    · exact (hlaid key).trans (laidByte_cons hget _ key).symm

omit hprov in
/-- Nothing of such a MOVE comes from the far tier or a peer. -/
theorem State.remoteNeeds_bytes (hall : ∀ i < p.runs, s.runReaches r.job p i) : s.remoteNeeds r p = [] := by
  obtain ⟨hfs, hfd, hconv⟩ := hp
  simp only [State.remoteNeeds, hconv, hfd, Fmt.width, MovePlan.pieces_whole]
  rw [List.filter_eq_nil_iff]
  simp only [show ¬ (8 : Nat) = 4 by decide, ne_eq, not_false_eq_true, if_true, List.append_nil, List.mem_flatMap, List.mem_map, List.mem_range]
  rintro x ⟨_, ⟨i, hi, rfl⟩, hx⟩
  obtain ⟨hsrc0, -, hsrc, -⟩ := hall i hi
  rw [MovePlan.srcAt, hfs, MovePlan.place_raw, ← MovePlan.srcRun] at hx
  simp only [spanBytes_raw, accessesAt_hbm hsrc0 hsrc.1, Option.getD_some] at hx
  obtain ⟨y, hy, rfl⟩ := hx
  obtain ⟨h1, h2, h3⟩ := mem_funnel hy
  simp [s.resolveSpan_hbm false (s.reaches_part hsrc h1 h2) h3]

/-- Such a MOVE of a channel with nothing outstanding lays every run and goes on. -/
theorem State.moveRun_bytes (hc : s.chan r = some c) (hwrote : c.wrote = false) (hreads : c.reads = 0) (hwrites : c.writes = 0)
    (hs : s.plainRead r.job = true) (hm : cellsWf s.mem.cells = true) (hov : p.overlaps = false) (hall : ∀ i < p.runs, s.runReaches r.job p i) :
    ∃ m, s.moveRun s r c p = (s.withCells m).setChan r Chan.advance ∧
      ∀ key, cellGet m key = laidByte s.mem.cells ((List.range p.runs).map fun i => ((p.dstRun i).toNat, s.runBytes p i)) key := by
  obtain ⟨m, hmove, hlaid⟩ := State.moveAll_bytes hp hprov hs hov hall (List.range p.runs) (fun i hi => List.mem_range.1 hi) hm fun _ _ => rfl
  refine ⟨m, ?_, hlaid⟩
  have hneeds : (if c.issued then [] else s.remoteNeeds r p) = [] := by rw [State.remoteNeeds_bytes hp hall, ite_self]
  have hc' : (s.withCells m).chan r = some c := hc
  have hpieces : State.moveAll r c p none (p.pieces false) s = .ok [] (s.withCells m) := by
    rw [MovePlan.pieces_whole]
    exact hmove
  simp [State.moveRun, hwrote, hneeds, hreads, hov, hpieces, hc', hwrites]

end Bytes

end Sys2Proof.Machine
end

section
/-! SUPPORT. Channel programs (R89 to R106): the rows of a running channel, instruction by instruction. -/

namespace Sys2Proof.Machine

variable {s : State} {r : ChanRef} {c : Chan} {b : Bytes}

/-! ## MOVE as a row -/

theorem MoveWord.empty_iff {w : MoveWord} : w.empty = true ↔ w.length = 0 ∨ w.count1 * w.count2 * w.count3 = 0 := by
  simp [MoveWord.empty, or_assoc]

theorem moveAct_empty (h : (MoveWord.ofNat (leNat b)).empty = true) : moveAct r b c s = s.setChan r Chan.advance := if_pos h

/-- The plan of a MOVE without conversion. -/
def rawPlan (c : Chan) (w : MoveWord) : MovePlan :=
  { w := w, src := (w.src : Int) + c.offsets.1, dst := (w.dst : Int) + c.offsets.2, fs := .raw, fd := .raw, conv := none }

theorem moveAct_raw (h : (MoveWord.ofNat (leNat b)).empty = false) (hconv : (MoveWord.ofNat (leNat b)).conv = 0) :
    moveAct r b c s = s.moveRun s r c (rawPlan c (MoveWord.ofNat (leNat b))) := by
  unfold moveAct
  exact (if_neg (by simp [h])).trans (if_pos hconv)

theorem MovePlan.srcRun_eq (p : MovePlan) (i : Nat) :
    p.srcRun i = p.src + if p.w.strideDst then ((i * p.w.length : Nat) : Int) else p.stride i := by
  unfold MovePlan.srcRun MovePlan.runAt
  cases p.w.strideDst <;> rfl

/-! ## WAIT as a row -/

section Waits

variable {l : Nat} (hj : r.job < s.jobs.length) (hc : s.chan r = some c) (h0 : fieldN b 4 2 ≠ 0)
  (hline : (s.job r.job).line ((s.job r.job).chanDie c) (fieldN b 2 1) = some l) (hd : (s.job r.job).chanDie c < s.dies.length)
  (hl : l < (s.die ((s.job r.job).chanDie c)).lines.length)

include hj hc h0 hline hd hl

/-- A WAIT that is first and finds enough pulses takes them and goes on. -/
theorem waitAct_takes (hrun : c.state = 1) (hw : ((s.die ((s.job r.job).chanDie c)).lines.getD l {}).waiters = [])
    (hn : fieldN b 4 2 ≤ ((s.die ((s.job r.job).chanDie c)).lines.getD l {}).count) :
    (waitAct r b c s).chan r = some c.advance ∧ ((waitAct r b c s).die ((s.job r.job).chanDie c)).lines.getD l {} =
      { count := ((s.die ((s.job r.job).chanDie c)).lines.getD l {}).count - fieldN b 4 2, waiters := [] } ∧
        (waitAct r b c s).mem = s.mem ∧ (waitAct r b c s).cores = s.cores := by
  rw [waitAct_served h0 hline hd hl hw hn]
  refine ⟨?_, State.lineAfter (s.setChan r Chan.waits) hd hl _, rfl, rfl⟩
  have hwaits : (s.setChan r Chan.waits).chan r = some c.waits := State.chan_setChan hj hc fun _ => rfl
  have hwoken : ((s.setChan r Chan.waits).setChan r Chan.woken).chan r = some c.waits.woken :=
    State.chan_setChan (by simpa [State.setChan] using hj) hwaits fun x => x.woken_named
  exact hwoken.trans (congrArg some (Chan.woken_waits hrun))

/-- Behind a head that cannot be served a WAIT joins the end of the order. -/
theorem waitAct_queues (hw : ((((s.die ((s.job r.job).chanDie c)).lines.getD l {}).waiters ++ [({ agent := .chan r, count := fieldN b 4 2 } : Waiter)]).head?.any
      fun (w : Waiter) => decide (((s.die ((s.job r.job).chanDie c)).lines.getD l {}).count < w.count)) = true) :
    (waitAct r b c s).chan r = some { c with state := 2 } ∧ ((waitAct r b c s).die ((s.job r.job).chanDie c)).lines.getD l {} =
      { (s.die ((s.job r.job).chanDie c)).lines.getD l {} with
        waiters := ((s.die ((s.job r.job).chanDie c)).lines.getD l {}).waiters ++ [{ agent := .chan r, count := fieldN b 4 2 }] } ∧
        (waitAct r b c s).mem = s.mem ∧ (waitAct r b c s).cores = s.cores := by
  rw [waitAct_blocks h0 hline hd hl (head_above_of_any hw)]
  exact ⟨State.chan_setChan (f := Chan.waits) hj hc fun _ => rfl, State.lineAfter (s.setChan r Chan.waits) hd hl _, rfl, rfl⟩

end Waits

end Sys2Proof.Machine

open Sys2Proof Sys2Proof.Machine

/-- Settles O54: a step of a running channel is its fetch and then the effect of the instruction that the bytes spell. -/
theorem channelProgramsRunTheirInstructions : Obligations.ChannelProgramsRunTheirInstructions := by
  intro s r rows same
  have hrow : ∀ {x : Nat × Instr} {u : State}, x ∈ rows → (∀ act, dmaStep r x.1 x.2 act s = u) → exec x.2 s = .next (s.keep u) := by
    intro x u hx h
    obtain ⟨act, hact⟩ := exec_dmaRow hx
    exact hact.trans (congrArg s.become (h act))
  refine ⟨fun hc x hx => hrow hx fun _ => dmaStep_absent hc, fun c hc => ⟨fun h x hx => hrow hx fun _ => dmaStep_stopped hc h, ?running⟩⟩
  intro hrun hawake hbusy
  refine ⟨fun h x hx => hrow hx fun _ => dmaStep_fails hc hrun hawake hbusy (State.fetch_misaligned h), fun h hprov hp hr => State.fetch_plain h hprov hp hr,
    fun h x hx => hrow hx fun _ => dmaStep_waits hc hrun hawake hbusy h, fun e h x hx => hrow hx fun _ => dmaStep_fails hc hrun hawake hbusy h, ?fetched⟩
  intro b hb op pc on
  refine ⟨fun x hx h4 hop => hrow hx fun _ => dmaStep_other hc hrun hawake hbusy hb h4 hop,
    fun x hx h hbad => hrow hx fun _ => dmaStep_reserved hc hrun hawake hbusy hb h hbad, fun hgood => ?sound⟩
  have hacts : ∀ {n : Nat} {i : Instr} {act : Bytes → Chan → State → State} {u : State}, op = n → act b c s = u →
      s.become (dmaStep r n i act s) = .next (s.keep u) :=
    fun hop h => congrArg s.become ((dmaStep_acts hc hrun hawake hbusy hb hop hgood).trans h)
  refine ⟨fun hop => hacts hop rfl, fun hop => ?loop, fun hop => ?wait, fun hop => ⟨fun h => hacts hop (signalAct_waits h), fun h => hacts hop (signalAct_pulses h)⟩,
    fun hop => ?move⟩
  case loop =>
    intro stop deep
    exact ⟨fun h => hacts hop (loopAct_deep h), fun h h0 => hacts hop (loopAct_passes h h0), fun h hbody hcount => hacts hop (loopAct_opens h hbody hcount)⟩
  case wait =>
    intro n
    refine ⟨fun h0 => hacts hop (waitAct_zero h0), ?_⟩
    intro h0 l d hline hd hl hj e me
    exact ⟨fun hw hn => ⟨_, hacts hop rfl, waitAct_takes hj hc h0 hline hd hl hrun hw hn⟩,
      fun hw => ⟨_, hacts hop rfl, waitAct_queues hj hc h0 hline hd hl hw⟩⟩
  case move =>
    intro w p runs step src dst
    refine ⟨fun h => hacts hop (moveAct_empty (MoveWord.empty_iff.2 h)), ?_⟩
    intro hlen hruns hconv hov hprov hwrites hreads hwrote hp hm hj hall
    have hempty : w.empty = false := Bool.eq_false_iff.2 fun h => (MoveWord.empty_iff.1 h).elim hlen hruns
    have hsrc : ∀ i, src i = p.srcRun i := fun i => (p.srcRun_eq i).symm
    have hreach : ∀ i < p.runs, s.runReaches r.job p i := by
      intro i hi
      have h := hall i hi
      rwa [hsrc i] at h
    obtain ⟨m, hmove, hlaid⟩ := State.moveRun_bytes (p := p) ⟨rfl, rfl, rfl⟩ hprov hc hwrote hreads hwrites hp hm hov hreach
    refine ⟨m, hacts hop ((moveAct_raw hempty hconv).trans hmove), fun key => ?_⟩
    rw [hlaid key]
    simp only [hsrc]
    rfl

end

section
/-! SUPPORT. The optimiser update (R130, R164 to R167): a descriptor carried out through accesses that all reach memory reads its stretches
as memory holds them, and lays the new masters, moments and working copies in order. -/

namespace Sys2Proof.Machine

variable {s : State} {d : OptDesc}

/-! ## What a descriptor reads and writes -/

/-- The stretches that an update reads: masters, both moments, gradients. -/
def OptDesc.sources (d : OptDesc) : List (Nat × Nat) :=
  [(d.master, 4 * d.count), (d.m1, momentSize (bitOf d.forms 0) d.count), (d.m2, momentSize (bitOf d.forms 0) d.count), (d.grad, 4 * d.count)]

/-- The parameters before the update, from reads of their stretches. -/
def OptDesc.oldParams (d : OptDesc) (rd : Nat → Nat → Bytes) : List Param :=
  paramsOf (elemsOf .fp32 (rd d.master (4 * d.count)) d.count) (momentsOf .m8s (bitOf d.forms 0) (rd d.m1 (momentSize (bitOf d.forms 0) d.count)) d.count)
    (momentsOf .m8u (bitOf d.forms 0) (rd d.m2 (momentSize (bitOf d.forms 0) d.count)) d.count)

/-- The parameters after the update (R166), under the group's entry in memory. -/
def State.newParams (s : State) (j : Nat) (prov : Bool) (d : OptDesc) (rd : Nat → Nat → Bytes) : List Param :=
  (s.updateCtx j (s.mem.read ((s.job j).groupTable + 32 * d.group) 32) prov).all d.base 0 (d.oldParams rd) (elemsOf .fp32 (rd d.grad (4 * d.count)) d.count)

/-- The stretches that an update writes, in order: masters, both moments, and working copies where a format is named (R130). -/
def OptDesc.written (d : OptDesc) (new : List Param) : List (Nat × Bytes) :=
  [(d.master, packElems .fp32 (new.map (·.w))), (d.m1, momentBytes .m8s (bitOf d.forms 1) (new.map (·.m1))),
    (d.m2, momentBytes .m8u (bitOf d.forms 1) (new.map (·.m2)))] ++
    (match Fmt.ofCode d.workFmt with
      | some f => if d.workFmt = 0 then [] else [(d.work, packElems f (new.map fun p => fCast .fp32 f p.w))]
      | none => [])

/-! ## Accesses that all reach memory -/

/-- What memory holds of a stretch, its first byte at a key. -/
def State.bytesAt (s : State) (keyOf : Nat → Nat) (a n : Nat) : Bytes := s.mem.read (keyOf a) n

theorem State.bytesAt_id (s : State) : s.bytesAt id = s.mem.read := rfl

/-- Each stretch of the list is read as memory holds it at its key, and reading changes nothing. -/
def UpdateIO.readsMem (io : UpdateIO) (keyOf : Nat → Nat) (s : State) (l : List (Nat × Nat)) : Prop :=
  ∀ x ∈ l, io.rd s x.1 x.2 = .ok (s.bytesAt keyOf x.1 x.2) s

/-- Each stretch of the list is laid at its key, whatever bytes memory holds by then. -/
def UpdateIO.laysMem (io : UpdateIO) (keyOf : Nat → Nat) (s : State) (l : List (Nat × Bytes)) : Prop :=
  ∀ y ∈ l, ∀ m, cellsWf m = true → ∃ m', io.wr (s.withCells m) y.1 y.2 = .ok [] (s.withCells m') ∧ cellsWf m' = true ∧
    ∀ key, cellGet m' key = if keyOf y.1 ≤ key ∧ key < keyOf y.1 + y.2.length then y.2.getD (key - keyOf y.1) 0 else cellGet m key

variable {io : UpdateIO} {keyOf : Nat → Nat}

theorem UpdateIO.reads_mem {l : List (Nat × Nat)} (h : io.readsMem keyOf s l) (acc : List Bytes) :
    io.reads l s acc = (.ok [] s, acc.reverse ++ l.map fun x => s.bytesAt keyOf x.1 x.2) := by
  induction l generalizing acc with
  | nil => simp [UpdateIO.reads]
  | cons x l ih =>
    have hx : io.rd s x.1 x.2 = .ok (s.bytesAt keyOf x.1 x.2) s := h x (by simp)
    have hrest := ih fun y hy => h y (by simp [hy])
    simp [UpdateIO.reads, hx, hrest]

theorem UpdateIO.writes_mem {l : List (Nat × Bytes)} (h : io.laysMem keyOf s l) {m : Cells} (hm : cellsWf m = true) :
    ∃ m', io.writes l (s.withCells m) = .ok [] (s.withCells m') ∧
      ∀ key, cellGet m' key = laidByte m (l.map fun y => (keyOf y.1, y.2)) key := by
  induction l generalizing m with
  | nil => exact ⟨m, rfl, fun _ => rfl⟩
  | cons y l ih =>
    obtain ⟨m1, hwrite, hwf, hget⟩ := h y (by simp) m hm
    obtain ⟨m', hrest, hlaid⟩ := ih (fun z hz => h z (by simp [hz])) hwf
    refine ⟨m', ?_, fun key => (hlaid key).trans (laidByte_cons hget _ key).symm⟩
    simp only [UpdateIO.writes, hwrite, hrest]

/-! ## A descriptor carried out -/

variable {t : TaskRef} {prov : Bool}

theorem State.runUpdate_empty (hcount : d.count = 0) : s.runUpdate io t prov d = .ok [] s := if_pos hcount

/-- A descriptor whose entry and stretches are read as bytes, and whose writes are all taken, leaves its parameters noted. -/
theorem State.runUpdate_of_accesses {rd : Nat → Nat → Bytes} {b : Bytes} {v : State} (hcount : d.count ≠ 0)
    (hentry : s.readDev t.job prov ((s.job t.job).groupTable + 32 * d.group) 32 = .ok (s.mem.read ((s.job t.job).groupTable + 32 * d.group) 32) s)
    (hreads : io.reads d.sources s [] = (.ok [] s, d.sources.map fun x => rd x.1 x.2))
    (hwrites : io.writes (d.written (s.newParams t.job prov d rd)) s = .ok b v) :
    s.runUpdate io t prov d = .ok [] (v.noteUpdate t d (d.oldParams rd) (s.newParams t.job prov d rd)) :=
  calc s.runUpdate io t prov d
    _ = match io.writes (d.written (s.newParams t.job prov d rd)) s with
        | .ok _ v => .ok [] (v.noteUpdate t d (d.oldParams rd) (s.newParams t.job prov d rd))
        | g => g := by
      simp only [OptDesc.sources] at hreads
      unfold State.runUpdate
      rw [if_neg hcount]
      simp only [hentry, hreads]
      rfl
    _ = .ok [] (v.noteUpdate t d (d.oldParams rd) (s.newParams t.job prov d rd)) := by rw [hwrites]

/-- A descriptor whose accesses all reach memory is carried out: its new parameters are laid, its sums and terms noted. -/
theorem State.runUpdate_mem (hm : cellsWf s.mem.cells = true) (hcount : d.count ≠ 0)
    (hentry : s.readDev t.job prov ((s.job t.job).groupTable + 32 * d.group) 32 = .ok (s.mem.read ((s.job t.job).groupTable + 32 * d.group) 32) s)
    (hreads : io.readsMem keyOf s d.sources)
    (hwrites : io.laysMem keyOf s (d.written (s.newParams t.job prov d (s.bytesAt keyOf)))) :
    ∃ m, s.runUpdate io t prov d = .ok [] ((s.withCells m).noteUpdate t d (d.oldParams (s.bytesAt keyOf)) (s.newParams t.job prov d (s.bytesAt keyOf))) ∧
      ∀ key, cellGet m key = laidByte s.mem.cells ((d.written (s.newParams t.job prov d (s.bytesAt keyOf))).map fun y => (keyOf y.1, y.2)) key := by
  obtain ⟨m, hlay, hlaid⟩ := UpdateIO.writes_mem hwrites hm
  exact ⟨m, State.runUpdate_of_accesses hcount hentry (UpdateIO.reads_mem hreads []) hlay, hlaid⟩

/-! ## Plain workspace and plain HBM -/

variable {k : Task}

/-- The accesses of a vector engine in its task's workspace (R164). -/
def wsIO (t : TaskRef) (k : Task) : UpdateIO :=
  { rd := fun s a n => s.readWs t k a n, wr := fun s a b => s.writeWs t k a b }

/-- The accesses of a stack's update unit in device memory (R129). -/
def devIO (j : Nat) (prov : Bool) : UpdateIO :=
  { rd := fun s a n => s.readDev j prov a n, wr := fun s a b => s.writeDev j prov a b }

theorem wsIO_readsMem (h : s.plainWs t k = true) {l : List (Nat × Nat)} (hin : ∀ x ∈ l, x.1 + x.2 ≤ wsBytes) :
    (wsIO t k).readsMem (wsKey t.job k.home) s l := fun x hx => s.readWs_plain h (hin x hx)

theorem wsIO_laysMem (h : s.plainWs t k = true) {l : List (Nat × Bytes)} (hin : ∀ y ∈ l, y.1 + y.2.length ≤ wsBytes) :
    (wsIO t k).laysMem (wsKey t.job k.home) s l :=
  fun y hy m hm => (s.withCells m).writeWs_plain (s.plainWs_withCells h m) hm (hin y hy)

theorem devIO_readsMem {j : Nat} (h : s.plainRead j = true) {l : List (Nat × Nat)} (hin : ∀ x ∈ l, s.reaches j x.1 x.2) :
    (devIO j false).readsMem id s l := fun x hx => s.readDev_plain h (hin x hx)

theorem devIO_laysMem {j : Nat} (h : s.plainRead j = true) {l : List (Nat × Bytes)}
    (hin : ∀ y ∈ l, s.reaches j y.1 y.2.length ∧ s.offTable j y.1 y.2.length) : (devIO j false).laysMem id s l :=
  fun y hy m hm => (s.withCells m).writeDev_plain (s.plainRead_withCells h m) hm (s.reaches_withCells (hin y hy).1 m)
    (s.offTable_withCells (hin y hy).2 m)

/-- A descriptor over plain HBM off the group table (R130). -/
theorem State.runUpdate_dev (h : s.plainRead t.job = true) (hm : cellsWf s.mem.cells = true) (hcount : d.count ≠ 0)
    (htable : s.reaches t.job ((s.job t.job).groupTable + 32 * d.group) 32) (hsources : ∀ x ∈ d.sources, s.reaches t.job x.1 x.2)
    (hwritten : ∀ y ∈ d.written (s.newParams t.job false d s.mem.read), s.reaches t.job y.1 y.2.length ∧ s.offTable t.job y.1 y.2.length) :
    ∃ m, s.runUpdate (devIO t.job false) t false d =
        .ok [] ((s.withCells m).noteUpdate t d (d.oldParams s.mem.read) (s.newParams t.job false d s.mem.read)) ∧
      ∀ key, cellGet m key = laidByte s.mem.cells (d.written (s.newParams t.job false d s.mem.read)) key := by
  obtain ⟨m, hrun, hlaid⟩ := State.runUpdate_mem hm hcount (s.readDev_plain h htable) (devIO_readsMem h hsources) (devIO_laysMem h hwritten)
  exact ⟨m, hrun, fun key => (hlaid key).trans (by simp [State.bytesAt_id])⟩

end Sys2Proof.Machine
end

section
/-! SUPPORT. The rows of the optimiser update: OPTUPD in workspace, UPDATE into a unit's queue, and the unit's own command (R129, R130, R132,
R164). -/

namespace Sys2Proof.Machine

variable {s : State} {t : TaskRef} {k : Task} {stack off : Nat}

/-! ## What issuing leaves -/

section Did

variable (hk : s.task t = some k)

include hk

theorem State.job_did : (s.did t id).job t.job =
    { s.job t.job with tasks := (s.job t.job).tasks.modify t.task fun x => { x with atPoint := false } } := s.job_setTask hk _

theorem State.groupTable_did : ((s.did t id).job t.job).groupTable = (s.job t.job).groupTable := by
  rw [State.job_did hk]
  rfl

theorem State.newParams_did (prov : Bool) (d : OptDesc) (rd : Nat → Nat → Bytes) :
    (s.did t id).newParams t.job prov d rd = s.newParams t.job prov d rd := by
  unfold State.newParams State.updateCtx
  rw [State.job_did hk]
  rfl

theorem State.updateBad_did (stack : Nat) (d : OptDesc) : ((s.did t id).job t.job).updateBad stack d = (s.job t.job).updateBad stack d := by
  rw [State.job_did hk]
  rfl

variable (hp : s.plainWs t k = true)

include hp

/-- The descriptor as memory holds it, read after the issue. -/
theorem State.readWs_did (hin : off + 64 ≤ wsBytes) : (s.did t id).readWs t k off 64 = .ok (s.mem.read (wsKey t.job k.home off) 64) (s.did t id) :=
  (s.did t id).readWs_plain (s.plainWs_did hk id (fun _ => rfl) hp) hin

/-- A descriptor over plain workspace, once its instruction has issued (R164): what it reads, and so what it computes, is what stood before. -/
theorem State.runUpdate_ws {d : OptDesc} (hread : (s.did t id).plainRead t.job = true) (hm : cellsWf s.mem.cells = true) (hcount : d.count ≠ 0)
    (htable : (s.did t id).reaches t.job ((s.job t.job).groupTable + 32 * d.group) 32) (hsources : ∀ x ∈ d.sources, x.1 + x.2 ≤ wsBytes)
    (hwritten : ∀ y ∈ d.written (s.newParams t.job false d (s.bytesAt (wsKey t.job k.home))), y.1 + y.2.length ≤ wsBytes) :
    ∃ m, (s.did t id).runUpdate (wsIO t k) t false d = .ok [] (((s.did t id).withCells m).noteUpdate t d
        (d.oldParams (s.bytesAt (wsKey t.job k.home))) (s.newParams t.job false d (s.bytesAt (wsKey t.job k.home)))) ∧
      ∀ key, cellGet m key = laidByte s.mem.cells
        ((d.written (s.newParams t.job false d (s.bytesAt (wsKey t.job k.home)))).map fun y => (wsKey t.job k.home y.1, y.2)) key := by
  have hp' := s.plainWs_did hk id (fun _ => rfl) hp
  rw [← State.groupTable_did hk] at htable
  rw [← State.newParams_did hk] at hwritten ⊢
  exact State.runUpdate_mem hm hcount ((s.did t id).readDev_plain hread htable) (wsIO_readsMem hp' hsources) (wsIO_laysMem hp' hwritten)

end Did

/-! ## OPTUPD -/

section Issued

variable (hc : s.canIssue t = true) (hk : s.task t = some k) (hp : s.plainWs t k = true) (hin : off + 64 ≤ wsBytes)
  (h64 : off % 64 = 0) {d : OptDesc} (hd : OptDesc.ofOpt (s.mem.read (wsKey t.job k.home off) 64) = d)

include hc hk hp hin h64 hd

theorem doOptupd_bad (h : d.bad = true) : doOptupd t off s = (s.did t id).faultStop t.job stBadParam true := by
  simp [doOptupd, s.issue_eq hc hk, h64, State.readWs_did hk hp hin, hd, h]

/-- A sound descriptor is carried out through the accesses of its core. -/
theorem doOptupd_runs (h : d.bad = false) {b : Bytes} {v : State} (hrun : (s.did t id).runUpdate (wsIO t k) t false d = .ok b v) :
    doOptupd t off s = v.signalLine t k d.signal d.line := by
  obtain ⟨-, -, -, -, hprov⟩ := s.plainWs_parts hp
  unfold wsIO at hrun
  simp [doOptupd, s.issue_eq hc hk, h64, State.readWs_did hk hp hin, hd, h, hprov, hrun]

end Issued

/-! ## UPDATE -/

section Queued

variable (hc : s.canIssue t = true) (hk : s.task t = some k)

include hc hk

theorem doUpdate_elsewhere (h : 12 ≤ stack) : doUpdate t stack off s = s := by
  simp [doUpdate, s.issue_eq hc hk, h]

theorem doUpdate_waits (h : stack < 12) (hfull : 64 ≤ (s.hbm.getD stack {}).queue.length) :
    doUpdate t stack off s = s.hold (.task t) (.update t stack off) := by
  have hfull' : ((s.did t id).hbm.getD stack {}).queue.length ≥ 64 := hfull
  simp only [doUpdate, s.issue_eq hc hk, if_neg (Nat.not_le.2 h), if_pos hfull']

variable (hp : s.plainWs t k = true) (hin : off + 64 ≤ wsBytes)

include hp hin

theorem doUpdate_bad (h : stack < 12) (hroom : (s.hbm.getD stack {}).queue.length < 64)
    (hbad : (s.job t.job).updateBad stack (OptDesc.ofUpdate (s.mem.read (wsKey t.job k.home off) 64)) = true) :
    doUpdate t stack off s = (s.did t id).faultStop t.job stBadParam true := by
  have hroom' : ¬ ((s.did t id).hbm.getD stack {}).queue.length ≥ 64 := Nat.not_le.2 hroom
  simp only [doUpdate, s.issue_eq hc hk, if_neg (Nat.not_le.2 h), if_neg hroom', State.readWs_did hk hp hin, State.updateBad_did hk, hbad, if_true]

theorem doUpdate_queues (h : stack < 12) (hroom : (s.hbm.getD stack {}).queue.length < 64)
    (hgood : (s.job t.job).updateBad stack (OptDesc.ofUpdate (s.mem.read (wsKey t.job k.home off) 64)) = false) :
    doUpdate t stack off s = { s.did t id with hbm := (s.did t id).hbm.modify stack fun x => { x with
      queue := x.queue ++ [{ task := t, desc := s.mem.read (wsKey t.job k.home off) 64, prov := k.prov }] } } := by
  have hroom' : ¬ ((s.did t id).hbm.getD stack {}).queue.length ≥ 64 := Nat.not_le.2 hroom
  simp only [doUpdate, s.issue_eq hc hk, if_neg (Nat.not_le.2 h), if_neg hroom', State.readWs_did hk hp hin, State.updateBad_did hk, hgood,
    Bool.false_eq_true, if_false]

end Queued

/-! ## UPDATE_DESCRIPTOR_RUN -/

section Unit

variable {q : UpdateReq}

theorem doUpdateDescriptorRun_idle (h : ((s.hbm.getD stack {}).queue.find? fun q => (s.job q.task.job).live) = none) :
    doUpdateDescriptorRun stack s = s := by
  simp only [doUpdateDescriptorRun, h]

variable (hq : ((s.hbm.getD stack {}).queue.find? fun q => (s.job q.task.job).live) = some q)

include hq

theorem doUpdateDescriptorRun_done {b : Bytes} {w : State} (h : s.runUpdate (devIO q.task.job q.prov) q.task q.prov (OptDesc.ofUpdate q.desc) = .ok b w) :
    doUpdateDescriptorRun stack s =
      if (OptDesc.ofUpdate q.desc).signal then
        ({ w with hbm := w.hbm.modify stack fun x => { x with queue := x.queue.erase q } } : State).pulse q.task.job (stack / 3) (OptDesc.ofUpdate q.desc).line 1
      else { w with hbm := w.hbm.modify stack fun x => { x with queue := x.queue.erase q } } := by
  unfold devIO at h
  simp only [doUpdateDescriptorRun, hq, h]

theorem doUpdateDescriptorRun_waits (h : s.runUpdate (devIO q.task.job q.prov) q.task q.prov (OptDesc.ofUpdate q.desc) = .wait) :
    doUpdateDescriptorRun stack s = s.hold .other (.updateDescriptorRun stack) := by
  unfold devIO at h
  simp only [doUpdateDescriptorRun, hq, h]

theorem doUpdateDescriptorRun_fails {e : Nat} (h : s.runUpdate (devIO q.task.job q.prov) q.task q.prov (OptDesc.ofUpdate q.desc) = .err e) :
    doUpdateDescriptorRun stack s = s.faultStop q.task.job stUncorrectable true := by
  unfold devIO at h
  simp only [doUpdateDescriptorRun, hq, h]

end Unit

end Sys2Proof.Machine

open Sys2Proof Sys2Proof.Machine

/-- Settles O51: on both paths a descriptor is one `runUpdate`, whose accesses all reach memory in plain workspace and plain HBM. -/
theorem updatesRewriteMastersAndMoments : Obligations.UpdatesRewriteMastersAndMoments := by
  intro s t k stack off updates written
  refine ⟨?task, ?idle, fun q hq => ⟨?done, ?waits, ?fails, ?nothing, ?unit⟩⟩
  case task =>
    intro hc hk hp hin j u at_ bytes d
    have hd : OptDesc.ofOpt (s.mem.read (wsKey t.job k.home off) 64) = d := rfl
    clear_value d
    refine ⟨fun h64 => ⟨fun hbad => ?bad, fun hgood hcount => ?empty, ?optupd⟩, fun h => ?elsewhere, fun h hfull => ?full,
      fun h hroom => ⟨fun hbad => ?refused, fun hgood => ?queued⟩⟩
    case bad => exact congrArg s.become (doOptupd_bad hc hk hp hin h64 hd hbad)
    case empty => exact congrArg s.become (doOptupd_runs hc hk hp hin h64 hd hgood (State.runUpdate_empty hcount))
    case optupd =>
      intro hgood hcount hread hm htable hmaster hgrad hm1 hm2 x hwritten
      obtain ⟨m, hrun, hlaid⟩ := State.runUpdate_ws hk hp hread hm hcount htable (by simp [OptDesc.sources, hmaster, hgrad, hm1, hm2]) hwritten
      exact ⟨m, congrArg s.become (doOptupd_runs hc hk hp hin h64 hd hgood hrun), hlaid⟩
    case elsewhere => exact s.become_of_eq (doUpdate_elsewhere hc hk h)
    case full => exact congrArg s.become (doUpdate_waits hc hk h hfull)
    case refused => exact congrArg s.become (doUpdate_bad hc hk hp hin h hroom hbad)
    case queued => exact congrArg s.become (doUpdate_queues hc hk hp hin h hroom hgood)
  case idle => exact fun h => s.become_of_eq (doUpdateDescriptorRun_idle h)
  case done => exact fun b w h => congrArg s.become (doUpdateDescriptorRun_done hq h)
  case waits => exact fun h => congrArg s.become (doUpdateDescriptorRun_waits hq h)
  case fails => exact fun e h => congrArg s.become (doUpdateDescriptorRun_fails hq h)
  case nothing => exact fun hcount => State.runUpdate_empty hcount
  case unit =>
    intro hcount hprov hread hm htable hmaster hgrad hm1 hm2 x hwritten
    rw [hprov]
    exact State.runUpdate_dev hread hm hcount htable (by simp [OptDesc.sources, hmaster, hgrad, hm1, hm2]) hwritten

end

section
/-! SUPPORT. The opening of an epoch (R146, R147, R169, R170, R172, R173): it writes the job's group table, and of the job it changes the training
part and what its collectives note. -/

namespace Sys2Proof.Machine

variable (s : State) {j : Nat}

/-- Two changes of one job are one change. -/
theorem State.setJob_setJob (f g : Job → Job) : (s.setJob j f).setJob j g = s.setJob j fun b => g (f b) := by
  have h : (s.jobs.modify j f).modify j g = s.jobs.modify j fun b => g (f b) := by
    apply List.ext_getElem?
    intro n
    simp only [List.getElem?_modify]
    cases s.jobs[n]? <;> by_cases hn : j = n <;> simp [hn]
  simp only [State.setJob, h]

/-! ## Changes of memory alone -/

/-- The second state differs from the first in memory alone, and where `still` holds not even there. -/
def State.memOnly (s u : State) (still : Prop) : Prop := ∃ m, u = { s with mem := m } ∧ (still → m = s.mem)

variable {s} {still : Prop} {u v : State}

theorem State.memOnly_refl : s.memOnly s still := ⟨s.mem, rfl, fun _ => rfl⟩

theorem State.memOnly_trans (h : s.memOnly u still) (h' : u.memOnly v still) : s.memOnly v still := by
  obtain ⟨m, rfl, hm⟩ := h
  obtain ⟨m', rfl, hm'⟩ := h'
  exact ⟨m', rfl, fun hs => (hm' hs).trans (hm hs)⟩

theorem State.memOnly_mono {less : Prop} (hl : less → still) (h : s.memOnly u still) : s.memOnly u less := by
  obtain ⟨m, rfl, hm⟩ := h
  exact ⟨m, rfl, fun hs => hm (hl hs)⟩

theorem State.memOnly_job (h : s.memOnly u still) (i : Nat) : u.job i = s.job i := by
  obtain ⟨m, rfl, -⟩ := h
  rfl

theorem State.memOnly_setMem (f : Memory → Memory) (h : ¬ still) : s.memOnly (s.setMem f) still := ⟨f s.mem, rfl, fun hs => absurd hs h⟩

/-- A fold of changes of memory is one; each step may lean on the job that the first state has. -/
theorem State.memOnly_foldl (j : Nat) {α : Type} {f : State → α → State} {l : List α} (hu : s.memOnly u still)
    (h : ∀ v : State, v.job j = s.job j → ∀ x ∈ l, v.memOnly (f v x) still) : s.memOnly (l.foldl f u) still := by
  induction l generalizing u with
  | nil => exact hu
  | cons x l ih =>
    have hx : u.memOnly (f u x) still := h u (State.memOnly_job hu j) x List.mem_cons_self
    exact ih (State.memOnly_trans hu hx) fun v hv y hy => h v hv y (List.mem_cons_of_mem x hy)

/-! ## The group table -/

variable (s j)

/-- FORM is written for every group that has a path (R170). -/
theorem State.setForms_memOnly : s.memOnly (s.setForms j) ((s.job j).train.paths = []) :=
  State.memOnly_foldl j State.memOnly_refl fun _ _ _ hx => State.memOnly_setMem _ (List.ne_nil_of_mem hx)

/-- A pending GROUP_SET writes entries of the table (R172). -/
theorem State.applyGroupSet_memOnly (first : Nat) (entries : Bytes) :
    s.memOnly (s.applyGroupSet j first entries) ((s.job j).groupCount = 0) := by
  refine State.memOnly_foldl j State.memOnly_refl fun u hu i _ => ?_
  split
  · next h => exact State.memOnly_setMem _ (by rw [← hu]; omega)
  · exact State.memOnly_refl

/-- A change of the training part that leaves the step register and what is open as they are. -/
def keepsStep (f : Training → Training) : Prop := ∀ t, (f t).step = t.step ∧ (f t).openEpoch = t.openEpoch ∧ (f t).noSpecAt = t.noSpecAt

/-- The table is written, and what the opening has taken up is no longer pending (R169, R172). -/
theorem State.openGroups_eq (step : Nat) : ∃ u f, s.memOnly u ((s.job j).groupCount = 0) ∧ keepsStep f ∧ s.openGroups j step = u.setTrain j f := by
  unfold State.openGroups
  dsimp only
  refine ⟨_, _, ?mem, ?registers, rfl⟩
  case registers => exact fun _ => ⟨rfl, rfl, rfl⟩
  refine State.memOnly_foldl j (State.memOnly_foldl j State.memOnly_refl fun u _ g hg => ?paths) fun u hu x _ => ?sets
  case paths => exact State.memOnly_setMem _ (Nat.ne_zero_of_lt (List.mem_range.1 hg))
  case sets => exact hu ▸ u.applyGroupSet_memOnly j x.2.1 x.2.2

/-- Under NO_SPEC an opening first closes the update of the step before (R170, R173). -/
theorem State.closeUpdate_eq : ∃ u f, s.memOnly u ((s.job j).train.paths = []) ∧ keepsStep f ∧ s.closeUpdate j = u.setTrain j f := by
  unfold State.closeUpdate
  dsimp only
  split
  · exact ⟨s, id, State.memOnly_refl, fun _ => ⟨rfl, rfl, rfl⟩, (s.setTrain_same j id rfl).symm⟩
  · refine ⟨_, _, s.setForms_memOnly j, ?_, rfl⟩
    exact fun _ => ⟨rfl, rfl, rfl⟩

/-! ## The opening -/

variable {s j}

/-- A change of memory after one of a job is the same change before it. -/
theorem State.memOnly_of_setJob {f : Job → Job} (h : (s.setJob j f).memOnly u still) : ∃ v, s.memOnly v still ∧ u = v.setJob j f := by
  obtain ⟨m, rfl, hm⟩ := h
  exact ⟨{ s with mem := m }, ⟨m, rfl, hm⟩, rfl⟩

/-- Before the step is noted, the table is written, and under NO_SPEC the update of the step before is closed first. -/
theorem State.openGroups_closed (hj : j < s.jobs.length) (step : Nat) (spec : Bool) :
    ∃ u f, s.memOnly u ((s.job j).groupCount = 0 ∧ (s.job j).train.paths = []) ∧ keepsStep f ∧
      (if spec then s else s.closeUpdate j).openGroups j step = u.setTrain j f := by
  cases spec with
  | true =>
    obtain ⟨u, f, hu, hf, heq⟩ := s.openGroups_eq j step
    exact ⟨u, f, State.memOnly_mono And.left hu, hf, heq⟩
  | false =>
    obtain ⟨u, f, hu, hf, hclose⟩ := s.closeUpdate_eq j
    obtain ⟨v, g, hv, hg, hopen⟩ := (s.closeUpdate j).openGroups_eq j step
    have hcount : ((s.closeUpdate j).job j).groupCount = (s.job j).groupCount := by
      have hl : j < u.jobs.length := by obtain ⟨m, rfl, -⟩ := hu; exact hj
      rw [hclose, State.setTrain, State.job_setJob _ _ _ hl, State.memOnly_job hu]
      rfl
    rw [hcount, hclose] at hv
    obtain ⟨w, hw, rfl⟩ := State.memOnly_of_setJob hv
    refine ⟨w, fun t => g (f t), State.memOnly_trans (State.memOnly_mono And.right hu) (State.memOnly_mono And.left hw), fun t => ?_,
      hopen.trans (State.setJob_setJob w _ _)⟩
    obtain ⟨hstep, hopenEpoch, hat⟩ := hf t
    simpa only [hstep, hopenEpoch, hat] using hg (f t)

/-- A job whose step has been noted, as the open epoch or under NO_SPEC as the one that tasks wait in, with the groups' paths and no sums yet (R146,
R147, R173, R175, R179). -/
def Job.opened (b : Job) (f : Training → Training) (step : Nat) (spec : Bool) (paths : List (Nat × Nat)) : Job :=
  { b with
    train := { if spec then { f b.train with openEpoch := some step } else { f b.train with noSpecAt := some step } with
      paths := paths, sums := [], fingerprints := [] }
    colls := b.colls.map fun (c : Coll) => { c with startedAtOpen := c.started } }

theorem Job.opened_train (b : Job) {f : Training → Training} (hf : keepsStep f) (step : Nat) (spec : Bool) (paths : List (Nat × Nat)) :
    let x := (b.opened f step spec paths).train
    x.step = b.train.step ∧ x.openEpoch = (if spec then some step else b.train.openEpoch) ∧ x.noSpecAt = if spec then b.train.noSpecAt else some step := by
  obtain ⟨hstep, hopen, hat⟩ := hf b.train
  cases spec with
  | true => exact ⟨hstep, rfl, hat⟩
  | false => exact ⟨hstep, hopen, rfl⟩

theorem State.openEpoch_eq (hj : j < s.jobs.length) (step : Nat) (spec : Bool) :
    ∃ u f paths, s.memOnly u ((s.job j).groupCount = 0 ∧ (s.job j).train.paths = []) ∧ keepsStep f ∧
      s.openEpoch j step spec = u.setJob j fun b => b.opened f step spec paths := by
  obtain ⟨u, f, hu, hf, heq⟩ := State.openGroups_closed hj step spec
  refine ⟨u, f, (u.setTrain j f).groupPaths j, hu, hf, ?_⟩
  unfold State.openEpoch Job.opened
  rw [heq]
  cases spec <;> simp only [reduceIte, Bool.false_eq_true, State.setTrain, State.setJob_setJob]

end Sys2Proof.Machine
end

section
/-! SUPPORT. The training step's instructions of a task: EPOCH, NONFIN, CREADY and LSEXP (R146 to R148, R158, R162, R173, R257). -/

namespace Sys2Proof.Machine

variable {s v : State} {t : TaskRef} {k : Task} {home : Nat}

/-! ## A task on its way into an epoch -/

/-- What an EPOCH of job `j` leaves: cores and other jobs, and memory where no group table and no paths ask for a change. -/
def State.spares (s v : State) (j : Nat) : Prop :=
  v.cores = s.cores ∧ (∀ i, i ≠ j → v.job i = s.job i) ∧ ((s.job j).groupCount = 0 → (s.job j).train.paths = [] → v.mem = s.mem)

/-- A state on the way from `s` to the task's epoch: nothing else is touched, and the task is there with its home core. -/
def State.enters (s v : State) (t : TaskRef) (home : Nat) : Prop := s.spares v t.job ∧ ∃ x, v.task t = some x ∧ x.home = home

theorem State.enters_refl (hk : s.task t = some k) : s.enters s t k.home := ⟨⟨rfl, fun _ _ => rfl, fun _ _ => rfl⟩, k, hk, rfl⟩

/-- A change of the job that keeps the task's home core. -/
theorem State.enters_setJob (h : s.enters v t home) {f : Job → Job}
    (hf : ∀ x, (v.job t.job).tasks[t.task]? = some x → ∃ y, (f (v.job t.job)).tasks[t.task]? = some y ∧ y.home = x.home) :
    s.enters (v.setJob t.job f) t home := by
  obtain ⟨⟨hcores, hothers, hmem⟩, x, hx, hhome⟩ := h
  obtain ⟨y, hy, hyx⟩ := hf x hx
  refine ⟨⟨hcores, fun i hi => (v.job_setJob_other _ _ f (Ne.symm hi)).trans (hothers i hi), hmem⟩, y, ?_, hyx.trans hhome⟩
  unfold State.task
  rw [v.job_setJob _ f (v.task_lt hx)]
  exact hy

theorem State.enters_setTask (h : s.enters v t home) {f : Task → Task} (hf : ∀ x, (f x).home = x.home) : s.enters (v.setTask t f) t home :=
  State.enters_setJob h fun x hx => ⟨f x, by simp [hx], hf x⟩

theorem State.enters_stepOn (h : s.enters v t home) : s.enters (v.stepOn t.job) t home :=
  State.enters_setJob h fun x hx => ⟨{ x with phases := [] }, by simp [hx], rfl⟩

/-- The opening of an epoch on the way. -/
theorem State.enters_openEpoch (h : s.enters v t home) (hcount : (v.job t.job).groupCount = (s.job t.job).groupCount)
    (hpaths : (v.job t.job).train.paths = (s.job t.job).train.paths) (step : Nat) (spec : Bool) : s.enters (v.openEpoch t.job step spec) t home := by
  obtain ⟨⟨hcores, hothers, hmem⟩, x, hx, hhome⟩ := h
  obtain ⟨u, f, paths, ⟨m, rfl, hm⟩, -, heq⟩ := State.openEpoch_eq (v.task_lt hx) step spec
  rw [hcount, hpaths] at hm
  have hu : s.enters { v with mem := m } t home := ⟨⟨hcores, hothers, fun h0 h1 => (hm ⟨h0, h1⟩).trans (hmem h0 h1)⟩, x, hx, hhome⟩
  rw [heq]
  exact State.enters_setJob hu fun x hx => ⟨x, hx, rfl⟩

/-! ## The registers of the step -/

theorem State.train_stepOn {j : Nat} (hj : j < s.jobs.length) :
    let x := ((s.stepOn j).job j).train
    x.epochReg = (s.job j).train.step ∧ x.step = (s.job j).train.step + 1 ∧ x.openEpoch = (s.job j).train.openEpoch ∧
      x.noSpecAt = (s.job j).train.noSpecAt := by
  unfold State.stepOn
  rw [s.job_setJob _ _ hj]
  exact ⟨rfl, rfl, rfl, rfl⟩

/-- The registers after a step's first EPOCH: the epoch register takes the step, and the step register goes on (R146, R147, R173). -/
theorem State.train_opened {j : Nat} (hj : j < s.jobs.length) (step : Nat) (spec : Bool) :
    let x := (((s.openEpoch j step spec).stepOn j).job j).train
    x.epochReg = (s.job j).train.step ∧ x.step = (s.job j).train.step + 1 ∧
      x.openEpoch = (if spec then some step else (s.job j).train.openEpoch) ∧ x.noSpecAt = if spec then (s.job j).train.noSpecAt else some step := by
  obtain ⟨u, f, paths, ⟨m, rfl, -⟩, hf, heq⟩ := State.openEpoch_eq hj step spec
  obtain ⟨hstep, hopen, hat⟩ := (s.job j).opened_train hf step spec paths
  have hl : j < (s.openEpoch j step spec).jobs.length := by
    rw [heq]
    simpa using hj
  have hjob : (s.openEpoch j step spec).job j = (s.job j).opened f step spec paths := by
    rw [heq]
    exact State.job_setJob _ _ _ hj
  obtain ⟨hreg, hnext, hepoch, hstart⟩ := State.train_stepOn hl
  rw [hjob] at hreg hnext hepoch hstart
  exact ⟨hreg.trans hstep, hnext.trans (congrArg (· + 1) hstep), hepoch.trans hopen, hstart.trans hat⟩

/-! ## The task in its epoch -/

/-- A task in provisional mode, its skip entry recorded (R146, R148). -/
def Task.joined (x : Task) (skip : U64) : Task := { x with atEpoch := true, skipEntry := skip, prov := true }

/-- A job one of whose tasks has executed EPOCH: its step channels go with it into provisional mode (R148). -/
def Job.joined (b : Job) (t : TaskRef) (home : Nat) (skip : U64) : Job :=
  { b with
    tasks := b.tasks.modify t.task fun x => x.joined skip
    chans := b.chans.map fun (c : Chan) => if c.follows t home then { c with prov := true } else c }

theorem State.joinEpoch_eq (v : State) (t : TaskRef) (k : Task) (skip : U64) :
    v.joinEpoch t k skip true = v.setJob t.job fun b => b.joined t k.home skip := v.setJob_setJob _ _

theorem Job.joined_chans {b : Job} {skip : U64} {c : Chan} (hc : c ∈ (b.joined t home skip).chans) (hfollows : c.follows t home = true) : c.prov = true := by
  obtain ⟨x, -, rfl⟩ := List.mem_map.1 hc
  by_cases hx : x.follows t home = true
  · rw [if_pos hx]
  · rw [if_neg hx] at hfollows
    exact absurd hfollows hx

/-- A task on its way that joins: what it may not touch stands, it and its step channels are provisional, and the registers are as it found them. -/
theorem State.joined_of_enters (h : s.enters v t k.home) (skip : U64) :
    s.spares (v.joinEpoch t k skip true) t.job ∧
      (∃ x, (v.joinEpoch t k skip true).task t = some x ∧ x.atEpoch = true ∧ x.skipEntry = skip ∧ x.prov = true ∧ x.home = k.home ∧
        ∀ y ∈ ((v.joinEpoch t k skip true).job t.job).chans, y.follows t k.home = true → y.prov = true) ∧
      ((v.joinEpoch t k skip true).job t.job).train = (v.job t.job).train := by
  obtain ⟨-, x, hx, hhome⟩ := id h
  have hjob := v.job_setJob t.job (fun b => b.joined t k.home skip) (v.task_lt hx)
  rw [State.joinEpoch_eq, hjob]
  refine ⟨(State.enters_setJob h fun y hy => ⟨y.joined skip, by simp [Job.joined, hy], rfl⟩).1,
    ⟨x.joined skip, ?_, rfl, rfl, rfl, hhome, fun y => Job.joined_chans⟩, rfl⟩
  unfold State.task at hx ⊢
  rw [hjob]
  simp [Job.joined, hx]

/-- A task on its way that is to wait without being provisional (R173). -/
theorem State.waits_of_enters (h : s.enters v t home) (f : Task → Task) (hf : ∀ x, (f x).home = x.home) :
    s.spares (v.setTask t f) t.job ∧ (∃ x, (v.setTask t f).task t = some (f x)) ∧ ((v.setTask t f).job t.job).train = (v.job t.job).train := by
  obtain ⟨-, x, hx, -⟩ := id h
  exact ⟨(State.enters_setTask h hf).1, ⟨x, v.task_setTask hx f⟩, by rw [v.job_setTask hx]⟩

/-! ## EPOCH -/

/-- A task that under NO_SPEC waits at EPOCH for the verdict, not provisional (R173). -/
def Task.waiting (x : Task) (skip : U64) : Task := { x with atEpoch := true, skipEntry := skip, prov := false, block := some .verdict }

section Issued

variable (hc : s.canIssue t = true) (hk : s.task t = some k) {skip : U64}

include hk

theorem State.noSpec_did : ((s.did t id).job t.job).noSpec = (s.job t.job).noSpec := by
  rw [State.job_did hk]
  rfl

theorem State.width_did : ((s.did t id).job t.job).width = (s.job t.job).width := by
  rw [State.job_did hk]
  rfl

theorem State.train_did : ((s.did t id).job t.job).train = (s.job t.job).train := by
  rw [State.job_did hk]

theorem State.enters_did : s.enters (s.did t id) t k.home := State.enters_setTask (State.enters_refl hk) fun _ => rfl

theorem State.lt_did : t.job < (s.did t id).jobs.length := State.task_lt _ (s.task_did hk id)

/-- The registers move on the way where the epoch is that of the step register. -/
theorem State.enters_stepped (p : Prop) [Decidable p] : s.enters (if p then (s.did t id).stepOn t.job else s.did t id) t k.home := by
  split
  · exact State.enters_stepOn (State.enters_did hk)
  · exact State.enters_did hk

theorem State.train_stepped (p : Prop) [Decidable p] :
    let x := ((if p then (s.did t id).stepOn t.job else s.did t id).job t.job).train
    x.openEpoch = (s.job t.job).train.openEpoch ∧
      (p → x.epochReg = (s.job t.job).train.step ∧ x.step = (s.job t.job).train.step + 1) ∧ (¬ p → x = (s.job t.job).train) := by
  obtain ⟨hreg, hstep, hepoch, -⟩ := State.train_stepOn (State.lt_did hk)
  rw [State.train_did hk] at hreg hstep hepoch
  split
  · next hp => exact ⟨hepoch, fun _ => ⟨hreg, hstep⟩, fun h => absurd hp h⟩
  · next hp => exact ⟨congrArg Training.openEpoch (State.train_did hk), fun h => absurd h hp, fun _ => State.train_did hk⟩

theorem State.enters_opened (step : Nat) (spec : Bool) : s.enters (((s.did t id).openEpoch t.job step spec).stepOn t.job) t k.home :=
  State.enters_stepOn (State.enters_openEpoch (State.enters_did hk) (by rw [State.job_did hk]; rfl) (by rw [State.train_did hk]) step spec)

include hc

theorem doEpoch_opens (hspec : (s.job t.job).noSpec = false) (hopen : (s.job t.job).train.openEpoch = none) :
    doEpoch t skip s = (((s.did t id).openEpoch t.job (s.job t.job).train.step true).stepOn t.job).joinEpoch t k skip true := by
  simp [doEpoch, s.issue_eq hc hk, State.noSpec_did hk, State.train_did hk, hspec, hopen]

theorem doEpoch_waits (hspec : (s.job t.job).noSpec = false) {e : Nat} (hopen : (s.job t.job).train.openEpoch = some e) (hat : k.atEpoch = true) :
    doEpoch t skip s = (s.hold (.task t) (.epoch t skip)).setTask t fun x => { x with block := some .verdict } := by
  simp [doEpoch, s.issue_eq hc hk, State.noSpec_did hk, State.train_did hk, hspec, hopen, hat]

theorem doEpoch_joins (hspec : (s.job t.job).noSpec = false) {e : Nat} (hopen : (s.job t.job).train.openEpoch = some e) (hat : k.atEpoch = false) :
    doEpoch t skip s =
      (if (s.job t.job).train.step = e then (s.did t id).stepOn t.job else s.did t id).joinEpoch t k skip true := by
  simp [doEpoch, s.issue_eq hc hk, State.noSpec_did hk, State.train_did hk, hspec, hopen, hat]

theorem doEpoch_noSpec_again (hspec : (s.job t.job).noSpec = true) (hstep : (s.job t.job).train.noSpecAt.isSome = true) (hat : k.atEpoch = true) :
    doEpoch t skip s = s := by
  simp [doEpoch, s.issue_eq hc hk, State.noSpec_did hk, State.train_did hk, hspec, hstep, hat]

/-- Under NO_SPEC the task waits without being provisional (R173). -/
theorem doEpoch_noSpec (hspec : (s.job t.job).noSpec = true) (h : (s.job t.job).train.noSpecAt.isSome = false ∨ k.atEpoch = false) :
    doEpoch t skip s = (if (s.job t.job).train.noSpecAt.isSome then s.did t id else
      ((s.did t id).openEpoch t.job (s.job t.job).train.step false).stepOn t.job).setTask t (Task.waiting · skip) := by
  have hwaits : ¬ ((s.job t.job).train.noSpecAt.isSome = true ∧ k.atEpoch = true) := by
    rcases h with h | h <;> simp [h]
  simp only [doEpoch, s.issue_eq hc hk, State.noSpec_did hk, State.train_did hk, hspec, if_true, Bool.and_eq_true, if_neg hwaits, State.joinEpoch,
    Bool.false_eq_true, if_false, State.setTask_setTask, Task.waiting]

end Issued

/-! ## LSEXP -/

/-- 2 to the l is a normal FP32 value with a zero fraction field (R13, R162). -/
theorem scaleBits_eq {l : Int} (hlo : -64 ≤ l) (hhi : l ≤ 64) : scaleBits l = (l + 127).toNat * 2 ^ 23 := by
  have hq : max ((bitLen 1 : Int) - 1 + l) (Fmt.emin .fp32) - (Fmt.frac .fp32 : Nat) = l - 23 := by
    rw [show bitLen 1 = 1 by decide, show Fmt.emin .fp32 = -126 by decide, show Fmt.frac .fp32 = 23 by decide]
    omega
  have hround : roundAt 1 l (l - 23) = 2 ^ 23 := by simp [roundAt]
  have hfits : scaledGt (2 ^ 23) (l - 23) (Fmt.maxFin .fp32).1 (Fmt.maxFin .fp32).2 = false := by
    rw [show Fmt.maxFin .fp32 = (2 ^ 24 - 1, 104) by decide, scaledGt, if_neg (by omega)]
    have hpow : (2 ^ 24 - 1) * 1 ≤ (2 ^ 24 - 1) * 2 ^ (104 - (l - 23)).toNat := Nat.mul_le_mul_left _ Nat.one_le_two_pow
    exact decide_eq_false (Nat.not_lt.2 (le_trans (by norm_num) hpow))
  have hpack : encodeFinite .fp32 false (2 ^ 23) (l - 23) = packFloat .fp32 false (l + 127).toNat 0 := by
    rw [show (l + 127).toNat = (l - 23 + (Fmt.frac .fp32 : Nat) + (Fmt.bias .fp32 : Nat)).toNat by
      rw [show Fmt.frac .fp32 = 23 by decide, show Fmt.bias .fp32 = 127 by decide]; omega]
    rfl
  calc scaleBits l = roundR31 .fp32 false false 1 l := rfl
    _ = packFloat .fp32 false (l + 127).toNat 0 := by simp only [roundR31, hq, hround, hfits, hpack, Bool.false_eq_true, if_false]
    _ = (l + 127).toNat * 2 ^ 23 := by simp [packFloat, show Fmt.frac .fp32 = 23 by decide]

section Issued

variable (hc : s.canIssue t = true) (hk : s.task t = some k) {c : Nat}

include hc hk

theorem doLsexp_eq : doLsexp t s = s.did t fun x =>
    { x with scalar := BitVec.ofNat 64 (scaleBits ((s.job t.job).train.lossOf (s.job t.job).train.step)) } := by
  simp only [doLsexp, s.issue_eq hc hk, State.train_did hk, s.did_setTask]
  rfl

/-! ## NONFIN and CREADY -/

theorem doNonfin_none (h : (s.job t.job).width ≤ c) : doNonfin t c s = s := by
  simp [doNonfin, s.issue_eq hc hk, State.width_did hk, h]

theorem doNonfin_marks (h : c < (s.job t.job).width) : doNonfin t c s = (s.did t id).markNonFinite t.job (s.job t.job).train.step c := by
  simp [doNonfin, s.issue_eq hc hk, State.width_did hk, h, State.train_did hk]

theorem doCready_none (h : (s.job t.job).width ≤ c) : doCready t c s = s := by
  simp [doCready, s.issue_eq hc hk, State.width_did hk, h]

theorem doCready_reports (h : c < (s.job t.job).width) : doCready t c s = ((s.did t id).setStrag t.job fun x =>
    { x with ready := if x.ready.contains ((s.job t.job).train.step, c) then x.ready else x.ready ++ [((s.job t.job).train.step, c)] }).sendReady t.job false := by
  simp only [doCready, s.issue_eq hc hk, State.width_did hk, ge_iff_le, if_neg (Nat.not_le.2 h), State.train_did hk]

end Issued

end Sys2Proof.Machine

open Sys2Proof Sys2Proof.Machine

/-- Settles O50: an EPOCH that does more than wait leads its task into the epoch by way of the opening, the registers or both; the other rows are
one change each. -/
theorem trainingInstructionsOpenTheStepAndReport : Obligations.TrainingInstructionsOpenTheStepAndReport := by
  intro s t k skip c hc hk j b n u calm joins
  refine ⟨fun hspec hopen => ?opens, fun hspec e hopen => ⟨fun hat => ?waits, fun hat => ?joins⟩,
    fun hspec => ⟨fun hstep hat => ?again, fun h => ?noSpec⟩, fun h => ⟨?nonfinNone, ?creadyNone⟩, fun h => ⟨?nonfin, ?cready⟩, fun l hlo hhi hl => ?lsexp⟩
  case opens =>
    obtain ⟨hspares, hjoins, htrain⟩ := State.joined_of_enters (State.enters_opened hk n true) skip
    obtain ⟨hreg, hstep, hepoch, -⟩ := State.train_opened (State.lt_did hk) n true
    rw [State.train_did hk, ← htrain] at hreg hstep
    rw [← htrain] at hepoch
    exact ⟨_, congrArg s.become (doEpoch_opens hc hk hspec hopen), hspares, hjoins, hepoch, hreg, hstep⟩
  case waits => exact congrArg s.become (doEpoch_waits hc hk hspec hopen hat)
  case joins =>
    obtain ⟨hspares, hjoins, htrain⟩ := State.joined_of_enters (State.enters_stepped hk (n = e)) skip
    obtain ⟨hepoch, hmoved, hkept⟩ := State.train_stepped hk (n = e)
    rw [← htrain] at hepoch hmoved hkept
    exact ⟨_, congrArg s.become (doEpoch_joins hc hk hspec hopen hat), hspares, hjoins, hepoch.trans hopen, hmoved, hkept⟩
  case again => exact s.become_of_eq (doEpoch_noSpec_again hc hk hspec hstep hat)
  case noSpec =>
    have heq := congrArg s.become (doEpoch_noSpec (skip := skip) hc hk hspec h)
    by_cases hstep : b.train.noSpecAt.isSome = true
    · rw [if_pos hstep] at heq
      obtain ⟨hspares, ⟨x, hx⟩, htrain⟩ := State.waits_of_enters (State.enters_did hk) (Task.waiting · skip) fun _ => rfl
      rw [State.train_did hk] at htrain
      exact ⟨_, heq, hspares, congrArg Training.openEpoch htrain, ⟨_, hx, rfl, rfl, rfl, rfl⟩,
        fun hnone => by simp [hnone] at hstep, fun _ => htrain⟩
    · rw [if_neg hstep] at heq
      obtain ⟨hspares, ⟨x, hx⟩, htrain⟩ := State.waits_of_enters (State.enters_opened hk n false) (Task.waiting · skip) fun _ => rfl
      obtain ⟨hreg, hnext, hepoch, hat⟩ := State.train_opened (State.lt_did hk) n false
      rw [State.train_did hk, ← htrain] at hreg hnext hepoch
      rw [← htrain] at hat
      exact ⟨_, heq, hspares, hepoch, ⟨_, hx, rfl, rfl, rfl, rfl⟩, fun _ => ⟨hreg, hnext, hat⟩, fun h => absurd h hstep⟩
  case nonfinNone => exact s.become_of_eq (doNonfin_none hc hk h)
  case creadyNone => exact s.become_of_eq (doCready_none hc hk h)
  case nonfin => exact congrArg s.become (doNonfin_marks hc hk h)
  case cready => exact congrArg s.become (doCready_reports hc hk h)
  case lsexp =>
    have hloss : b.train.lossOf n = l := by
      rcases hl with ⟨hn, rfl⟩ | ⟨hn, rfl⟩ <;> simp [Training.lossOf, hn]
    rw [← scaleBits_eq hlo hhi, ← hloss]
    exact congrArg s.become (doLsexp_eq hc hk)

end

section
/-! SUPPORT. What a verdict leaves of the job that it judges (R153 to R155, R157, R162, R163, R173): the open epoch committed or discarded, and the
loss exponents moved. -/

namespace Sys2Proof.Machine

variable {s : State} {j : Nat}

theorem State.keep_job (s u : State) (j : Nat) : (s.keep u).job j = u.job j := rfl

theorem State.job_setJob_of {b : Job} (hb : s.job j = b) (hj : j < s.jobs.length) (f : Job → Job) : (s.setJob j f).job j = f b :=
  hb ▸ s.job_setJob j f hj

/-! ## Messages and records -/

/-- Sending a message leaves every job. -/
theorem State.send_jobs {cls : Nat} {m : Msg} {p : Nat} {u : State} (h : s.send cls m = some (p, u)) : u.jobs = s.jobs := by
  unfold State.send at h
  split at h
  · cases h
  · split at h
    · cases h
    · split at h
      · cases h
        rfl
      · cases h

theorem State.control_jobs (s : State) (j : Nat) (d : U32) (kind : Nat) (body : List Nat) : (s.control j d kind body).jobs = s.jobs := by
  unfold State.control
  split
  · rfl
  · dsimp only
    split
    · next h => exact State.send_jobs h
    · rfl

theorem State.toChildren_jobs (s : State) (j kind : Nat) (body : List Nat) : (s.toChildren j kind body).jobs = s.jobs := by
  unfold State.toChildren
  split
  · exact List.foldlRecOn (motive := fun (u : State) => u.jobs = s.jobs) _ _ rfl fun u hu d _ => (u.control_jobs j d kind body).trans hu
  · rfl

theorem State.toChildren_job (s : State) (j kind : Nat) (body : List Nat) (i : Nat) : (s.toChildren j kind body).job i = s.job i :=
  State.job_of_jobs (s.toChildren_jobs j kind body) i

theorem State.toChildren_mem (s : State) (j kind : Nat) (body : List Nat) : (s.toChildren j kind body).mem = s.mem := by
  obtain ⟨-, -, -, hmem, -⟩ := State.calm_congr (s.calm_toChildren j kind body)
  exact hmem

/-- The step record goes to host memory, or trips the host-window ward. -/
theorem State.writeRecord_fields (s : State) (j step : Nat) (rec : Bytes) :
    (s.writeRecord j step rec).jobs = s.jobs ∧ (s.writeRecord j step rec).mem = s.mem := by
  unfold State.writeRecord
  dsimp only
  split
  · exact ⟨rfl, rfl⟩
  · split
    · obtain ⟨-, -, hjobs, hmem, -⟩ := s.wardTrip_frame 3
      exact ⟨hjobs, hmem⟩
    · exact ⟨rfl, rfl⟩

/-! ## COMMIT -/

theorem State.releaseHeld_none (h : (s.job j).train.heldMsgs = []) : s.releaseHeld j = s := by
  unfold State.releaseHeld
  rw [h]
  exact s.setTrain_same j _ (by simp [← h])

/-- The training part with the owner of every dirty page flipped, and no page dirty or line tagged (R153). -/
def Training.flipped (t : Training) : Training :=
  { t with owner := (t.owner.filter fun p => !t.dirty.contains p) ++ t.dirty.filter fun p => !t.owner.contains p, dirty := [], tagged := [] }

theorem Training.mem_flipped {t : Training} {p : Nat} : p ∈ t.flipped.owner ↔ (p ∈ t.owner ∧ p ∉ t.dirty) ∨ (p ∈ t.dirty ∧ p ∉ t.owner) := by
  simp [Training.flipped]

/-- A job whose open epoch has become its committed state (R153, R157, R173, R228). -/
def Job.committedAt (b : Job) (step : Nat) : Job :=
  let t := b.train
  { b with
    train := { t.flipped with
      updates := t.updates + 1, committed := some step, resolved := some (step, true), openEpoch := none, noSpecAt := none
      sumsDone := if t.noSpecAt.isNone then t.sums else [], pathsDone := if t.noSpecAt.isNone then t.paths else []
      fingerprintsDone := if t.noSpecAt.isNone then t.fingerprints else [], ratioStep := some step }
    chans := b.chans.map fun (c : Chan) => { c with prov := false }
    tasks := b.tasks.map fun (k : Task) => { k with prov := false, atEpoch := false, block := if k.block = some .verdict then none else k.block }
    colls := b.colls.map fun (c : Coll) => { c with active := c.active.map fun (i : CollInstance) => { i with prov := false } } }

/-- A task out of provisional mode that no longer waits for a verdict (R154, R155). -/
def Task.freed (k : Task) : Prop := k.prov = false ∧ k.atEpoch = false ∧ k.block ≠ some .verdict

theorem Task.freed_of_resolved (k : Task) :
    Task.freed { k with prov := false, atEpoch := false, block := if k.block = some .verdict then none else k.block } := by
  refine ⟨rfl, rfl, ?_⟩
  dsimp only
  split
  · exact fun h => nomatch h
  · next hk => exact hk

theorem Job.committedAt_tasks {b : Job} {step : Nat} {k : Task} (hk : k ∈ (b.committedAt step).tasks) : k.freed := by
  obtain ⟨x, -, rfl⟩ := List.mem_map.1 hk
  exact x.freed_of_resolved

/-- COMMIT of a job without held accesses: the job commits, and memory changes only where a group has a path that FORM is to match (R170). -/
theorem State.commitEpoch_fields (hj : j < s.jobs.length) (hheld : (s.job j).train.heldMsgs = []) (step : Nat) :
    (s.commitEpoch j step).job j = (s.job j).committedAt step ∧ ((s.job j).train.paths = [] → (s.commitEpoch j step).mem = s.mem) ∧
      (s.commitEpoch j step).jobs.length = s.jobs.length := by
  have hforms (u : State) : u.memOnly (if (s.job j).train.noSpecAt.isNone then u.setForms j else u) ((u.job j).train.paths = []) := by
    split
    · exact u.setForms_memOnly j
    · exact State.memOnly_refl
  unfold State.commitEpoch
  dsimp only
  generalize hu : s.setTrain j _ = u
  have hjob : u.job j = { s.job j with train := (s.job j).train.flipped } := hu ▸ State.job_setJob _ _ _ hj
  have hlen : u.jobs.length = s.jobs.length := by simp [← hu, State.setTrain]
  have hmem : u.mem = s.mem := by simp [← hu]
  obtain ⟨m, hm, hstill⟩ := hforms u
  rw [hm]
  rw [State.releaseHeld_none]
  · exact ⟨State.job_setJob_of hjob (hlen ▸ hj) _, fun hpaths => (hstill (by rw [hjob]; exact hpaths)).trans hmem, (List.length_modify ..).trans hlen⟩
  · refine (congrArg (fun b => b.train.heldMsgs) (State.job_setJob_of hjob (hlen ▸ hj) _)).trans ?_
    exact hheld

/-! ## SKIP -/

/-- Lines of 64 bytes zeroed one after another (R154). -/
theorem cellGet_zeroLines (lines : List Nat) {m : Memory} (hm : m.wf = true) (key : Nat) :
    cellGet (lines.foldl (fun m l => m.zero (64 * l) 64) m).cells key = if key / 64 ∈ lines then 0 else cellGet m.cells key := by
  induction lines generalizing m with
  | nil => simp
  | cons l lines ih =>
    rw [List.foldl_cons, ih (Memory.zero_wf _ _ hm), Memory.zero_cells, cellGet_cellZero _ _ _ hm]
    have hline : (64 * l ≤ key ∧ key < 64 * l + 64) ↔ key / 64 = l := by omega
    simp only [hline, List.mem_cons]
    split_ifs <;> simp_all

/-- A job whose open epoch has been discarded (R154, R228). -/
def Job.discarded (b : Job) : Job :=
  { b with
    train := { b.train with dirty := [], tagged := [], heldMsgs := [], openEpoch := none, sums := [], paths := [], fingerprints := [] }
    chans := b.chans.map fun (c : Chan) => { c with prov := false }
    tasks := b.tasks.map fun (t : Task) => { t with prov := false, atEpoch := false, block := if t.block = some .verdict then none else t.block }
    colls := b.colls.map fun (c : Coll) => { c with
      active := c.active.filter fun i => !i.prov
      inStep := (0, 0)
      started := if c.active.any (·.prov) ∨ b.train.openEpoch.isSome then c.startedAtOpen else c.started } }

/-- The discard of an epoch with no held accesses: the tagged lines are zeroed. -/
theorem State.discard_fields (hj : j < s.jobs.length) (hheld : (s.job j).train.heldMsgs = []) :
    (s.discard j).job j = (s.job j).discarded ∧ (s.discard j).mem = (s.job j).train.tagged.foldl (fun m l => m.zero (64 * l) 64) s.mem ∧
      (s.discard j).jobs.length = s.jobs.length := by
  unfold State.discard
  dsimp only
  rw [hheld, List.foldl_nil, State.foldl_setMem]
  exact ⟨State.job_setJob_of rfl hj _, rfl, List.length_modify ..⟩

/-- A job whose step has been skipped: its epoch is discarded, and no update follows (R154, R163). -/
def Job.skippedAt (b : Job) (step : Nat) : Job :=
  { b.discarded with train := { b.discarded.train with
    resolved := some (step, false), noSpecAt := none, sumsDone := [], pathsDone := [], fingerprintsDone := [], ratioStep := none } }

theorem Job.skippedAt_tasks {b : Job} {step : Nat} {k : Task} (hk : k ∈ (b.skippedAt step).tasks) : k.freed := by
  obtain ⟨x, -, rfl⟩ := List.mem_map.1 hk
  exact x.freed_of_resolved

/-- A job's provisional tasks are among those that a skip restarts. -/
theorem Job.provSet_tasks {b : Job} {i : Nat} {k : Task} (hk : b.tasks[i]? = some k) (hp : k.prov = true) : (b.provSet j).tasks.contains i = true := by
  obtain ⟨hi, rfl⟩ := List.getElem?_eq_some_iff.1 hk
  simp [Job.provSet, hi, hp]

/-- A job whose agents have been restarted: only tasks, channels and collectives change, and each provisional task starts at its skip entry (R154). -/
def Job.restartsTo (b r : Job) : Prop :=
  (∃ ts cs xs, r = { b with tasks := ts, chans := cs, colls := xs } ∧ xs.length = b.colls.length) ∧
    ∀ (i : Nat) k, b.tasks[i]? = some k → k.prov = true → ∃ k', r.tasks[i]? = some k' ∧ k'.resume = some k.skipEntry

theorem Job.skippedAt_resumes {b r : Job} {step i : Nat} {k : Task} (h : b.restartsTo r) (hk : b.tasks[i]? = some k) (hp : k.prov = true) :
    ∃ k', (r.skippedAt step).tasks[i]? = some k' ∧ k'.resume = some k.skipEntry := by
  obtain ⟨-, hstarts⟩ := h
  obtain ⟨k', hk', hresume⟩ := hstarts i k hk hp
  exact ⟨_, List.getElem?_map.trans (congrArg _ hk'), hresume⟩

/-- SKIP of a job without held accesses: its agents restart, its epoch is discarded and the tagged lines are zeroed. -/
theorem State.skipEpoch_fields (hj : j < s.jobs.length) (hheld : (s.job j).train.heldMsgs = []) (step : Nat) :
    ∃ r, (s.job j).restartsTo r ∧ (s.skipEpoch j step).job j = r.skippedAt step ∧
      (s.skipEpoch j step).mem = (s.job j).train.tagged.foldl (fun m l => m.zero (64 * l) 64) s.mem ∧
      (s.skipEpoch j step).jobs.length = s.jobs.length := by
  obtain ⟨hmem, -, -, -, hlen, ⟨ts, cs, xs, hr, hxs, htasks⟩, -⟩ := s.restart_fields j ((s.job j).provSet j) hj
  generalize hu : s.restart j ((s.job j).provSet j) = u at *
  have hheld' : (u.job j).train.heldMsgs = [] := by rw [hr]; exact hheld
  obtain ⟨hjob, hzero, hlen'⟩ := State.discard_fields (hlen ▸ hj) hheld'
  unfold State.skipEpoch
  dsimp only
  rw [hu]
  refine ⟨u.job j, ⟨⟨ts, cs, xs, hr, hxs⟩, fun i k hk hp => ?_⟩, ?_, ?_, ?_⟩
  · obtain ⟨k', hk', -, -, -, hresume⟩ := htasks i k hk
    exact ⟨k', by rw [hr]; exact hk', hresume (Job.provSet_tasks hk hp)⟩
  · exact State.job_setJob_of hjob (by rw [hlen', hlen]; exact hj) _
  · rw [State.setTrain_mem, hzero, hmem, hr]
  · exact (List.length_modify ..).trans (hlen'.trans hlen)

/-! ## The loss exponents (R162) -/

theorem Job.lossAfter_commit (b : Job) : (b.lossAfter 1).loss = b.train.lossNext ∧
    (b.train.clean + 1 < b.cleanLimit → (b.lossAfter 1).lossNext = b.train.lossNext ∧ (b.lossAfter 1).clean = b.train.clean + 1 ∧ (b.lossAfter 1).raise = false) ∧
    (b.cleanLimit ≤ b.train.clean + 1 →
      (b.lossAfter 1).lossNext = max (-64) (min 64 (b.train.lossNext + b.up)) ∧ (b.lossAfter 1).clean = 0 ∧ (b.lossAfter 1).raise = true) := by
  refine ⟨rfl, fun h => ?_, fun h => ?_⟩
  · simp [Job.lossAfter, Nat.not_le.2 h]
  · simp [Job.lossAfter, h, clampLoss]

theorem Job.lossAfter_short (b : Job) : (b.lossAfter 3).loss = b.train.lossNext ∧ (b.lossAfter 3).lossNext = b.train.lossNext ∧
    (b.lossAfter 3).clean = b.train.clean := ⟨rfl, rfl, rfl⟩

theorem Job.lossAfter_nonFinite (b : Job) {code : Nat} (h : code = 2 ∨ code = 4) : (b.lossAfter code).loss = max (-64) (min 64 (b.train.loss - b.down)) ∧
    (b.lossAfter code).lossNext = (b.lossAfter code).loss ∧ (b.lossAfter code).clean = 0 := by
  rcases h with rfl | rfl <;> exact ⟨rfl, rfl, rfl⟩

/-- Only the loss exponents, the clean count and the pending raise move. -/
theorem Job.lossAfter_eq (b : Job) (code : Nat) : ∃ prev l next n up,
    b.lossAfter code = { b.train with lossPrev := prev, loss := l, lossNext := next, clean := n, raise := up } := by
  unfold Job.lossAfter
  split
  · exact ⟨_, _, _, _, _, rfl⟩
  · split <;> exact ⟨_, _, _, _, _, rfl⟩

/-! ## The verdict applied -/

/-- A job at whose verdict nothing else is due: no collective, stop, loan or drain. -/
def Job.idleAtVerdict (b : Job) : Prop := b.colls = [] ∧ b.stopper = none ∧ b.vecLoan = none ∧ ∀ y, b.member = some y → y.drains = []

theorem Job.idleAtVerdict_committedAt {b : Job} (h : b.idleAtVerdict) (step : Nat) : (b.committedAt step).idleAtVerdict := by
  obtain ⟨hcolls, hrest⟩ := h
  exact ⟨congrArg (List.map _) hcolls, hrest⟩

theorem Job.idleAtVerdict_skippedAt {b r : Job} (h : b.idleAtVerdict) (hr : b.restartsTo r) (step : Nat) : (r.skippedAt step).idleAtVerdict := by
  obtain ⟨hcolls, hrest⟩ := h
  obtain ⟨⟨ts, cs, xs, rfl, hxs⟩, -⟩ := hr
  have hnone : xs = [] := List.length_eq_zero_iff.1 (by rw [hxs, hcolls]; rfl)
  exact ⟨congrArg (List.map _) hnone, hrest⟩

/-- A job after its verdict (R162, R163). -/
def Job.judgedBy (b : Job) (v : VerdictMsg) (high : List Nat) : Job :=
  { b with strag := b.strag.after v.step (v.code == 1), train := { b.lossAfter v.code with judged := v.step + 1, ratioHigh := high } }

section Idle

variable (h : (s.job j).idleAtVerdict)

include h

theorem State.collRetryAll_idle : s.collRetryAll j = s := by
  obtain ⟨hcolls, -⟩ := h
  unfold State.collRetryAll
  rw [hcolls]
  rfl

theorem State.vecVerdict_idle : s.vecVerdict j = s := by
  obtain ⟨-, -, hvec, -⟩ := h
  unfold State.vecVerdict
  rw [hvec]

theorem State.drain_idle : s.drain j = s := by
  obtain ⟨-, -, -, hdrains⟩ := h
  unfold State.drain
  split
  · rfl
  · next m hm =>
    dsimp only
    rw [hdrains m hm]
    exact ite_self _

theorem State.stopAfter_idle (ps : ProvSet) : s.stopAfter j ps = s := by
  obtain ⟨-, hstop, -, -⟩ := h
  unfold State.stopAfter
  rw [hstop]

end Idle

/-- A verdict applied with nothing else due: after COMMIT or SKIP the job's registers move and the record is written, and that is all. -/
theorem State.applyVerdict_idle {v : VerdictMsg} {u : State} (hu : (if v.code == 1 then s.commitEpoch j v.step else s.skipEpoch j v.step) = u)
    (hl : j < u.jobs.length) (hidle : (u.job j).idleAtVerdict) :
    (s.applyVerdict j v).mem = u.mem ∧ ∃ high, (s.applyVerdict j v).job j = (u.job j).judgedBy v high := by
  unfold State.applyVerdict
  dsimp only
  rw [hu]
  generalize List.map _ _ = high
  generalize hw : State.writeRecord _ j v.step _ = w
  obtain ⟨hjobs, hmem⟩ := hw ▸ State.writeRecord_fields _ j v.step _
  have hjob : w.job j = (u.job j).judgedBy v high := (State.job_of_jobs hjobs j).trans (State.job_setJob_of rfl hl _)
  have hidle' : (w.job j).idleAtVerdict := hjob ▸ hidle
  rw [State.collRetryAll_idle hidle', State.vecVerdict_idle hidle', State.drain_idle hidle', ite_self, State.stopAfter_idle hidle']
  obtain ⟨hmem', -, hjobs'⟩ := w.touchShadow_fields
  exact ⟨hmem'.trans hmem, high, (State.job_of_jobs hjobs' j).trans hjob⟩

/-- What a verdict moves of the training part: the judged step, the loss exponents, the clean count and the pending raise; the rest stands. -/
theorem Job.judgedBy_train (b : Job) (v : VerdictMsg) (high : List Nat) :
    let z := (b.judgedBy v high).train
    (z.owner = b.train.owner ∧ z.dirty = b.train.dirty ∧ z.tagged = b.train.tagged ∧ z.openEpoch = b.train.openEpoch ∧ z.noSpecAt = b.train.noSpecAt ∧
      z.updates = b.train.updates ∧ z.committed = b.train.committed ∧ z.resolved = b.train.resolved ∧ z.step = b.train.step) ∧
    z.judged = v.step + 1 ∧ z.loss = (b.lossAfter v.code).loss ∧ z.lossNext = (b.lossAfter v.code).lossNext ∧
      z.clean = (b.lossAfter v.code).clean ∧ z.raise = (b.lossAfter v.code).raise := by
  refine ⟨?_, rfl, rfl, rfl, rfl, rfl⟩
  obtain ⟨prev, l, next, n, up, heq⟩ := b.lossAfter_eq v.code
  unfold Job.judgedBy
  rw [heq]
  exact ⟨rfl, rfl, rfl, rfl, rfl, rfl, rfl, rfl, rfl⟩

section Applied

variable (hj : j < s.jobs.length) (hheld : (s.job j).train.heldMsgs = []) (hidle : (s.job j).idleAtVerdict) {v : VerdictMsg}

include hj hheld hidle

theorem State.applyVerdict_commits (hv : v.code = 1) : ((s.job j).train.paths = [] → (s.applyVerdict j v).mem = s.mem) ∧
    ∃ high, (s.applyVerdict j v).job j = ((s.job j).committedAt v.step).judgedBy v high := by
  obtain ⟨hjob, hmem, hlen⟩ := State.commitEpoch_fields hj hheld v.step
  obtain ⟨hmem', high, hjob'⟩ := State.applyVerdict_idle (u := s.commitEpoch j v.step) (if_pos (beq_iff_eq.2 hv)) (hlen ▸ hj)
    (hjob ▸ Job.idleAtVerdict_committedAt hidle v.step)
  exact ⟨fun hpaths => hmem'.trans (hmem hpaths), high, hjob ▸ hjob'⟩

theorem State.applyVerdict_skips (hv : v.code ≠ 1) :
    (s.applyVerdict j v).mem = (s.job j).train.tagged.foldl (fun m l => m.zero (64 * l) 64) s.mem ∧
    ∃ r high, (s.job j).restartsTo r ∧ (s.applyVerdict j v).job j = (r.skippedAt v.step).judgedBy v high := by
  obtain ⟨r, hr, hjob, hmem, hlen⟩ := State.skipEpoch_fields hj hheld v.step
  obtain ⟨hmem', high, hjob'⟩ := State.applyVerdict_idle (u := s.skipEpoch j v.step) (if_neg (mt beq_iff_eq.1 hv)) (hlen ▸ hj)
    (hjob ▸ Job.idleAtVerdict_skippedAt hidle hr v.step)
  exact ⟨hmem'.trans hmem, r, high, hr, hjob ▸ hjob'⟩

end Applied

end Sys2Proof.Machine
end

section
/-! SUPPORT. VERDICT (R160, R161, R363, R364): which verdicts are judged, what the deciding module combines, and what the comparison of fingerprints
makes of it. -/

namespace Sys2Proof.Machine

variable {s : State} {j : Nat} {v : VerdictMsg}

/-! ## Combination (R160, R161) -/

theorem State.combined_elsewhere (h : s.decides j = false) : s.combined j v = v := by simp [State.combined, h]

/-- At the module that decides, the code is that of two findings: a contributor included in the step is not finite, and the quorum is short. -/
theorem State.combined_decides (h : s.decides j = true) : (s.combined j v).step = v.step ∧
    ∃ bad short, (s.combined j v).code = verdictCode bad short ∧
      (bad = true ↔ ∃ c, (c ∈ v.nonFinite ∨ (v.step, c) ∈ (s.job j).strag.nonFinite) ∧ (s.job j).includes v.step c = true) ∧
      (short = true ↔ (s.job j).includedCount v.step < (s.job j).quorum) := by
  unfold State.combined
  rw [h]
  refine ⟨rfl, _, _, rfl, ?_, decide_eq_true_iff⟩
  have hown (c : Nat) : c ∈ ((s.job j).strag.nonFinite.filter fun x => x.1 == v.step).map (·.2) ↔ (v.step, c) ∈ (s.job j).strag.nonFinite := by
    simp [and_comm]
  simp only [List.any_eq_true, List.mem_dedup, List.mem_append, hown, or_comm]

/-! ## The row -/

/-- A verdict is for the job and step that it judges (R160, R162, R312). -/
def Job.takesVerdict (b : Job) (j : Nat) (v : VerdictMsg) : Prop := j < 64 ∧ b.loaded = true ∧ v.step = b.train.judged ∧ b.state ≠ 7 ∧ b.state ≠ 8

theorem doVerdict_ignored (h : ¬ (s.job j).takesVerdict j v) : doVerdict j v s = s := by
  unfold doVerdict
  dsimp only
  rw [if_pos]
  by_contra hc
  simp only [not_or, ge_iff_le, not_le, Bool.not_eq_true', Bool.not_eq_false, not_not] at hc
  exact h hc

section Taken

variable (ht : (s.job j).takesVerdict j v)

include ht

theorem Job.takesVerdict_guard : ¬ (j ≥ 64 ∨ (!(s.job j).loaded) = true ∨ v.step ≠ (s.job j).train.judged ∨ (s.job j).state = 7 ∨ (s.job j).state = 8) := by
  obtain ⟨h64, hloaded, hstep, h7, h8⟩ := ht
  simp [h64, hloaded, hstep, h7, h8]

/-- A verdict that comes before its epoch is open here, or while the job does not run, waits once (R160). -/
theorem doVerdict_early (h : ¬ ((s.job j).train.openEpoch = some v.step ∨ (s.job j).train.noSpecAt = some v.step) ∨
    ((s.job j).state ≠ 3 ∧ (s.job j).state ≠ 4)) :
    doVerdict j v s = if s.waiting.contains (.other, .verdict j v) then s else s.hold .other (.verdict j v) := by
  unfold doVerdict
  dsimp only
  rw [if_neg (Job.takesVerdict_guard ht)]
  rw [not_or] at h
  rcases h with h | h
  · rw [if_pos h]
  · rw [if_pos h, ite_self]

variable (hbegun : (s.job j).train.openEpoch = some v.step ∨ (s.job j).train.noSpecAt = some v.step) (hlive : (s.job j).state = 3 ∨ (s.job j).state = 4)

include hbegun hlive

/-- Nothing holds back a verdict for an epoch that is open in a job that runs or stops. -/
theorem doVerdict_guards : ¬ (j ≥ 64 ∨ (!(s.job j).loaded) = true ∨ v.step ≠ (s.job j).train.judged ∨ (s.job j).state = 7 ∨ (s.job j).state = 8) ∧
    ¬ ((s.job j).train.openEpoch ≠ some v.step ∧ (s.job j).train.noSpecAt ≠ some v.step) ∧ ¬ ((s.job j).state ≠ 3 ∧ (s.job j).state ≠ 4) :=
  ⟨Job.takesVerdict_guard ht, by tauto, by omega⟩

theorem doVerdict_counts {n : Nat} (h : s.printCase j (s.combined j v) = .wait n) :
    doVerdict j v s = s.setHealth fun x => { x with fingerprint := sat16 (x.fingerprint + n) } := by
  obtain ⟨hfor, hopen, hruns⟩ := doVerdict_guards ht hbegun hlive
  simp only [doVerdict, if_neg hfor, if_neg hopen, if_neg hruns, h]

theorem doVerdict_diverges {classes slots : List Nat} (h : s.printCase j (s.combined j v) = .diverged classes slots) :
    doVerdict j v s = (s.toChildren j 0xB (verdictBody (s.combined j v))).diverge j (s.combined j v).step classes slots := by
  obtain ⟨hfor, hopen, hruns⟩ := doVerdict_guards ht hbegun hlive
  simp only [doVerdict, if_neg hfor, if_neg hopen, if_neg hruns, h]

theorem doVerdict_rehashed {slots : List Nat} (h : s.printCase j (s.combined j v) = .hashing slots) :
    doVerdict j v s = (if ((s.job j).ownSlots.any fun n => slots.contains n) = true
      then (s.toChildren j 0xB (verdictBody (s.combined j v))).testTransient
      else s.toChildren j 0xB (verdictBody (s.combined j v))).applyVerdict j (s.combined j v) := by
  obtain ⟨hfor, hopen, hruns⟩ := doVerdict_guards ht hbegun hlive
  simp only [doVerdict, if_neg hfor, if_neg hopen, if_neg hruns, h]

theorem doVerdict_agrees (h : s.printCase j (s.combined j v) = .agree) :
    doVerdict j v s = (s.toChildren j 0xB (verdictBody (s.combined j v))).applyVerdict j (s.combined j v) := by
  obtain ⟨hfor, hopen, hruns⟩ := doVerdict_guards ht hbegun hlive
  simp only [doVerdict, if_neg hfor, if_neg hopen, if_neg hruns, h]

end Taken

end Sys2Proof.Machine

open Sys2Proof Sys2Proof.Machine

/-- Settles O53: a verdict is judged by its findings and the comparison of fingerprints; applied with nothing else due, the job it leaves is the
committed or the skipped one with its registers moved. -/
theorem verdictsCommitOrSkipTheStep : Obligations.VerdictsCommitOrSkipTheStep := by
  intro s j v b x i w applies bad short begun
  refine ⟨fun h => ?ignored, fun ht h => ?early, State.combined_elsewhere, fun hd => ?code, fun ht hbegun hlive =>
    ⟨fun n h => ?counts, fun classes slots h => ?diverges, fun slots h => ?rehashed, fun h hj hcolls hheld hstop hvec hdrains => ?agrees⟩⟩
  case ignored => exact s.become_of_eq (doVerdict_ignored h)
  case early => exact congrArg s.become (doVerdict_early ht h)
  case code =>
    obtain ⟨hstep, nonFinite, few, hcode, hbad, hshort⟩ := State.combined_decides hd
    refine ⟨hstep, fun h1 h2 => ?_, fun h1 h2 => ?_, fun h1 h2 => ?_, fun h1 h2 => ?_⟩
    · rw [hcode, Bool.eq_false_iff.2 (mt hbad.1 h1), Bool.eq_false_iff.2 (mt hshort.1 h2)]
      rfl
    · rw [hcode, hbad.2 h1, Bool.eq_false_iff.2 (mt hshort.1 h2)]
      rfl
    · rw [hcode, Bool.eq_false_iff.2 (mt hbad.1 h1), hshort.2 h2]
      rfl
    · rw [hcode, hbad.2 h1, hshort.2 h2]
      rfl
  case counts => exact congrArg s.become (doVerdict_counts ht hbegun hlive h)
  case diverges => exact congrArg s.become (doVerdict_diverges ht hbegun hlive h)
  case rehashed => exact congrArg s.become (doVerdict_rehashed ht hbegun hlive h)
  case agrees =>
    have heq := congrArg s.become (doVerdict_agrees ht hbegun hlive h)
    have hsent : (s.toChildren j 0xB (verdictBody w)).job j = b := s.toChildren_job j _ _ j
    have hj' : j < (s.toChildren j 0xB (verdictBody w)).jobs.length := (s.toChildren_jobs j _ _) ▸ hj
    have hidle : b.idleAtVerdict := ⟨hcolls, hstop, hvec, hdrains⟩
    refine ⟨fun hcode => ⟨_, heq, ?commit⟩, fun hcode hwf => ⟨_, heq, ?skip⟩⟩
    case commit =>
      obtain ⟨hmem, high, hjob⟩ := State.applyVerdict_commits hj' (hsent ▸ hheld) (hsent ▸ hidle) hcode
      rw [hsent, s.toChildren_mem] at hmem
      rw [hsent] at hjob
      obtain ⟨⟨howner, hdirty, htagged, hopen, hat, hupdates, hcommitted, hresolved, hstep⟩, hjudged, hloss, hnext, hclean, hraise⟩ :=
        (b.committedAt w.step).judgedBy_train w high
      obtain ⟨hlossC, hbelow, hfull⟩ := (b.committedAt w.step).lossAfter_commit
      rw [hcode] at hloss hnext hclean hraise
      rw [← hnext, ← hclean, ← hraise] at hbelow hfull
      dsimp only
      rw [(s.keep_job _ j).trans hjob]
      exact ⟨fun p => howner ▸ Training.mem_flipped, hdirty, htagged, hmem, hopen, hat, hupdates, hcommitted, hresolved, hjudged, hstep,
        hloss.trans hlossC, hbelow, hfull, rfl, fun k => Job.committedAt_tasks (step := w.step)⟩
    case skip =>
      obtain ⟨hmem, r, high, hr, hjob⟩ := State.applyVerdict_skips hj' (hsent ▸ hheld) (hsent ▸ hidle) hcode
      rw [hsent, s.toChildren_mem] at hmem
      rw [hsent] at hr
      obtain ⟨⟨howner, hdirty, htagged, hopen, hat, hupdates, hcommitted, hresolved, hstep⟩, hjudged, hloss, hnext, hclean, -⟩ :=
        (r.skippedAt w.step).judgedBy_train w high
      have hresumes (n : Nat) (k : Task) := Job.skippedAt_resumes (step := w.step) (i := n) (k := k) hr
      dsimp only
      rw [(s.keep_job _ j).trans hjob]
      obtain ⟨⟨ts, cs, xs, rfl, -⟩, -⟩ := hr
      refine ⟨howner, hdirty, htagged, fun key => ?bytes, hopen, hat, hupdates, hcommitted, hresolved, hjudged, hstep, fun hshort => ?short,
        fun hbad => ?nonFinite, rfl, fun k => Job.skippedAt_tasks (step := w.step), hresumes⟩
      case bytes => exact (congrArg (fun m : Memory => cellGet m.cells key) hmem).trans (cellGet_zeroLines x.tagged hwf key)
      case short =>
        rw [hshort] at hloss hnext hclean
        exact ⟨hloss, hnext, hclean⟩
      case nonFinite =>
        obtain ⟨hlossS, hnextS, hcleanS⟩ := Job.lossAfter_nonFinite _ hbad
        exact ⟨hloss.trans hlossS, hnext.trans (hnextS.trans hloss.symm), hclean.trans hcleanS⟩

end

section
/-! SUPPORT. Changes of one port (R184, R185, R190 to R193, R209): what a training, a retrain, a resend and a failure leave, but for the keeper,
health and the notices that they send. -/

namespace Sys2Proof.Machine

variable {s u v : State} {p cause : Nat} {f g : Port → Port} {r : TrainResult}

/-! ## A state with one port changed -/

/-- The second state is the first with port `p` changed by `f`, but for the keeper, health and notices. -/
def State.movesPort (s u : State) (p : Nat) (f : Port → Port) : Prop :=
  ∃ (K : Keeper) (H : Health), u.calm = (({ s with keeper := K, health := H } : State).setPort p f).calm

/-- Memory, the tasks of every job, and state, width and laser of the other ports are as they were. -/
def State.othersKept (s u : State) (p : Nat) : Prop := u.mem = s.mem ∧ (∀ j, (u.job j).tasks = (s.job j).tasks) ∧
  ∀ q, q ≠ p → (u.port q).state = (s.port q).state ∧ (u.port q).width = (s.port q).width ∧ (u.port q).laser = (s.port q).laser

theorem State.setPort_id (s : State) (p : Nat) : s.setPort p id = s := by
  simp only [State.setPort, State.setFabric, List.modify_id]

theorem State.movesPort_setPort (s : State) (p : Nat) (f : Port → Port) : s.movesPort (s.setPort p f) p f := ⟨s.keeper, s.health, rfl⟩

theorem State.movesPort_refl (s : State) (p : Nat) : s.movesPort s p id := by
  have h := s.movesPort_setPort p id
  rwa [s.setPort_id p] at h

/-- Two changes one after the other, the second of them blind to the messages that the port has to send. -/
theorem State.movesPort_trans (h : s.movesPort u p f) (h' : u.movesPort v p g) (hg : ∀ x, (g x).mute = (g x.mute).mute) :
    s.movesPort v p fun x => g (f x) := by
  obtain ⟨K, H, hu⟩ := h
  obtain ⟨K', H', hv⟩ := h'
  have hu' : ({ u with keeper := K', health := H' } : State).calm = (({ s with keeper := K', health := H' } : State).setPort p f).calm :=
    congrArg (fun x : State => ({ x with keeper := K', health := H' } : State)) hu
  have hblind : ∀ x y : Port, x.mute = y.mute → (g x).mute = (g y).mute := fun x y hxy => by rw [hg x, hxy, ← hg y]
  refine ⟨K', H', ?_⟩
  rw [hv, State.calm_setPort hu' p g hblind, State.setPort_setPort]

section Moved

variable (h : s.movesPort u p f)

include h

theorem State.movesPort_become : s.become u = .next u := by
  obtain ⟨K, H, hu⟩ := h
  obtain ⟨-, -, -, -, -, -, hident, hpending, -⟩ := State.calm_congr hu
  exact (s.become_eq u).trans (congrArg _ (State.keep_of_same s hident hpending))

theorem State.movesPort_txns : u.fabric.txns = s.fabric.txns := by
  obtain ⟨K, H, hu⟩ := h
  exact (State.calm_frame hu).1

theorem State.movesPort_length : u.fabric.ports.length = s.fabric.ports.length := by
  obtain ⟨K, H, hu⟩ := h
  have hlen : (u.fabric.ports.map Port.mute).length = ((s.fabric.ports.modify p f).map Port.mute).length :=
    congrArg (fun x : State => x.fabric.ports.length) hu
  simpa using hlen

/-- Memory, the tasks of every job and the other ports but for what they have to send are as they were. -/
theorem State.movesPort_frame : u.mem = s.mem ∧ (∀ j, (u.job j).tasks = (s.job j).tasks) ∧ ∀ q, q ≠ p → (u.port q).mute = (s.port q).mute := by
  obtain ⟨K, H, hu⟩ := h
  obtain ⟨hmem, htasks, hports, -⟩ := State.calm_kept s u _ p f hu rfl rfl rfl
  exact ⟨hmem, htasks, hports⟩

theorem State.movesPort_port (hp : p < s.fabric.ports.length) : (u.port p).mute = (f (s.port p)).mute := by
  obtain ⟨K, H, hu⟩ := h
  obtain ⟨-, -, -, hport, -⟩ := State.calm_kept s u _ p f hu rfl rfl rfl
  exact hport hp

theorem State.movesPort_othersKept : s.othersKept u p := by
  obtain ⟨hmem, htasks, hports⟩ := State.movesPort_frame h
  refine ⟨hmem, htasks, fun q hq => ?_⟩
  obtain ⟨hstate, hwidth, -, -, -, -, -, -, hlaser, -⟩ := Port.mute_fields (hports q hq)
  exact ⟨hstate, hwidth, hlaser⟩

theorem State.movesPort_completes {i : Instr} {P : State → Prop} (hi : exec i s = s.become u) (hP : P u) : Completes i s P :=
  ⟨u, hi.trans (State.movesPort_become h), hP⟩

end Moved

/-! ## Failure (R185, R209) -/

/-- A port that has failed: dark, its link layer cleared. -/
def Port.failed (cause : Nat) (x : Port) : Port := { x with state := 4, cause := cause, link := {}, width := 0, laser := false }

/-- A port in training or running, with no transaction of this module under way through it, fails. -/
theorem State.movesPort_portFail (h : s.movesPort u p f) (hp : p < s.fabric.ports.length) (hx : (s.fabric.txns.filter fun t => t.port == p) = [])
    (hlit : (f (s.port p)).state = 1 ∨ (f (s.port p)).state = 2 ∨ (f (s.port p)).state = 3) :
    s.movesPort (u.portFail p cause) p fun x => (f x).failed cause := by
  obtain ⟨hstate, -⟩ := Port.mute_fields (State.movesPort_port h hp)
  have hx' : (u.fabric.txns.filter fun t => t.port == p) = [] := (State.movesPort_txns h).symm ▸ hx
  obtain ⟨K, hK⟩ := State.calm_portFail u p cause (by omega) hx'
  exact State.movesPort_trans h ⟨K, u.health, hK⟩ fun _ => rfl

theorem State.movesPort_failed (h : s.movesPort u p fun x => (f x).failed cause) (hp : p < s.fabric.ports.length) :
    (u.port p).state = 4 ∧ (u.port p).cause = cause ∧ (u.port p).width = 0 ∧ (u.port p).laser = false ∧
      { (u.port p).link with tx := [] } = {} ∧ s.othersKept u p := by
  obtain ⟨hstate, hwidth, -, hcause, -, -, -, -, hlaser, -, -, -, hlink⟩ := Port.mute_fields (State.movesPort_port h hp)
  exact ⟨hstate, hcause, hwidth, hlaser, hlink, State.movesPort_othersKept h⟩

/-! ## Lanes, round trip and neighbour (R184, R211, R373) -/

/-- A port with the lanes that a training found good, and the lost ones counted. -/
def Port.noted (r : TrainResult) (lost : Nat) (x : Port) : Port :=
  { x with lanesGood := r.lanesHere &&& r.lanesFar, count := { x.count with lanes := sat32 (x.count.lanes + lost) } }

/-- Lanes of a port that a training newly found bad. -/
def Port.lost (x : Port) (r : TrainResult) : Nat := newlyBad x.lanesGood.toNat (r.lanesHere &&& r.lanesFar).toNat

theorem State.noteLanes_moves : s.movesPort (s.noteLanes p r) p (Port.noted r ((s.port p).lost r)) := by
  unfold State.noteLanes
  dsimp only
  split
  · exact s.movesPort_setPort p _
  · obtain ⟨H, hH, -⟩ := State.calm_patina ((s.setPort p (Port.noted r ((s.port p).lost r))).setHealth fun h =>
      { h with lanes := sat32 (h.lanes + (s.port p).lost r) }) (32 * 1024 * (s.port p).lost r)
    exact ⟨s.keeper, H, hH⟩

/-- A port with the round trip and the neighbour that a training found. -/
def Port.met (r : TrainResult) (x : Port) : Port := { x with rttNs := r.rttNs, neighbour := r.neighbour }

/-- What a training has found, in the port's record. -/
def State.trained (s : State) (p : Nat) (r : TrainResult) : State := (s.noteLanes p r).setPort p (Port.met r)

theorem State.trained_moves : s.movesPort (s.trained p r) p fun x => (x.noted r ((s.port p).lost r)).met r :=
  State.movesPort_trans State.noteLanes_moves (State.movesPort_setPort _ p (Port.met r)) fun _ => rfl

/-! ## TRAINING_DONE (R184, R185) -/

/-- A port that enters UP at a width with a fresh link layer. -/
def Port.up (w lo : Nat) (x : Port) : Port := { x with state := 2, width := w, lane := lo, cause := 0, link := Link.fresh }

theorem doTrainingDone_elsewhere (h : (s.port p).state ≠ 1) : doTrainingDone p r s = s := if_pos (Or.inr h)

section Training

variable (hp : p < 16) (h1 : (s.port p).state = 1)

include hp h1

theorem doTrainingDone_noWidth (hw : chooseWidth (r.lanesHere &&& r.lanesFar).toNat = none) :
    doTrainingDone p r s = (s.noteLanes p r).portFail p 2 := by
  rw [doTrainingDone, if_neg (by omega)]
  simp only [hw]

variable {w lo : Nat} (hw : chooseWidth (r.lanesHere &&& r.lanesFar).toNat = some (w, lo))

include hw

theorem doTrainingDone_tooLong (hr : 20500 < r.rttNs) : doTrainingDone p r s = (s.trained p r).portFail p 3 := by
  rw [doTrainingDone, if_neg (by omega)]
  simp only [hw, gt_iff_lt, if_pos hr]
  rfl

theorem doTrainingDone_meets (hr : r.rttNs ≤ 20500) : doTrainingDone p r s =
    if r.neighbour ≠ ((s.trained p r).port p).expect then (s.trained p r).portFail p 6 else (s.trained p r).setPort p (Port.up w lo) := by
  rw [doTrainingDone, if_neg (by omega)]
  simp only [hw, gt_iff_lt, if_neg (Nat.not_lt.2 hr)]
  rfl

end Training

theorem State.trained_expect (hp : p < s.fabric.ports.length) : ((s.trained p r).port p).expect = (s.port p).expect := by
  have h : ((s.trained p r).port p).mute.expect = (((s.port p).noted r ((s.port p).lost r)).met r).mute.expect := by
    rw [State.movesPort_port State.trained_moves hp]
  exact h

/-! ## Resends (R190, R191) -/

theorem State.setPort_congr (h : f (s.port p) = g (s.port p)) : s.setPort p f = s.setPort p g := by
  have hports : s.fabric.ports.modify p f = s.fabric.ports.modify p g := by
    refine List.ext_getElem? fun i => ?_
    simp only [List.getElem?_modify]
    by_cases hi : p = i
    · subst hi
      cases hx : s.fabric.ports[p]? with
      | none => rfl
      | some x =>
        have hport : s.port p = x := by simp [State.port, List.getD, hx]
        simpa [hport] using h
    · simp [hi]
  simp only [State.setPort, State.setFabric, hports]

/-- A port whose held flits have all been sent once more, each of them counted as a retry. -/
def Port.resent (x : Port) : Port := { x with
  link := { x.link with retry := x.link.retry.map fun (f : SentFlit) => { f with resends := f.resends + 1 } }
  count := { x.count with retries := if x.link.retry.isEmpty then x.count.retries else sat32 (x.count.retries + x.link.retry.length) } }

theorem Port.resent_none {x : Port} (h : x.link.retry = []) : x.resent = x := by
  have hheld : x.link.retry.map (fun f : SentFlit => { f with resends := f.resends + 1 }) = x.link.retry := by rw [h]; rfl
  have hnone : x.link.retry.isEmpty = true := by rw [h]; rfl
  simp only [Port.resent, hheld, hnone, if_true]

theorem doRetryTimeout_elsewhere (h : (s.port p).state ≠ 2) : doRetryTimeout p s = s := if_pos h

theorem doRetryTimeout_none (h : (s.port p).link.retry = []) : doRetryTimeout p s = s := by simp [doRetryTimeout, h]

theorem doRetryTimeout_oldest (h2 : (s.port p).state = 2) {x : SentFlit} (h : (s.port p).link.retry.head? = some x) :
    doRetryTimeout p s = s.resendFrom p x.seq := by simp [doRetryTimeout, h2, h]

/-- RETRY_TIMEOUT on an UP port whose held flits may all be sent again. -/
theorem doRetryTimeout_moves (h2 : (s.port p).state = 2) (hr : ∀ x ∈ (s.port p).link.retry, x.resends < 3) :
    s.movesPort (doRetryTimeout p s) p Port.resent := by
  cases hheld : (s.port p).link.retry with
  | nil =>
    have hsame : s.setPort p Port.resent = s := (State.setPort_congr (Port.resent_none hheld)).trans (s.setPort_id p)
    have hmoves := s.movesPort_setPort p Port.resent
    rw [doRetryTimeout_none hheld]
    rwa [hsame] at hmoves
  | cons x xs =>
    have holdest : (s.port p).link.retry.head? = some x := by rw [hheld]; rfl
    obtain ⟨K, H, hc⟩ := State.calm_resendFrom s p holdest hr
    rw [doRetryTimeout_oldest h2 holdest]
    refine ⟨K, H, hc.trans (congrArg State.calm (State.setPort_congr ?_))⟩
    show _ = Port.resent (s.port p)
    simp only [Port.resent, hheld, List.isEmpty_cons, Bool.false_eq_true, if_false]
    rfl

/-! ## RETRAIN_DONE (R191 to R193) -/

/-- A port that returns from RETRAIN to UP, a change of its width counted. -/
def Port.resumed (w lo : Nat) (x : Port) : Port :=
  { x with state := 2, width := w, lane := lo, count := { x.count with widths := sat32 (x.count.widths + if w = x.width then 0 else 1) } }

/-- The change of width as the event counts it, by the width that the port has. -/
theorem State.setPort_resumed (v : State) (w lo : Nat) : v.setPort p (fun x => { x with
    state := 2, width := w, lane := lo, count := { x.count with widths := sat32 (x.count.widths + if w ≠ (v.port p).width then 1 else 0) } }) =
      v.setPort p (Port.resumed w lo) := State.setPort_congr (by simp only [Port.resumed, ne_eq, ite_not])

theorem doRetrainDone_elsewhere (h : (s.port p).state ≠ 3) : doRetrainDone p r s = s := if_pos (Or.inr h)

section Retrained

variable (hp : p < 16) (h3 : (s.port p).state = 3)

include hp h3

theorem doRetrainDone_noWidth (hw : chooseWidth (r.lanesHere &&& r.lanesFar).toNat = none) :
    doRetrainDone p r s = (s.noteLanes p r).portFail p 2 := by
  rw [doRetrainDone, if_neg (by omega)]
  simp only [hw]

/-- The port resumes, and resends its held flits as at a timeout. -/
theorem doRetrainDone_resumes {w lo : Nat} (hl : p < s.fabric.ports.length) (hw : chooseWidth (r.lanesHere &&& r.lanesFar).toNat = some (w, lo)) :
    doRetrainDone p r s = doRetryTimeout p ((s.noteLanes p r).setPort p (Port.resumed w lo)) := by
  have hl' : p < (s.noteLanes p r).fabric.ports.length := by rwa [State.movesPort_length State.noteLanes_moves]
  rw [doRetrainDone, if_neg (by omega)]
  simp only [hw]
  generalize s.noteLanes p r = v at hl'
  have hup : ((v.setPort p (Port.resumed w lo)).port p).state = 2 := by rw [State.port_setPort _ _ _ hl']; rfl
  rw [State.setPort_resumed]
  exact (if_neg (not_not.2 hup)).symm

end Retrained

/-! ## The start of a retrain (R191, R192, R373) -/

/-- The retrains of a port within the last 10 ms, and one more now. -/
def Port.retrainsBy (now : Nat) (x : Port) : List Nat := (x.retrainTimes.filter fun n => decide (now < n + 10000)) ++ [now]

/-- A port that leaves UP for RETRAIN. -/
def Port.retraining (now : Nat) (x : Port) : Port := { x with
  state := 3, retrainTimes := x.retrainsBy now
  count := { x.count with retrains := sat32 (x.count.retrains + 1) }
  link := { x.link with retry := x.link.retry.map fun (f : SentFlit) => { f with resends := 0 } } }

theorem State.retrain_elsewhere (h : (s.port p).state ≠ 2) : s.retrain p = s := if_pos h

theorem State.retrain_begins (h : (s.port p).state = 2) : ∃ v, s.movesPort v p (Port.retraining s.keeper.time) ∧
    v.health.retrains = sat32 (s.health.retrains + 1) ∧
    s.retrain p = if ((s.port p).retrainsBy s.keeper.time).length ≥ 4 then v.portFail p 1 else v := by
  obtain ⟨v, hv, K, H, hcalm, hretrains, -⟩ := State.calm_retrain s p h
  obtain ⟨-, -, -, -, -, hhealth, -⟩ := State.calm_congr hcalm
  exact ⟨v, ⟨K, H, hcalm.trans (congrArg State.calm (State.setPort_congr rfl))⟩, (congrArg Health.retrains hhealth).trans hretrains, hv⟩

end Sys2Proof.Machine

open Sys2Proof Sys2Proof.Machine

/-- Settles O40: each event is one change of its port, or two: what the training found, and then UP, the resend or the failure. -/
theorem trainingEventsMovePorts : Obligations.TrainingEventsMovePorts := by
  intro s p r hp hlen x good lost kept failed found times retrained
  have hl : p < s.fabric.ports.length := hlen.symm ▸ hp
  have hnoted : s.movesPort (s.noteLanes p r) p (Port.noted r lost) := State.noteLanes_moves
  have htrained : s.movesPort (s.trained p r) p fun x => (x.noted r lost).met r := State.trained_moves
  have hfails (hx : (s.fabric.txns.filter fun t => t.port == p) = []) {i : Instr} {u : State} {cause : Nat} {f : Port → Port}
      (hu : s.movesPort u p f) (hlit : (f x).state = 1 ∨ (f x).state = 2 ∨ (f x).state = 3) (hi : exec i s = s.become (u.portFail p cause)) :
      Completes i s (failed cause) :=
    have hfailed := State.movesPort_portFail hu hl hx hlit
    State.movesPort_completes hfailed hi (State.movesPort_failed hfailed hl)
  refine ⟨fun w lo h1 hw hns hn => ?up, fun h => s.become_of_eq (doTrainingDone_elsewhere h), fun w lo h3 hw hr => ?resumes,
    fun h => s.become_of_eq (doRetrainDone_elsewhere h), fun h2 ht => ?retrains, fun h => s.become_of_eq (State.retrain_elsewhere h),
    fun h1 h3 => s.become_of_eq (if_neg (not_or.2 ⟨h1, h3⟩)), fun h => s.become_of_eq ?dark,
    fun lane => ⟨fun hlo hhi => congrArg s.become (if_pos ⟨hlo, hhi⟩), fun h => s.become_of_eq ?otherLane⟩,
    fun hx => ⟨fun h1 hw => ?noWidth, fun h1 hw hns => ?tooLong, fun h1 hw hns hn => ?wrong, fun h3 hw => ?retrainNoWidth, fun h2 ht => ?limit,
      fun h => ?late, fun h => ?loss⟩⟩
  case up =>
    have hdone : doTrainingDone p r s = (s.trained p r).setPort p (Port.up w lo) :=
      (doTrainingDone_meets hp h1 hw hns).trans (if_neg (not_not.2 (hn.trans (State.trained_expect hl).symm)))
    have hmoves := State.movesPort_trans htrained (State.movesPort_setPort _ p (Port.up w lo)) fun _ => rfl
    have hlink : (((s.trained p r).setPort p (Port.up w lo)).port p).link = Link.fresh := by
      rw [State.port_setPort _ _ _ (State.movesPort_length htrained ▸ hl)]
      rfl
    obtain ⟨hstate, hwidth, hlane, hcause, hgood, hrtt, hneighbour, -, -, -, -, hcount, -⟩ := Port.mute_fields (State.movesPort_port hmoves hl)
    exact State.movesPort_completes hmoves (congrArg s.become hdone)
      ⟨hstate, hwidth, hlane, hcause, hrtt, hneighbour, hlink, hgood, congrArg PortCounters.lanes hcount, State.movesPort_othersKept hmoves⟩
  case resumes =>
    have hresumed := State.movesPort_trans hnoted (State.movesPort_setPort _ p (Port.resumed w lo)) fun _ => rfl
    obtain ⟨hup, -, -, -, -, -, -, -, -, -, -, -, hlink⟩ := Port.mute_fields (State.movesPort_port hresumed hl)
    have hheld : (((s.noteLanes p r).setPort p (Port.resumed w lo)).port p).link.retry = x.link.retry := by
      have hretry := congrArg Link.retry hlink
      exact hretry
    have hmoves := State.movesPort_trans hresumed (doRetryTimeout_moves hup (hheld.symm ▸ hr)) fun _ => rfl
    obtain ⟨hstate, hwidth, hlane, -, hgood, -, -, -, -, -, -, hcount, hlink'⟩ := Port.mute_fields (State.movesPort_port hmoves hl)
    exact State.movesPort_completes hmoves (congrArg s.become (doRetrainDone_resumes hp h3 hl hw))
      ⟨hstate, hwidth, hlane, congrArg PortCounters.widths hcount, congrArg Link.retry hlink', hgood, congrArg PortCounters.lanes hcount,
        State.movesPort_othersKept hmoves⟩
  case retrains =>
    obtain ⟨v, hmoves, hretrains, hv⟩ := State.retrain_begins h2
    obtain ⟨hstate, -, -, -, -, -, -, -, -, -, htimes, hcount, hlink⟩ := Port.mute_fields (State.movesPort_port hmoves hl)
    exact State.movesPort_completes hmoves (congrArg s.become (hv.trans (if_neg (Nat.not_le.2 ht))))
      ⟨hstate, htimes, congrArg PortCounters.retrains hcount, congrArg Link.retry hlink, hretrains, State.movesPort_othersKept hmoves⟩
  case dark =>
    have hidle : ¬ (x.running = true ∨ x.state = 1) := by rcases h with h | h <;> simp [Port.running, h]
    exact if_neg hidle
  case otherLane =>
    have hout : ¬ (x.lane ≤ lane ∧ lane < x.lane + x.width) := fun ⟨hlo, hhi⟩ => h.elim (Nat.not_lt.2 hlo) (Nat.not_le.2 hhi)
    exact if_neg hout
  case noWidth => exact hfails hx hnoted (Or.inl h1) (congrArg s.become (doTrainingDone_noWidth hp h1 hw))
  case tooLong =>
    obtain ⟨w, hw⟩ := Option.isSome_iff_exists.1 hw
    exact hfails hx htrained (Or.inl h1) (congrArg s.become (doTrainingDone_tooLong hp h1 hw hns))
  case wrong =>
    obtain ⟨w, hw⟩ := Option.isSome_iff_exists.1 hw
    exact hfails hx htrained (Or.inl h1) (congrArg s.become
      ((doTrainingDone_meets hp h1 hw hns).trans (if_pos fun h => hn (h.trans (State.trained_expect hl)))))
  case retrainNoWidth => exact hfails hx hnoted (Or.inr (Or.inr h3)) (congrArg s.become (doRetrainDone_noWidth hp h3 hw))
  case limit =>
    obtain ⟨v, hmoves, -, hv⟩ := State.retrain_begins h2
    exact hfails hx hmoves (Or.inr (Or.inr rfl)) (congrArg s.become (hv.trans (if_pos ht)))
  case late => exact hfails hx (s.movesPort_refl p) (h.imp_right Or.inr) (congrArg s.become (if_pos h))
  case loss =>
    have hlit : x.running = true ∨ x.state = 1 := by rcases h with h | h | h <;> simp [Port.running, h]
    exact hfails hx (s.movesPort_refl p) h (congrArg s.become (if_pos hlit))

end

section
/-! SUPPORT. Collective messages (R202, R219, R224, R226 to R228, R230): their admission, and what a message of committed work does there. -/

namespace Sys2Proof.Machine

variable {s : State} {p : Nat} {m : Msg}

/-! ## Rows (R202, R219) -/

/-- The rows of collective messages with their kinds; a CONTROL message by bit 22 of its address (R226, R227, R230), and DATA only outside
the PERMUTE context (R233). -/
def collectiveRow (s : State) (p : Nat) (m : Msg) (i : Instr) (kind : Nat) : Prop :=
  (i = .term p m ∧ kind = 0) ∨
    (i = .data p m ∧ kind = 1 ∧ ¬ (m.hdr.job < 64 ∧ (s.job m.hdr.job).permute.any (fun c => c.decl.num == bitsOf m.hdr.address.toNat 58 6) = true)) ∨
    (i = .collectiveCredit p m ∧ kind = 3 ∧ bitsOf m.hdr.address.toNat 0 24 / 2 ^ 22 = 0) ∨
    (i = .collectiveCounts p m ∧ kind = 3 ∧ bitsOf m.hdr.address.toNat 0 24 / 2 ^ 22 = 1)

theorem bitsOf_control (a : Nat) : bitsOf a 22 2 = bitsOf a 0 24 / 2 ^ 22 := by
  unfold bitsOf
  omega

/-- Each row is a collective row of its kind. -/
theorem exec_collectiveRow {i : Instr} {kind : Nat} (h : collectiveRow s p m i kind) : exec i s = s.become (collRow p m kind s) := by
  obtain ⟨rfl, rfl⟩ | ⟨rfl, rfl, hperm⟩ | ⟨rfl, rfl, hblock⟩ | ⟨rfl, rfl, hblock⟩ := h
  · rfl
  · have hperm' : (!(decide (m.hdr.job < 64) && (s.job m.hdr.job).permute.any fun c => c.decl.num == collNumber m.hdr)) = true := by
      rcases Nat.lt_or_ge m.hdr.job 64 with hj | hj
      · simpa [collNumber, hj] using hperm
      · simp [Nat.not_lt.2 hj]
    exact congrArg s.become (if_pos hperm')
  · exact congrArg s.become (if_pos ((bitsOf_control _).trans hblock))
  · exact congrArg s.become (if_pos ((bitsOf_control _).trans hblock))

theorem collectiveRow_credit {kind : Nat} (h : collectiveRow s p m (.collectiveCredit p m) kind) :
    kind = 3 ∧ bitsOf m.hdr.address.toNat 0 24 / 2 ^ 22 = 0 := by simpa [collectiveRow] using h

theorem collectiveRow_counts {kind : Nat} (h : collectiveRow s p m (.collectiveCounts p m) kind) :
    kind = 3 ∧ bitsOf m.hdr.address.toNat 0 24 / 2 ^ 22 = 1 := by simpa [collectiveRow] using h

theorem collRow_elsewhere {kind : Nat} (h : ¬ (s.arrived p m 0x10 = true ∧ bitsOf m.hdr.address.toNat 56 2 = kind)) : collRow p m kind s = s := if_neg h

theorem collRow_takes {kind : Nat} (ha : s.arrived p m 0x10 = true) (hk : bitsOf m.hdr.address.toNat 56 2 = kind) :
    collRow p m kind s = (s.takeRx p m).admitColl p m := if_pos ⟨ha, hk⟩

/-! ## Admission (R202, R249) -/

theorem Job.turnover_stale {b : Job} {epoch : Nat} (he : epoch < b.memberEpoch) : b.turnover epoch = .stale := by
  rw [Job.turnover, if_neg (by omega), if_pos he]

theorem State.admitColl_ward (hd : s.inDeviceSet m.hdr.source = false) : s.admitColl p m = s.wardDrop p := by
  simp [State.admitColl, hd]

section FromSet

variable (hd : s.inDeviceSet m.hdr.source = true)

include hd

theorem State.admitColl_unloaded (hj : 64 ≤ m.hdr.job ∨ (s.job m.hdr.job).loaded = false) : s.admitColl p m = s.protocolError p m.hdr.job m.hdr := by
  rw [State.admitColl, if_neg (by simp [hd]), if_pos (by simpa using hj)]

variable (hj : m.hdr.job < 64) (hl : (s.job m.hdr.job).loaded = true)

include hj hl

theorem State.admitColl_stale (he : m.hdr.membership < (s.job m.hdr.job).memberEpoch) : s.admitColl p m = s.countStale p := by
  rw [State.admitColl, if_neg (by simp [hd]), if_neg (by simp [hl]; omega)]
  simp only [Job.turnover_stale he]

/-- A message of committed work and of the present membership epoch goes to its collective. -/
theorem State.admitColl_delivers (he : m.hdr.membership = (s.job m.hdr.job).memberEpoch) (hf : m.hdr.flags.toNat % 2 = 0) :
    s.admitColl p m = s.collDeliver p m := by
  have hnow : (s.job m.hdr.job).turnover m.hdr.membership = .now := if_pos he
  have hprov : hdrProv m.hdr = false := by simp [hdrProv, bitOf, hf]
  have hcase : (s.job m.hdr.job).epochCase m.hdr = .committed := by simp [Job.epochCase, hprov]
  rw [State.admitColl, if_neg (by simp [hd]), if_neg (by simp [hl]; omega)]
  simp only [hnow, State.collEpoch, hcase]

end FromSet

/-! ## Delivery (R219, R226 to R228, R230) -/

theorem State.collDeliver_unknown (hc : s.coll m.hdr.job (collNumber m.hdr) = none) : s.collDeliver p m = s.collMisfit p m.hdr.job m.hdr := by
  simp only [State.collDeliver, hc]

section Known

variable {c : Coll} {d : Nat} (hc : s.coll m.hdr.job (collNumber m.hdr) = some c) (hd : memberIndex c.decl m.hdr.source = some d)

include hc hd

/-- A message for the next to start is kept for it. -/
theorem State.collDeliver_early (hy : (c.active.find? fun y => y.number % 8192 == m.hdr.tag) = none) (ht : m.hdr.tag = c.started % 8192) :
    s.collDeliver p m = s.setColl m.hdr.job (collNumber m.hdr) fun c => { c with early := c.early ++ [(p, m)] } := by
  simp only [State.collDeliver, hc, hd, hy, if_pos (Or.inl ht)]

variable {y : CollInstance} (hy : (c.active.find? fun y => y.number % 8192 == m.hdr.tag) = some y)

include hy

theorem State.collDeliver_control (hk : collKind m.hdr = 3) : s.collDeliver p m = s.collControl m.hdr.job (collNumber m.hdr) y d m := by
  simp only [State.collDeliver, hc, hd, hy, if_pos hk]

theorem State.collDeliver_lands (hk : collKind m.hdr ≠ 3) : s.collDeliver p m = s.collLand p m.hdr.job (collNumber m.hdr) c y d m := by
  simp only [State.collDeliver, hc, hd, hy, if_neg hk]

end Known

/-- The block that a TERM or DATA message lays down (R226); that REASON 1 marks a replacement is log entry 31. -/
def landedBlock (m : Msg) (d : Nat) : Landed :=
  let index := bitsOf m.hdr.address.toNat 24 32
  { member := d, kind := collKind m.hdr, lo := if collKind m.hdr = 0 then index / 65536 else index, last := if collKind m.hdr = 0 then index % 65536 else 0
    block := bitsOf m.hdr.address.toNat 0 24, after := m.hdr.reason == 1, content := m.content }

theorem State.collLand_fits {j n d : Nat} {c : Coll} {y : CollInstance} {e : MemberEntry} (he : c.decl.members[d]? = some e)
    (hfits : fitsTable c.decl (collKind m.hdr) (bitsOf m.hdr.address.toNat 24 32) e = true) (hcontent : m.content ≠ []) (hbad : m.bad = []) :
    s.collLand p j n c y d m = ((s.setInst j n y.number fun z => { z.land (landedBlock m d) with
      gets := setCounts z.gets d ((countsOf z.gets d).1 + 1, (countsOf z.gets d).2) }).giveCredit j n y.number false).collProgress j n y.number := by
  have hplace : (!fitsTable c.decl (collKind m.hdr) (bitsOf m.hdr.address.toNat 24 32) e || m.content.isEmpty) = false := by
    simp [hfits, hcontent]
  simp only [State.collLand, he, hplace, hbad, Bool.false_eq_true, if_false, List.isEmpty_nil, Bool.not_true]
  rfl

theorem State.collControl_credit {j n d : Nat} {y : CollInstance} (h : bitsOf m.hdr.address.toNat 0 24 / 2 ^ 22 = 0) :
    s.collControl j n y d m = (s.setInst j n y.number fun z => { z with
      sends := setCounts z.sends d ((countsOf z.sends d).1, (countsOf z.sends d).2 + bitsOf m.hdr.address.toNat 0 24 % 2 ^ 22) }).collProgress j n y.number :=
  if_pos h

theorem State.collControl_counts {j n d : Nat} {y : CollInstance} (h : bitsOf m.hdr.address.toNat 0 24 / 2 ^ 22 = 1) :
    s.collControl j n y d m = (s.setInst j n y.number fun z => { z with
      gotCounts := (z.gotCounts.filter fun x => x.1 != d) ++ [(d, fieldN m.content 0 4)] }).collProgress j n y.number :=
  if_neg (by rw [h]; decide)

/-! ## SUMMARY (R224, R227) -/

section Summary

variable {v : Nat} {finite : Bool} {acc : SquareAcc}

theorem doSummary_elsewhere (h : ¬ (s.arrived p m 0x10 = true ∧ bitsOf m.hdr.address.toNat 56 2 = 2)) : doSummary p m v finite acc s = s := by
  refine if_pos ?_
  by_contra hc
  simp only [not_or, Bool.not_eq_true', Bool.not_eq_false, not_not] at hc
  exact h hc

variable (ha : s.arrived p m 0x10 = true) (hk : bitsOf m.hdr.address.toNat 56 2 = 2)

include ha hk

theorem doSummary_ward (hd : (s.takeRx p m).inDeviceSet m.hdr.source = false) : doSummary p m v finite acc s = (s.takeRx p m).wardDrop p := by
  simp [doSummary, collKind, ha, hk, hd]

variable (hd : (s.takeRx p m).inDeviceSet m.hdr.source = true)

include hd

theorem doSummary_unloaded (hj : 64 ≤ m.hdr.job ∨ ((s.takeRx p m).job m.hdr.job).loaded = false) :
    doSummary p m v finite acc s = (s.takeRx p m).protocolError p m.hdr.job m.hdr := by
  simp [doSummary, collKind, ha, hk, hd, hj]

variable (hj : m.hdr.job < 64) (hl : ((s.takeRx p m).job m.hdr.job).loaded = true)

include hj hl

theorem doSummary_stale (he : m.hdr.membership < ((s.takeRx p m).job m.hdr.job).memberEpoch) :
    doSummary p m v finite acc s = (s.takeRx p m).countStale p := by
  simp [doSummary, collKind, ha, hk, hd, Nat.not_le.2 hj, hl, Job.turnover_stale he]

variable (he : m.hdr.membership = ((s.takeRx p m).job m.hdr.job).memberEpoch)

include he

/-- A sum of the present epoch is an owner's, of its reduced elements, or a contributor's. -/
theorem doSummary_adds : doSummary p m v finite acc s =
    if v = 0xFFFFFFFF then (s.takeRx p m).setStrag m.hdr.job fun y => { y with reducedSq := sqPlus y.reducedSq acc }
    else (if finite then s.takeRx p m else (s.takeRx p m).markNonFinite m.hdr.job ((s.takeRx p m).job m.hdr.job).train.judged v).setStrag m.hdr.job
      fun y => { y with scanned := addScanned y.scanned ((s.takeRx p m).job m.hdr.job).train.judged v acc } := by
  have hnow : ((s.takeRx p m).job m.hdr.job).turnover m.hdr.membership ≠ .stale := by simp [Job.turnover, he]
  simp [doSummary, collKind, ha, hk, hd, Nat.not_le.2 hj, hl, hnow]

end Summary

end Sys2Proof.Machine

open Sys2Proof Sys2Proof.Machine

/-- Settles O45: admission turns a message away or hands it to its collective, where the one in progress that it names, or the next to start, takes it. -/
theorem collectiveMessagesReachTheirInstance : Obligations.CollectiveMessagesReachTheirInstance := by
  intro s p m u j address n block refused
  have hu : s.portsOnly u := s.portsOnly_takeRx p m
  have hset {x : Bool} : s.inDeviceSet m.hdr.source = x → u.inDeviceSet m.hdr.source = x := (State.portsOnly_inDeviceSet hu _).trans
  have hjob : u.job j = s.job j := State.portsOnly_job hu j
  refine ⟨fun i kind hi => ?rows, fun v finite acc => ?summary⟩
  case rows =>
    have hrow := exec_collectiveRow hi
    have htaken (ha : s.arrived p m 0x10 = true) (hk : bitsOf address 56 2 = kind) {w : State} (h : u.admitColl p m = w) :
        exec i s = .next (s.keep w) := hrow.trans (congrArg s.become ((collRow_takes ha hk).trans h))
    refine ⟨⟨fun h => hrow.trans (s.become_of_eq (collRow_elsewhere h)), fun ha hk => ⟨fun hd => htaken ha hk (State.admitColl_ward (hset hd)),
      fun hd hj => htaken ha hk (State.admitColl_unloaded (hset hd) (hjob.symm ▸ hj)),
      fun hd hj hl he => htaken ha hk (State.admitColl_stale (hset hd) hj (hjob.symm ▸ hl) (hjob.symm ▸ he))⟩⟩,
      fun ha hk hd hj hl he hf => ?_⟩
    have hdelivers {w : State} (h : u.collDeliver p m = w) : exec i s = .next (s.keep w) :=
      htaken ha hk ((State.admitColl_delivers (hset hd) hj (hjob.symm ▸ hl) (hjob.symm ▸ he) hf).trans h)
    refine ⟨fun hc => hdelivers (State.collDeliver_unknown hc), fun c d hc hmember => ⟨fun hy ht => hdelivers (State.collDeliver_early hc hmember hy ht),
      fun y hy => ⟨?credit, ?counts, fun e hkind he hfits hcontent hbad => ?block⟩⟩⟩
    case credit =>
      rintro rfl
      obtain ⟨hkind, hblock⟩ := collectiveRow_credit hi
      exact hdelivers ((State.collDeliver_control hc hmember hy (hk.trans hkind)).trans (State.collControl_credit hblock))
    case counts =>
      rintro rfl
      obtain ⟨hkind, hblock⟩ := collectiveRow_counts hi
      exact hdelivers ((State.collDeliver_control hc hmember hy (hk.trans hkind)).trans (State.collControl_counts hblock))
    case block =>
      subst hk
      exact hdelivers ((State.collDeliver_lands hc hmember hy hkind).trans (State.collLand_fits he hfits hcontent hbad))
  case summary =>
    refine ⟨⟨fun h => s.become_of_eq (doSummary_elsewhere h), fun ha hk => ⟨fun hd => congrArg s.become (doSummary_ward ha hk (hset hd)),
      fun hd hj => congrArg s.become (doSummary_unloaded ha hk (hset hd) (hjob.symm ▸ hj)),
      fun hd hj hl he => congrArg s.become (doSummary_stale ha hk (hset hd) hj (hjob.symm ▸ hl) (hjob.symm ▸ he))⟩⟩, fun ha hk hd hj hl he => ?_⟩
    have hadds := doSummary_adds (v := v) (finite := finite) (acc := acc) ha hk (hset hd) hj (hjob.symm ▸ hl) (hjob.symm ▸ he)
    rw [show (s.takeRx p m).job m.hdr.job = s.job j from hjob] at hadds
    exact ⟨fun hv => congrArg s.become (hadds.trans (if_pos hv)), fun hv => congrArg s.become (hadds.trans (if_neg hv))⟩

end

section
/-! SUPPORT. The link layer (R187 to R191, R195, R196, R205): what a flit's control fields, a data flit and a forwarded message do to a port. -/

namespace Sys2Proof.Machine

variable {s : State} {p vc : Nat} {f : Flit}

/-! ## The link layer of a port -/

theorem State.keep_port (s u : State) (p : Nat) : (s.keep u).port p = u.port p := rfl

theorem State.port_setLink (hl : p < s.fabric.ports.length) (g : Link → Link) :
    (s.setLink p g).port p = { s.port p with link := g (s.port p).link } := State.port_setPort _ _ _ hl

theorem State.port_setLink_other (s : State) (g : Link → Link) {q : Nat} (h : q ≠ p) : (s.setLink p g).port q = s.port q :=
  State.port_setPort_other _ _ _ _ (Ne.symm h)

theorem State.setLink_length (s : State) (p : Nat) (g : Link → Link) : (s.setLink p g).fabric.ports.length = s.fabric.ports.length := by
  simp [State.setLink, State.setPort, State.setFabric]

theorem State.setLink_same {g : Link → Link} (h : g (s.port p).link = (s.port p).link) : s.setLink p g = s := by
  have hport : ({ s.port p with link := g (s.port p).link } : Port) = id (s.port p) := by rw [h]; rfl
  exact (State.setPort_congr hport).trans (s.setPort_id p)

/-! ## Flits that are not taken (R188) -/

theorem doDataFlit_elsewhere (h : (s.port p).state ≠ 2) : doDataFlit p f s = s := if_pos (Or.inr h)

theorem doIdleFlit_elsewhere (h : (s.port p).state ≠ 2) : doIdleFlit p f s = s := if_pos (Or.inr h)

section Up

variable (hp : p < 16) (h2 : (s.port p).state = 2)

include hp h2

theorem doDataFlit_bad (h : flitOk f = false) : doDataFlit p f s = s.flitBad p := by
  rw [doDataFlit, if_neg (by omega), if_pos (by simp [h])]

theorem doIdleFlit_bad (h : flitOk f = false) : doIdleFlit p f s = s.flitBad p := by
  rw [doIdleFlit, if_neg (by omega), if_pos (by simp [h])]

theorem doIdleFlit_good (h : flitOk f = true) (hk : flitField f 62 2 = 0) : doIdleFlit p f s = s.flitControl p f := by
  rw [doIdleFlit, if_neg (by omega), if_neg (by simp [h]), if_neg (not_not.2 hk)]

end Up

/-! ## Credits, ACK and NAK (R190, R196) -/

/-- A port with the credits of a flit taken. -/
def State.credited (s : State) (p : Nat) (f : Flit) : State :=
  s.setLink p fun l => l.credit (flitField f 23 3) (flitField f 16 7) (flitField f 15 1 == 1)

/-- The same with the held flits up to the flit's ACK let go. -/
def State.acked (s : State) (p : Nat) (f : Flit) : State :=
  (s.credited p f).setLink p fun l => { l with retry := ackThrough l.retry (flitField f 27 16) }

theorem State.flitControl_acks (h : flitField f 26 1 = 0) : s.flitControl p f = s.acked p f := if_pos h

theorem Link.credit_eq (l : Link) (vc n k : Nat) : l.credit vc n (k == 1) =
    if k = 1 then { l with shared := min 3584 (l.shared + n) } else { l with reserved := l.reserved.modify vc fun c => min 64 (c + n) } := by
  simp [Link.credit]

/-- Credits change the credits alone. -/
theorem Link.credit_frame (l : Link) (vc n : Nat) (sh : Bool) : ∃ a b, l.credit vc n sh = { l with shared := a, reserved := b } := by
  unfold Link.credit
  split
  · exact ⟨_, l.reserved, rfl⟩
  · exact ⟨l.shared, _, rfl⟩

theorem ackBefore_oldest {l : List SentFlit} {seq next : Nat} (h : (l.head?).map (·.seq) = some seq) : ackBefore l seq next = l := by
  cases l with
  | nil => cases h
  | cons x xs =>
    have hx : x.seq = seq := by simpa using h
    simp [ackBefore, hx]

section Fabric

variable (hl : p < s.fabric.ports.length)

include hl

theorem State.credited_port : ∃ a b, (s.credited p f).port p = { s.port p with link := { (s.port p).link with shared := a, reserved := b } } := by
  obtain ⟨a, b, hab⟩ := (s.port p).link.credit_frame (flitField f 23 3) (flitField f 16 7) (flitField f 15 1 == 1)
  exact ⟨a, b, (State.port_setLink hl _).trans (by rw [hab])⟩

theorem State.acked_port : ∃ a b, (s.acked p f).port p = { s.port p with link := { (s.port p).link with
    shared := a, reserved := b, retry := ackThrough (s.port p).link.retry (flitField f 27 16) } } := by
  obtain ⟨a, b, hport⟩ := State.credited_port (f := f) hl
  exact ⟨a, b, (State.port_setLink ((s.setLink_length p _).symm ▸ hl) _).trans (by rw [hport])⟩

/-- A NAK for the oldest held flit resends as a timeout does. -/
theorem State.flitControl_naks (h2 : (s.port p).state = 2) (h : flitField f 26 1 = 1)
    (hseq : ((s.port p).link.retry.head?).map (·.seq) = some (flitField f 27 16)) : s.flitControl p f = doRetryTimeout p (s.credited p f) := by
  obtain ⟨a, b, hport⟩ := State.credited_port (f := f) hl
  have hheld : ((s.credited p f).port p).link.retry = (s.port p).link.retry := by rw [hport]
  obtain ⟨x, hx, hxseq⟩ := Option.map_eq_some_iff.1 hseq
  have hkept := ackBefore_oldest (next := ((s.credited p f).port p).link.txSeq) (hheld.symm ▸ hseq)
  have hsame : (s.credited p f).setLink p (fun l => { l with retry := ackBefore l.retry (flitField f 27 16) l.txSeq }) = s.credited p f :=
    State.setLink_same (by rw [hkept])
  rw [doRetryTimeout_oldest (by rw [hport]; exact h2) (hheld.symm ▸ hx), hxseq]
  unfold State.flitControl
  rw [if_neg (by omega)]
  exact congrArg (State.resendFrom · p (flitField f 27 16)) hsame

end Fabric

/-! ## Data flits (R186, R189, R190, R196, R198) -/

section Receive

variable (l : Link) (ch groups : Nat) (som eom : Bool) (f : Flit)

theorem Link.receive_frame : (l.receive ch groups som eom f).rxSeq = (l.rxSeq + 1) % 65536 ∧ (l.receive ch groups som eom f).nakSent = false ∧
    (l.receive ch groups som eom f).retry = l.retry ∧ (l.receive ch groups som eom f).txSeq = l.txSeq ∧
    (l.receive ch groups som eom f).shared = l.shared := by
  cases som <;> cases hfree : l.sharedFree <;> simp [Link.receive, hfree]

/-- The first flit of a message. -/
theorem Link.receive_first : (l.receive ch groups true eom f).rx = l.rx ++ [{
    vc := ch, data := ((List.range groups).map (flitGroup f)).flatten, bad := flitBadWords f groups, whole := eom
    flits := if l.sharedFree then (1, 0) else (0, 1) }] := by
  cases hfree : l.sharedFree <;> simp [Link.receive, hfree]

/-- A later flit goes to the message of its channel that is not whole. -/
theorem Link.receive_next {i : Nat} {y : RxMsg} (h : l.rx[i]? = some y) : ((l.receive ch groups false eom f).rx[i]?).map (·.data) =
    some (if y.vc = ch ∧ y.whole = false then y.data ++ ((List.range groups).map (flitGroup f)).flatten else y.data) := by
  by_cases hy : y.vc = ch ∧ y.whole = false <;> cases hfree : l.sharedFree <;> simp [Link.receive, hfree, h, hy]

end Receive

section Data

variable (hp : p < 16) (hl : p < s.fabric.ports.length) (h2 : (s.port p).state = 2) (hok : flitOk f = true) (hack : flitField f 26 1 = 0)
  (hdata : flitField f 62 2 = 1)

include hp hl h2 hok hack hdata

/-- A data flit that is not the next one makes a NAK due. -/
theorem doDataFlit_outOfOrder (hseq : flitField f 43 16 ≠ (s.port p).link.rxSeq) : doDataFlit p f s = (s.acked p f).setLink p Link.gap := by
  obtain ⟨a, b, hport⟩ := State.acked_port (f := f) hl
  rw [doDataFlit, if_neg (by omega), if_neg (by simp [hok]), if_neg (not_not.2 hdata), State.flitControl_acks hack]
  simp only [hport]
  rw [if_neg (not_not.2 h2), if_pos hseq]

/-- The next data flit, no byte of a header in it corrected, is received. -/
theorem doDataFlit_receives (hseq : flitField f 43 16 = (s.port p).link.rxSeq) (hcodes : flitField f 12 1 = 1 → ∀ c ∈ f.codes.take 8, c ≠ 1) :
    doDataFlit p f s = (s.acked p f).setLink p fun l =>
      l.receive (flitField f 59 3) (flitField f 13 2) (flitField f 12 1 == 1) (flitField f 11 1 == 1) f := by
  obtain ⟨a, b, hport⟩ := State.acked_port (f := f) hl
  have hclean : ¬ (flitField f 12 1 == 1 && (f.codes.take 8).any fun c => c == 1) = true := by
    simpa using fun hsom hmem => hcodes hsom 1 hmem rfl
  rw [doDataFlit, if_neg (by omega), if_neg (by simp [hok]), if_neg (not_not.2 hdata), State.flitControl_acks hack]
  simp only [hport]
  rw [if_neg (not_not.2 h2), if_neg (not_not.2 hseq), if_neg hclean]

end Data

/-! ## MESSAGE_FORWARD (R189, R204, R205) -/

theorem doMessageForward_none (h : ((s.port p).link.rx.find? fun x => x.vc == vc && x.whole) = none) : doMessageForward p vc s = s := by
  simp only [doMessageForward, h]

section Forward

variable {x : RxMsg} {q : Nat} {route : U64} (h : ((s.port p).link.rx.find? fun x => x.vc == vc && x.whole) = some x)
  (hhop : s.nextHop p (msgOf x.data x.bad).hdr = some (some (q, route)))

include h hhop

/-- A message with a sound header, whose route goes on, leaves by the next port. -/
theorem doMessageForward_goesOn (hbad : ∀ i ∈ x.bad, 8 ≤ i) (hq : (s.port q).state = 2 ∨ (s.port q).state = 3) :
    doMessageForward p vc s = (s.setLink p fun l => l.free x).txPut q (vc / 2) route
      { msgOf x.data x.bad with hdr := { (msgOf x.data x.bad).hdr with route := route } } := by
  have hsound : ¬ (x.bad.any fun i => decide (i < 8)) = true := by simpa using hbad
  have hruns : (s.port q).running = true := by simpa [Port.running] using hq
  simp only [doMessageForward, h, hhop, if_neg hsound, if_pos hruns]

/-- A message with an error in its header is discarded. -/
theorem doMessageForward_header (hbad : ∃ i ∈ x.bad, i < 8) : doMessageForward p vc s =
    ((s.setLink p fun l => l.free x).setCount p fun c => { c with header := sat32 (c.header + 1) }).log 0x0205 3 (portDomain p) 0xFFFF p q 0 := by
  have herror : (x.bad.any fun i => decide (i < 8)) = true := by simpa using hbad
  simp only [doMessageForward, h, hhop, if_pos herror]

end Forward

end Sys2Proof.Machine

open Sys2Proof Sys2Proof.Machine

/-- Settles O41: a good flit's control fields come first and leave the receiving side; then the flit is received, resent for or passed over. -/
theorem flitsAreTakenInOrderAndMessagesForwarded : Obligations.FlitsAreTakenInOrderAndMessagesForwarded := by
  intro s p f hp hlen l field gap credited acked
  have hl : p < s.fabric.ports.length := hlen.symm ▸ hp
  have hcredited : s.credited p f = credited := congrArg (s.setLink p) (funext fun l => l.credit_eq _ _ _)
  have hacked : s.acked p f = acked := congrArg (fun u : State => u.setLink p _) hcredited
  refine ⟨fun h => ⟨s.become_of_eq (doDataFlit_elsewhere h), s.become_of_eq (doIdleFlit_elsewhere h), s.become_of_eq (doRetryTimeout_elsewhere h)⟩,
    fun h2 => ⟨fun hbad => ⟨congrArg s.become (doDataFlit_bad hp h2 hbad),
      congrArg s.become ((doIdleFlit_bad hp h2 hbad).trans (doDataFlit_bad hp h2 hbad).symm)⟩,
      fun hok hack hdata hseq => ?gap, fun hok hack hdata hseq hcodes => ?receives, fun hok hack hidle => ?idle, fun hok hnak hidle holdest => ?naks,
      fun hnone => s.become_of_eq (doRetryTimeout_none hnone), fun hr => ?resends⟩,
    fun vc => ⟨fun hx => s.become_of_eq (doMessageForward_none hx), fun x hx => ⟨fun q route hbad hhop hq =>
      congrArg s.become (doMessageForward_goesOn hx hhop hbad hq), fun hbad q route hhop => congrArg s.become (doMessageForward_header hx hhop hbad)⟩⟩⟩
  case gap => exact hacked ▸ congrArg s.become (doDataFlit_outOfOrder hp hl h2 hok hack hdata hseq)
  case receives =>
    have hdone := doDataFlit_receives hp hl h2 hok hack hdata hseq hcodes
    obtain ⟨a, b, hport⟩ := State.acked_port (f := f) hl
    rw [hacked] at hdone hport
    have hlink := State.port_setLink (s := acked) (p := p) (by simpa [acked, credited, State.setLink_length] using hl)
      fun l => l.receive (flitField f 59 3) (flitField f 13 2) (flitField f 12 1 == 1) (flitField f 11 1 == 1) f
    obtain ⟨hrxSeq, hnak, hretry, htxSeq, hshared⟩ :=
      (acked.port p).link.receive_frame (flitField f 59 3) (flitField f 13 2) (flitField f 12 1 == 1) (flitField f 11 1 == 1) f
    have hrx : (acked.port p).link.rx = l.rx := by rw [hport]
    have hfree : (acked.port p).link.sharedFree = l.sharedFree := by rw [hport]; rfl
    refine ⟨_, congrArg s.become hdone, ?_⟩
    dsimp only
    rw [s.keep_port, hlink]
    refine ⟨hrxSeq.trans (by rw [hport]), hnak, hretry, htxSeq.trans (by rw [hport]), hshared, fun hfirst => ?_, fun hlater i y hy => ?_, rfl, rfl,
      fun q hq => ?_⟩
    · have hsom : (flitField f 12 1 == 1) = true := beq_iff_eq.2 hfirst
      rw [hsom, Link.receive_first, hrx, hfree]
    · have hsom : (flitField f 12 1 == 1) = false := by rw [show flitField f 12 1 = 0 from hlater]; rfl
      rw [hsom]
      exact Link.receive_next _ _ _ _ _ (hrx ▸ hy)
    · exact (s.keep_port _ q).trans ((acked.port_setLink_other _ hq).trans ((credited.port_setLink_other _ hq).trans (s.port_setLink_other _ hq)))
  case idle => exact hacked ▸ congrArg s.become ((doIdleFlit_good hp h2 hok hidle).trans (State.flitControl_acks hack))
  case naks =>
    have hnaks := (doIdleFlit_good hp h2 hok hidle).trans (State.flitControl_naks hl h2 hnak holdest)
    rw [hcredited] at hnaks
    have hkeeps : s.become (doIdleFlit p f s) = .next (s.keep (credited.keep (doRetryTimeout p credited))) := by
      rw [State.become_eq, hnaks, State.keep_keep]
    exact hkeeps
  case resends =>
    have hmoves := doRetryTimeout_moves h2 hr
    obtain ⟨hstate, -, -, -, -, -, -, -, -, -, -, hcount, hlink⟩ := Port.mute_fields (State.movesPort_port hmoves hl)
    obtain ⟨hmem, htasks, -⟩ := State.movesPort_frame hmoves
    have hretries : l.retry ≠ [] → (s.port p).resent.count.retries = sat32 ((s.port p).count.retries + l.retry.length) :=
      fun hne => if_neg (by simpa using hne)
    exact State.movesPort_completes hmoves rfl ⟨hstate.trans h2, congrArg Link.retry hlink,
      fun hne => (congrArg PortCounters.retries hcount).trans (hretries hne), hmem, htasks⟩

end

section
/-! SUPPORT. The port commands (R204, R209 to R211, R431) past their checks. -/

namespace Sys2Proof.Machine

variable {s : State} {r : CmdRef} {c : Cmd} {p : Nat}

/-! ## A reply leaves the fabric -/

theorem State.wardTrip_fabric (s : State) (n : Nat) : (s.wardTrip n).fabric = s.fabric := by
  simp only [State.wardTrip]
  split <;> split <;> rfl

theorem State.reply_fabric (s : State) (r : CmdRef) (st d v : Nat) : (s.reply r st d v).fabric = s.fabric := by
  have hlost (c : Cmd) : ((s.replyLost c st).dropCmd r).fabric = s.fabric := by
    unfold State.replyLost State.replyFail State.dropCmd
    split <;> simp [State.wardTrip_fabric]
  unfold State.reply
  cases s.cmd r with
  | none => rfl
  | some c =>
    dsimp only
    split
    · rfl
    · split
      · rfl
      · split
        · exact hlost c
        · rfl

/-! ## Checks that pass -/

theorem State.portFenced_pass (h : (s.port p).domain = 0) : (s.portFenced p).1 = false := by simp [State.portFenced, h]

theorem portNumber_pass (h : p ≤ 15) : (portNumber p).1 = false := by simpa [portNumber] using h

/-! ## PORT_STOP (R209, R210) -/

theorem doPortStop_stops (hd : (s.port (c.p 0 1)).domain = 0) (hp : c.p 0 1 ≤ 15) (hz : ∀ n, 1 ≤ n → c.params.getD n 0 = 0) : doPortStop r c s =
    ((s.endPort (c.p 0 1)).setPort (c.p 0 1) fun x => { x with state := 0, cause := 0, retrainTimes := [] }).reply r 0 0 0 := by
  unfold doPortStop
  refine State.checked_pass _ _ _ _ (firstBad_none ?_)
  simp only [List.forall_mem_cons]
  exact ⟨State.portFenced_pass hd, portNumber_pass hp, Cmd.beyond_passes hz, List.forall_mem_nil _⟩

/-- A port with no transaction and nothing to send ends with its link layer cleared and its lasers off. -/
theorem State.endPort_idle (hx : (s.fabric.txns.filter fun t => t.port == p) = []) (htx : (s.port p).link.tx = []) :
    s.endPort p = s.setPort p fun x => { x with link := {}, width := 0, laser := false } := by
  simp [State.endPort, hx, htx]

/-! ## PORT_CONFIGURE and PORT_START (R184, R185, R210) -/

theorem doPortConfigure_stores (hd : (s.port (c.p 0 1)).domain = 0) (hp : c.p 0 1 ≤ 15) (hz : ∀ n, 12 ≤ n → c.params.getD n 0 = 0)
    (hrole : c.p 1 1 ≤ 4) (hring : c.p 2 1 ≤ 7) (hflags : c.p 3 1 ≤ 3) (hsize : c.p 1 1 = 1 ∨ c.p 1 1 = 2 → 2 ≤ c.p 4 2 ∧ c.p 4 2 ≤ 4096)
    (h6 : c.p 6 2 = 0) (hstate : (s.port (c.p 0 1)).state = 0 ∨ (s.port (c.p 0 1)).state = 4) : doPortConfigure r c s =
      (s.setPort (c.p 0 1) fun x => { x with
        role := c.p 1 1, ring := c.p 2 1, dateline := c.p 3 1 % 2 == 1, chain := 2 ≤ c.p 3 1, size := c.p 4 2
        expect := BitVec.ofNat 32 (c.p 8 4) }).reply r 0 0 0 := by
  have hzero : ((c.p 1 1 == 1 || c.p 1 1 == 2) && c.p 4 2 == 0) = false := by
    by_cases h : c.p 1 1 = 1 ∨ c.p 1 1 = 2
    · simp only [Bool.and_eq_false_iff, beq_eq_false_iff_ne]
      exact Or.inr (by have := hsize h; omega)
    · simp only [not_or] at h
      simp [h]
  have hrange : ((c.p 1 1 == 1 || c.p 1 1 == 2) && !(decide (2 ≤ c.p 4 2) && decide (c.p 4 2 ≤ 4096))) = false := by
    by_cases h : c.p 1 1 = 1 ∨ c.p 1 1 = 2
    · simp [hsize h]
    · simp only [not_or] at h
      simp [h]
  have hdateline : bitOf (c.p 3 1) 0 = (c.p 3 1 % 2 == 1) := by simp [bitOf]
  have hchain : bitOf (c.p 3 1) 1 = decide (2 ≤ c.p 3 1) := by
    rw [bitOf, beq_eq_decide]
    exact decide_eq_decide.2 (by omega)
  rw [← hdateline, ← hchain]
  unfold doPortConfigure
  refine State.checked_pass _ _ _ _ (firstBad_none ?_)
  simp only [List.forall_mem_cons]
  exact ⟨State.portFenced_pass hd, hzero, portNumber_pass hp, by simpa using hrole, by simpa using hring, by simpa using hflags, hrange,
    Cmd.reserved_pass h6, Cmd.beyond_passes hz, by rcases hstate with h | h <;> simp [h], List.forall_mem_nil _⟩

/-- A port that begins training, its lasers on. -/
def Port.training (x : Port) : Port := { x with state := 1, laser := true, cause := 0, link := {} }

/-- The state with a port in training: its lasers are no longer off, and the module not in standby. -/
def State.startPort (s : State) (p : Nat) : State :=
  ((s.setKeeper fun k => { k with lasersOff := if bitOf k.lasersOff p then k.lasersOff - 2 ^ p else k.lasersOff }).setPort p Port.training).setPower
    fun x => { x with standby := false }

theorem doPortStart_trains (hd : (s.port (c.p 0 1)).domain = 0) (hp : c.p 0 1 ≤ 15) (hz : ∀ n, 1 ≤ n → c.params.getD n 0 = 0)
    (hpin : s.power.evt1Low = false) (hstate : (s.port (c.p 0 1)).state = 0) (hrole : (s.port (c.p 0 1)).role ≠ 0) :
    doPortStart r c s = (s.startPort (c.p 0 1)).reply r 0 0 0 := by
  unfold doPortStart
  refine State.checked_pass _ _ _ _ (firstBad_none ?_)
  simp only [List.forall_mem_cons]
  exact ⟨State.portFenced_pass hd, portNumber_pass hp, Cmd.beyond_passes hz, hpin, by simp [hstate, hrole], List.forall_mem_nil _⟩

/-! ## PORT_STATUS (R210, R211, R431) -/

theorem layRecord_length {len : Nat} {fields : List (Nat × Nat × Nat)} (h : ∀ x ∈ fields, x.1 + x.2.1 ≤ len) : (layRecord len fields).length = len := by
  refine List.foldlRecOn (motive := fun b : Bytes => b.length = len) fields _ (List.length_replicate ..) fun b hb x hx => ?_
  have hfits := h x hx
  simp only [List.length_append, List.length_take, List.length_drop, toLe_length, hb]
  omega

theorem Port.record_length (x : Port) : x.record.length = 64 := layRecord_length (by simp)

theorem doPortStatus_gives (hp : c.p 0 1 ≤ 15) (h1 : c.p 1 7 = 0) (hz : ∀ n, 16 ≤ n → c.params.getD n 0 = 0) (hfar : s.farOk (c.p 8 8) 64 = true) :
    doPortStatus r c s = (s.farPut (c.p 8 8 - farBase) (s.port (c.p 0 1)).record 0 .hostBuffer).reply r 0 0 0 := by
  have hsome : (s.port (c.p 0 1)).record.isEmpty = false := by
    rw [List.isEmpty_eq_false_iff, ← List.length_pos_iff, Port.record_length]
    decide
  unfold doPortStatus
  rw [State.checked_pass _ _ _ _ (firstBad_none ?_)]
  · simp only [State.giveRecord, hsome, Bool.false_eq_true, if_false]
    rfl
  · simp only [List.forall_mem_cons]
    exact ⟨portNumber_pass hp, Cmd.reserved_pass h1, by simp [hfar], Cmd.beyond_passes hz, List.forall_mem_nil _⟩

/-! ## ROUTE_SET (R204, R210) -/

/-- The entry of a ROUTE_SET command at its place in the list. -/
def Cmd.routeEntry (c : Cmd) (i : Nat) : RouteEntry :=
  { device := BitVec.ofNat 32 (c.p (4 + 24 * i) 4), route := BitVec.ofNat 64 (c.p (4 + 24 * i + 8) 8)
    down := BitVec.ofNat 64 (c.p (4 + 24 * i + 16) 8) }

theorem doRouteSet_sets (hlen : 4 + 24 * c.p 0 4 ≤ c.params.length) (hz : ∀ n, 4 + 24 * c.p 0 4 ≤ n → c.params.getD n 0 = 0)
    (hgood : ∀ i < c.p 0 4, ∀ x ∈ s.fabric.routeBad (4 + 24 * i) (c.routeEntry i).route (c.routeEntry i).down (c.p (4 + 24 * i + 4) 4), x.1 = false)
    (hfits : ((List.range (c.p 0 4)).foldl (fun l i => setRoute l (c.routeEntry i)) s.fabric.routes).length ≤ 16384) :
    doRouteSet r c s = (s.setFabric fun f => { f with
      routes := (List.range (c.p 0 4)).foldl (fun l i => setRoute l (c.routeEntry i)) s.fabric.routes }).reply r 0 0 0 := by
  have hall : min (c.p 0 4) (c.params.length / 24 + 1) = c.p 0 4 := by omega
  have hbad : ∀ x ∈ (List.range (c.p 0 4)).flatMap fun i =>
      s.fabric.routeBad (4 + 24 * i) (c.routeEntry i).route (c.routeEntry i).down (c.p (4 + 24 * i + 4) 4), x.1 = false := by
    intro x hx
    obtain ⟨i, hi, hmem⟩ := List.mem_flatMap.1 hx
    exact hgood i (List.mem_range.1 hi) x hmem
  unfold doRouteSet
  simp only [hall]
  refine State.checked_pass _ _ _ _ (firstBad_none ?_)
  simp only [List.forall_mem_append, List.forall_mem_cons]
  exact ⟨⟨⟨fun x hx => hbad x (List.mem_of_mem_filter hx), by simp; omega, List.forall_mem_nil _⟩, fun x hx => hbad x (List.mem_of_mem_filter hx)⟩,
    Cmd.beyond_passes hz, decide_eq_false (Nat.not_lt.2 hfits), List.forall_mem_nil _⟩

end Sys2Proof.Machine

open Sys2Proof Sys2Proof.Machine

/-- Settles O39: each command that may begin and passes its checks is one change of the port, of the routes or of the adapter's requests, and a reply. -/
theorem portCommandsSetUpAndReportPorts : Obligations.PortCommandsSetUpAndReportPorts := by
  intro s r c p u
  have hacts {op : Nat} {i : Instr} {act : Cmd → State → State} {v : State} (h : s.mayBegin r c op = true) (hact : act c u = v) :
      s.become (cmdRow r op i act s) = .next (s.keep v) := congrArg s.become ((cmdRow_begins s i act h).trans hact)
  refine ⟨fun h hd hp hz => ⟨?stop, fun hx htx => ?stopIdle⟩, fun h hd hp hz hrole hring hflags hsize h6 hstate => ?configure,
    fun h hd hp hz hpin hstate hrole => ?start, fun h hp h1 hz hfar => ?status, fun h hlen hz hgood hfits => ?routes⟩
  case stop => exact hacts h (doPortStop_stops hd hp hz)
  case stopIdle =>
    have hended : (u.endPort p).setPort p (fun x => { x with state := 0, cause := 0, retrainTimes := [] }) =
        u.setPort p fun x => { x with link := {}, width := 0, laser := false, state := 0, cause := 0, retrainTimes := [] } := by
      rw [State.endPort_idle (s := u) hx htx, State.setPort_setPort]
    exact hacts h ((doPortStop_stops (s := u) hd hp hz).trans (congrArg (State.reply · r 0 0 0) hended))
  case configure => exact hacts h (doPortConfigure_stores hd hp hz hrole hring hflags hsize h6 hstate)
  case start =>
    have hport (q : Nat) : (s.keep ((u.startPort p).reply r 0 0 0)).port q = (s.setPort p Port.training).port q :=
      congrArg (fun f : Fabric => f.ports.getD q {}) ((u.startPort p).reply_fabric r 0 0 0)
    obtain ⟨-, -, hjobs, hmem, -⟩ := (u.startPort p).reply_frame r 0 0 0
    exact ⟨_, hacts h (doPortStart_trains hd hp hz hpin hstate hrole), fun hl => (hport p).trans (s.port_setPort p _ hl),
      fun q hq => (hport q).trans (s.port_setPort_other p q _ (Ne.symm hq)), hjobs, hmem⟩
  case status => exact hacts h (doPortStatus_gives hp h1 hz hfar)
  case routes => exact hacts h (doRouteSet_sets hlen hz hgood hfits)

end

section
/-! SUPPORT. Instances of a collective (R217 to R219, R262): how COLLSTART begins one and how the oldest one ends. -/

namespace Sys2Proof.Machine

variable {s : State} {t : TaskRef} {k : Task} {off j n : Nat} {c : Coll}

/-! ## What a collective reads -/

/-- Only an ALL_TO_ALL looks at counts in what it reads (R230). -/
theorem srcBytes_counts {d : CollDecl} (hop : d.op ≠ 4) (me rows : Nat) (counts : List Nat) : srcBytes d me rows counts = srcBytes d me rows [] := by
  unfold srcBytes
  split
  case h_4 h => exact absurd h hop
  all_goals rfl

theorem State.collEnter_counts (hop : c.decl.op ≠ 4) (i : CollInstance) (me : Nat) (counts : List Nat) (src : Bytes) :
    s.collEnter j n c i me counts src = s.collEnter j n c i me [] src := by
  unfold State.collEnter
  split
  case h_4 h => exact absurd h hop
  all_goals rfl

/-! ## COLLSTART -/

/-- What a call asks its collective to begin (R217, R218). -/
def Coll.called (c : Coll) (call : Bytes) (step : Nat) (prov : Bool) : CollInstance :=
  { number := c.started, signal := bitOf (fieldN call 2 1) 0, line := fieldN call 3 1, rows := fieldN call 4 4, src := fieldN call 8 8
    dst := fieldN call 0x10 8, counts := fieldN call 0x18 8, step := step, prov := prov
    written := fieldN call 4 4 == 0, ordinal := if c.inStep.1 = step then c.inStep.2 else 0 }

/-- The rows that each member of an ALL_TO_ALL with static counts gets from this module; no counts for any other collective (R230). -/
def Coll.staticCounts (c : Coll) : List Nat :=
  if c.decl.op = 4 then (List.range c.decl.members.length).map (staticRows c.decl) else []

section Called

variable (hc : s.canIssue t = true) (hk : s.task t = some k) (hp : s.plainWs t k = true) (h32 : off % 32 = 0) (hin : off + 32 ≤ wsBytes)
  {call : Bytes} (hcall : s.mem.read (wsKey t.job k.home off) 32 = call) {u : State} (hu : s.did t id = u) {me : Nat}
  (hcoll : u.coll t.job (fieldN call 0 2) = some c) (hme : memberIndex c.decl u.ident.device = some me) (hop : c.decl.op ≠ 6)

include hk hp hin hcall hu

/-- The call as memory holds it, read after the issue. -/
theorem State.readCall_did : u.readWs t k off 32 = .ok call u := by
  subst hu hcall
  exact (s.did t id).readWs_plain (s.plainWs_did hk id (fun _ => rfl) hp) hin

include hc h32 hcoll hme hop

/-- COLLSTART behind two instances in progress waits (R219). -/
theorem doCollstart_waits (hfull : 2 ≤ c.active.length) : doCollstart t off s =
    (s.hold (.task t) (.collstart t off)).setTask t fun x => { x with block := some .collective } := by
  simp [doCollstart, s.issue_eq hc hk, hu, h32, State.readCall_did hk hp hin hcall hu, hcoll, hme, hop, hfull]

variable (hroom : c.active.length < 2) {i : CollInstance} (hi : c.called call (u.job t.job).train.step k.prov = i)

include hroom hi

/-- A call of zero rows is only counted (R218). -/
theorem doCollstart_counts (hrows : fieldN call 4 4 = 0) : doCollstart t off s = u.collBegin t.job (fieldN call 0 2) i := by
  subst hi
  simp [doCollstart, s.issue_eq hc hk, hu, h32, State.readCall_did hk hp hin hcall hu, hcoll, hme, hop, Nat.not_le.2 hroom, hrows,
    Coll.called]

/-- Its input read, the one begun is entered and goes as far as it can, and the messages that came early for it are due after that (R218, R219). -/
theorem doCollstart_enters (hrows : fieldN call 4 4 ≠ 0) (hstatic : c.decl.op = 4 → i.counts = 0) (hplain : u.plainRead t.job = true)
    (hsrc : u.reaches t.job i.src (srcBytes c.decl me i.rows c.staticCounts)) : doCollstart t off s =
      (((u.collBegin t.job (fieldN call 0 2) i).collEnter t.job (fieldN call 0 2) c i me c.staticCounts
        (u.mem.read i.src (srcBytes c.decl me i.rows c.staticCounts))).collProgress t.job (fieldN call 0 2) i.number).collRetry t.job (fieldN call 0 2) := by
  obtain ⟨-, -, -, -, hprov⟩ := s.plainWs_parts hp
  have hdev := u.readDev_plain hplain hsrc
  subst hi
  by_cases hex : c.decl.op = 4
  · simp only [Coll.staticCounts, if_pos hex, Coll.called] at hdev hstatic ⊢
    simp [doCollstart, s.issue_eq hc hk, hu, h32, State.readCall_did hk hp hin hcall hu, hcoll, hme, hex, Nat.not_le.2 hroom, hrows, hstatic, hprov, hdev]
  · simp only [Coll.staticCounts, if_neg hex, Coll.called] at hdev ⊢
    simp [doCollstart, s.issue_eq hc hk, hu, h32, State.readCall_did hk hp hin hcall hu, hcoll, hme, hop, Nat.not_le.2 hroom, hrows, hex, hprov, hdev,
      srcBytes_counts hex _ _ (List.map _ _), State.collEnter_counts hex _ _ (List.map _ _)]

end Called

/-! ## COLLECTIVE_INSTANCE_DONE -/

theorem doCollectiveInstanceDone_none (h : s.coll j n = none ∨ ∃ c, s.coll j n = some c ∧ c.active = []) :
    doCollectiveInstanceDone j n s = s := by
  obtain h | ⟨c, h, hnone⟩ := h
  · simp only [doCollectiveInstanceDone, h]
  · simp only [doCollectiveInstanceDone, h, hnone, List.head?_nil]

/-- The oldest in progress of a collective gone, and the tasks of the job that waited behind it awake. -/
def State.collEnd (s : State) (j n : Nat) : State :=
  (s.setColl j n fun c => { c with active := c.active.drop 1 }).setJob j fun b => { b with
    tasks := b.tasks.map fun (k : Task) => if k.block = some .collective then { k with block := none } else k }

section Oldest

variable {i0 i : CollInstance} {l : List CollInstance} {c' : Coll} {v : State} (hcoll : s.coll j n = some c) (hactive : c.active = i0 :: l)
  (hv : s.collProgress j n i0.number = v) (hi : v.inst j n i0.number = some (c', i))

include hcoll hactive hv hi

/-- What the oldest in progress can do is done first; if it is complete then, it ends and pulses its line with SIGNAL (R219). -/
theorem doCollectiveInstanceDone_oldest : doCollectiveInstanceDone j n s =
    if v.instDone j c' i = true then
      if i.signal = true then (v.collEnd j n).pulse j (dieOf c'.decl.reducingCore) i.line 1 else v.collEnd j n
    else v := by
  simp only [doCollectiveInstanceDone, hcoll, hactive, List.head?_cons, hv, hi]
  cases v.instDone j c' i <;> rfl

end Oldest

end Sys2Proof.Machine

open Sys2Proof Sys2Proof.Machine

/-- Settles O44: COLLSTART waits behind two in progress or begins what its call asks for; the oldest in progress ends when it is complete. -/
theorem collectiveInstancesBeginAndComplete : Obligations.CollectiveInstancesBeginAndComplete := by
  intro s t k off hc hk hp h32 hin call j n rows u
  refine ⟨fun c me hcoll hme hop => ⟨fun hfull => ?waits, fun hroom => ⟨fun hrows => ?counts, fun hrows hstatic hplain => ?enters⟩⟩,
    fun j n => ⟨fun h => ?none, fun c i0 l hcoll hactive => ?oldest⟩⟩
  case waits => exact congrArg s.become (doCollstart_waits hc hk hp h32 hin rfl rfl hcoll hme hop hfull)
  case counts => exact congrArg s.become (doCollstart_counts hc hk hp h32 hin rfl rfl hcoll hme hop hroom rfl hrows)
  case enters =>
    intro counts hsrc
    exact congrArg s.become (doCollstart_enters hc hk hp h32 hin rfl rfl hcoll hme hop hroom rfl hrows hstatic hplain hsrc)
  case none => exact s.become_of_eq (doCollectiveInstanceDone_none h)
  case oldest =>
    intro v c' i hi
    have hdone := doCollectiveInstanceDone_oldest hcoll hactive rfl hi
    have hends (h : v.instDone j c' i = true) := hdone.trans (if_pos h)
    exact ⟨fun h => congrArg s.become (hdone.trans (if_neg (Bool.eq_false_iff.1 h))),
      fun h hs => congrArg s.become ((hends h).trans (if_neg (Bool.eq_false_iff.1 hs))),
      fun h hs => congrArg s.become ((hends h).trans (if_pos hs))⟩

end

section
/-! SUPPORT. RESHARD (R231 to R235): its checks, a plan kept until every module is ready, the end of a plan without moves, and DATA of the
PERMUTE context. -/

namespace Sys2Proof.Machine

variable {s : State} {j : Nat} {x : Reshard}

/-! ## Early messages of the PERMUTE context -/

/-- A change that leaves the job there is leaves the state. -/
theorem State.setJob_of_same {f : Job → Job} (h : f (s.job j) = s.job j) : s.setJob j f = s := by
  have hjobs : s.jobs.modify j f = s.jobs := by
    apply List.ext_getElem?
    intro n
    rw [List.getElem?_modify]
    split
    · next hn =>
      subst hn
      cases hb : s.jobs[j]? with
      | none => rfl
      | some b =>
        have hjob : s.job j = b := by simp [State.job, List.getD, hb]
        simpa [hjob] using h
    · exact Option.map_id'
  simp only [State.setJob, hjobs]

/-- Where no message came early, trying them again does nothing. -/
theorem State.permuteRetry_quiet (h : ∀ k ∈ (s.job j).colls, k.early = []) : s.permuteRetry j = s := by
  have hcleared (n : Nat) : s.setColl j n (fun c => { c with early := [] }) = s := by
    have hcolls : (s.job j).colls.map (fun (c : Coll) => if c.decl.num = n then { c with early := [] } else c) = (s.job j).colls :=
      (List.map_congr_left fun c hc => by rw [← h c hc]; exact ite_self _).trans (List.map_id _)
    exact State.setJob_of_same (by rw [hcolls])
  unfold State.permuteRetry
  cases hp : (s.job j).permute with
  | none => simp only [State.permuteAgain, hp]
  | some c =>
    have hearly : c.early = [] := h c (List.mem_of_find?_eq_some hp)
    simp only [Option.map_some, Option.getD_some, hearly, List.length_nil, State.permuteAgain, hp, List.foldl_nil, hcleared]

/-! ## The checks of RESHARD (R232) -/

/-- A RESHARD as its command asks for it: no module has reported and nothing has moved (R231). -/
def Reshard.asked (r : CmdRef) (plan : Plan) (epoch : Nat) : Reshard := { cmd := r, plan := plan, epoch := epoch }

/-- A job with a RESHARD under way. -/
def Job.resharding (b : Job) (x : Reshard) : Job := { b with reshard := some x }

/-- A plan that R232 refuses is answered BAD_PARAM. -/
theorem doReshard_refused {r : CmdRef} {plan : Plan} {c : Cmd} (h0 : c.p 8 8 ≠ 0) (hbad : (s.job c.job).planBad s.ident.device plan = true) :
    doReshard r plan c s = s.reply r stBadParam 0 0 := by
  unfold doReshard
  exact State.checked_fail s r _ (if_pos (by simp [h0, hbad])) (by decide)

/-- A plan that R232 allows is for a job with a PERMUTE context. -/
theorem Job.permute_of_planOk {b : Job} {d : U32} {plan : Plan} (h : b.planBad d plan = false) : b.permute.isSome = true := by
  simp only [Job.planBad, Bool.or_eq_false_iff, Option.isNone_eq_false_iff] at h
  obtain ⟨⟨⟨⟨⟨⟨⟨-, hperm⟩, -⟩, -⟩, -⟩, -⟩, -⟩, -⟩ := h
  exact hperm

section Checks

variable {r : CmdRef} {plan : Plan} {c : Cmd} (hz : ∀ n, 0x18 ≤ n → c.params.getD n 0 = 0) (hs : jobAccepts (s.job c.job).state 0x0310 = .yes)

include hz hs

/-- RESHARD of length 0 changes nothing. -/
theorem doReshard_empty (h0 : c.p 8 8 = 0) : doReshard r plan c s = s.reply r stOk 0 0 := by
  have hbeyond : (c.beyond 32).1 = false := Cmd.beyond_passes fun i hi => hz i (by omega)
  unfold doReshard
  rw [State.checked_pass _ _ _ _ (firstBad_none ?_)]
  · simp [h0]
  · simp only [List.forall_mem_cons]
    exact ⟨by simp [h0], by simp [h0], Cmd.reserved_pass (fieldN_zero _ _ _ hz), hbeyond, Job.stateCheck_pass hs, by simp [h0], List.forall_mem_nil _⟩

variable (h0 : c.p 8 8 ≠ 0) (hw : (s.job c.job).inWindow (c.p 0 8) (c.p 8 8) = true)
  (hok : (s.job c.job).planBad s.ident.device plan = false)
  (hstay : c.p 0x10 8 = 0 → plan.membersChange = false)
  (hepoch : (s.job c.job).member.isSome = true →
    c.p 0x10 8 ≤ (s.job c.job).memberEpoch + 1 ∧ (c.p 0x10 8 = 0 ∨ (s.job c.job).memberEpoch < c.p 0x10 8))

include h0 hw hok hstay hepoch

/-- A plan that is allowed is kept with its command, and the other modules hear that this one is ready (R233). -/
theorem doReshard_kept : doReshard r plan c s =
    ((planOthers plan s.ident.device).foldl (fun v d => v.control c.job d 0xF [v.ident.device.toNat])
      (s.setJob c.job (·.resharding (.asked r plan (c.p 0x10 8))))).reshardProgress c.job := by
  have hbeyond : (c.beyond 32).1 = false := Cmd.beyond_passes fun i hi => hz i (by omega)
  unfold doReshard
  rw [State.checked_pass _ _ _ _ (firstBad_none ?_)]
  · exact if_neg (by simp [h0])
  · simp only [List.forall_mem_cons]
    exact ⟨by simp [hw, hok], by simpa [h0] using ⟨fun hm => (hepoch hm).1, hstay⟩, Cmd.reserved_pass (fieldN_zero _ _ _ hz), hbeyond,
      Job.stateCheck_pass hs, by simpa [h0] using fun hm hne => (hepoch hm).2.resolve_left hne, List.forall_mem_nil _⟩

end Checks

/-! ## Readiness (R233) -/

/-- While another module has still to report, nothing moves. -/
theorem State.reshardProgress_waits (hx : (s.job j).reshard = some x) {d : U32} (hd : d ∈ planOthers x.plan s.ident.device) (hn : d ∉ x.readyFrom) :
    s.reshardProgress j = s := by
  have hwait : ¬ (x.stage = 1 ∧ ((planOthers x.plan s.ident.device).all fun d => x.readyFrom.contains d) = true) :=
    fun h => hn (by simpa using List.all_eq_true.1 h.2 d hd)
  simp only [State.reshardProgress, hx, if_neg hwait]

/-- A RESHARD whose moves begin, with the tables and the program that its job has to go back to (R233, R235). -/
def Reshard.moving (x : Reshard) (b : Job) : Reshard :=
  { x with stage := 2, round := 0, oldColls := b.colls.map (·.decl), oldTasks := b.tasks.map (·.decl), oldBytes := b.grants.map fun g => g.decl.bytes }

/-- With no other module to hear from, the moves begin. -/
theorem State.reshardProgress_alone (hx : (s.job j).reshard = some x) (hstage : x.stage = 1) (hothers : planOthers x.plan s.ident.device = []) :
    s.reshardProgress j = (State.reshardRounds (x.plan.rounds.length + 1) (s.setJob j fun b => b.resharding (x.moving b)) j).permuteRetry j := by
  simp only [State.reshardProgress, hx, hstage, hothers, List.all_nil, and_self, if_true]
  rfl

/-- Reports of readiness leave every job and the identity. -/
theorem State.sends_ready (j : Nat) (l : List U32) : s.sends (l.foldl (fun v d => v.control j d 0xF [v.ident.device.toNat]) s) :=
  s.sends_foldl _ (fun v d => v.sends_control j d 0xF [v.ident.device.toNat]) l

/-! ## The end (R233) -/

/-- A job with the tables, program and layout of a plan, and what there is of its RESHARD then. -/
def Job.resharded (b : Job) (plan : Plan) (left : Option Reshard) : Job := { b with
  layout := plan.newLayout
  colls := b.colls.map fun (c : Coll) => match plan.collectives.find? fun d => d.num == c.decl.num && c.decl.op != 6 with
    | some d => { c with decl := d }
    | none => c
  tasks := if plan.tasks.length = b.tasks.length then List.zipWith (fun (k : Task) d => { k with decl := d }) b.tasks plan.tasks else b.tasks
  grants := b.grants.map fun (g : Grant) => match plan.shards.find? fun r => r.1 == g.decl.number with
    | some r => { g with decl := { g.decl with bytes := r.2 } }
    | none => g
  reshard := left }

/-- The new contexts keep the messages of the old ones. -/
theorem Job.resharded_early {b : Job} {plan : Plan} {left : Option Reshard} (h : ∀ k ∈ b.colls, k.early = []) :
    ∀ k ∈ (b.resharded plan left).colls, k.early = [] := by
  intro k hk
  obtain ⟨c, hc, rfl⟩ := List.mem_map.1 hk
  split <;> exact h c hc

theorem Job.resharded_decls (b : Job) (plan : Plan) (left : Option Reshard) : (b.resharded plan left).colls.map (·.decl) = b.colls.map fun (k : Coll) =>
    (plan.collectives.find? fun d => d.num == k.decl.num && k.decl.op != 6).getD k.decl := by
  simp only [Job.resharded, List.map_map]
  refine List.map_congr_left fun c _ => ?_
  simp only [Function.comp]
  cases plan.collectives.find? fun d => d.num == c.decl.num && c.decl.op != 6 <;> rfl

theorem State.reshardRounds_none (hx : (s.job j).reshard = some x) (hperm : (s.job j).permute.isSome = true) (hrounds : x.plan.rounds = []) (n : Nat) :
    State.reshardRounds (n + 1) s j = s.reshardFinish j := by
  obtain ⟨c, hc⟩ := Option.isSome_iff_exists.1 hperm
  simp only [State.reshardRounds, hx, hc, hrounds, List.getElem?_nil]

theorem State.reshardInstall_eq (hx : (s.job j).reshard = some x) : s.reshardInstall j = s.setJob j (·.resharded x.plan (some { x with stage := 4 })) := by
  simp only [State.reshardInstall, hx]
  rfl

section End

variable (hj : j < s.jobs.length) (hx : (s.job j).reshard = some x)

include hj hx

/-- With all data in place and no turn to wait for, the new layout is installed and the command answered. -/
theorem State.reshardFinish_ends (he : x.epoch = 0 ∨ (s.job j).memberEpoch = x.epoch) :
    s.reshardFinish j = (s.setJob j (·.resharded x.plan none)).reply x.cmd stOk 0 0 := by
  have hjob := s.job_setJob j (·.resharded x.plan (some { x with stage := 4 })) hj
  have hturn : x.epoch = 0 ∨ ((s.setJob j (·.resharded x.plan (some { x with stage := 4 }))).job j).memberEpoch = x.epoch := by rwa [hjob]
  have hleft : ((s.setJob j (·.resharded x.plan (some { x with stage := 4 }))).job j).reshard = some { x with stage := 4 } := by rw [hjob]; rfl
  simp only [State.reshardFinish, State.reshardInstall_eq hx, hleft, if_pos hturn, State.setJob_setJob]
  rfl

/-- A plan without rounds ends at once when no other module has to report. -/
theorem State.reshardProgress_ends (hstage : x.stage = 1) (hothers : planOthers x.plan s.ident.device = []) (hrounds : x.plan.rounds = [])
    (hperm : (s.job j).permute.isSome = true) (he : x.epoch = 0 ∨ (s.job j).memberEpoch = x.epoch) (hearly : ∀ k ∈ (s.job j).colls, k.early = []) :
    s.reshardProgress j = (s.setJob j (·.resharded x.plan none)).reply x.cmd stOk 0 0 := by
  have hjob := s.job_setJob j (fun b => b.resharding (x.moving b)) hj
  have hmoving : ((s.setJob j fun b => b.resharding (x.moving b)).job j).reshard = some (x.moving (s.job j)) := by rw [hjob]; rfl
  have hmoved : State.reshardRounds (x.plan.rounds.length + 1) (s.setJob j fun b => b.resharding (x.moving b)) j =
      (s.setJob j (·.resharded x.plan none)).reply x.cmd stOk 0 0 := by
    rw [State.reshardRounds_none hmoving (by rwa [hjob]) hrounds, State.reshardFinish_ends (by simpa using hj) hmoving (by rwa [hjob]), State.setJob_setJob]
    rfl
  obtain ⟨-, -, hjobs, -⟩ := (s.setJob j (·.resharded x.plan none)).reply_frame x.cmd stOk 0 0
  rw [State.reshardProgress_alone hx hstage hothers, hmoved, State.permuteRetry_quiet]
  rw [State.job_of_jobs hjobs, s.job_setJob j _ hj]
  exact Job.resharded_early hearly

end End

/-! ## DATA of the PERMUTE context (R226, R233) -/

section Data

variable {p : Nat} {m : Msg}

theorem doData_permute (ha : s.arrived p m 0x10 = true) (hk : bitsOf m.hdr.address.toNat 56 2 = 1) (hd : s.inDeviceSet m.hdr.source = true)
    (hj : m.hdr.job < 64) (hperm : (s.job m.hdr.job).permute.any (fun k => k.decl.num == bitsOf m.hdr.address.toNat 58 6) = true) :
    doData p m s = ((s.takeRx p m).permuteData p m).permuteRetry m.hdr.job := by
  have hd' := (State.portsOnly_inDeviceSet (s.portsOnly_takeRx p m) m.hdr.source).trans hd
  simp [doData, collNumber, collKind, ha, hk, hd', hj, hperm]

theorem State.permuteData_none (hx : (s.job m.hdr.job).reshard = none) : s.permuteData p m = s.protocolError p m.hdr.job m.hdr := by
  simp only [State.permuteData, hx]

section Under

variable (hx : (s.job m.hdr.job).reshard = some x)

include hx

theorem State.permuteData_unplanned (hmv : (planBetween x.plan m.hdr.source true)[bitsOf m.hdr.address.toNat 24 32]? = none) :
    s.permuteData p m = s.protocolError p m.hdr.job m.hdr := by
  simp only [State.permuteData, hx, hmv]

variable {round : Nat} {mv : ReshardMove} (hmv : (planBetween x.plan m.hdr.source true)[bitsOf m.hdr.address.toNat 24 32]? = some (round, mv))

include hmv

/-- Data of a round that has not begun here is kept. -/
theorem State.permuteData_early (he : x.stage = 1 ∨ x.round < round) : s.permuteData p m =
    s.setColl m.hdr.job (bitsOf m.hdr.address.toNat 58 6) fun k => { k with early := k.early ++ [(p, m)] } := by
  simp only [State.permuteData, hx, hmv, if_pos he, collNumber]

variable (hstage : x.stage ≠ 1) (hround : round ≤ x.round)

include hstage hround

theorem State.permuteData_bad (hbad : m.bad ≠ []) : s.permuteData p m = s.reshardFail m.hdr.job stUncorrectable := by
  simp [State.permuteData, hx, hmv, hstage, Nat.not_lt.2 hround, hbad]

/-- Data of the round under way is written, and the last that the round waits for begins the next. -/
theorem State.permuteData_lands (hbad : m.bad = []) {w : State}
    (hw : (s.moveWrite m.hdr.job mv (bitsOf m.hdr.address.toNat 0 24) m.content).setJob m.hdr.job
      (·.resharding { x with toArrive := x.toArrive - 1 }) = w) :
    s.permuteData p m = if x.toArrive ≤ 1 then w.reshardNext m.hdr.job else w := by
  subst hw
  simp [State.permuteData, hx, hmv, hstage, Nat.not_lt.2 hround, hbad, Job.resharding]

end Under

end Data

end Sys2Proof.Machine

open Sys2Proof Sys2Proof.Machine

/-- Settles O46: a plan past the checks of R232 is kept until every module is ready, one without moves or other modules ends at once, and DATA lands in
its round. -/
theorem reshardBeginsMovesAndEnds : Obligations.ReshardBeginsMovesAndEnds := by
  intro s r plan c p m u b epoch others
  refine ⟨fun hbegin hj hz hs => ?command, fun ha hk hd h64 hperm => ?data⟩
  case command =>
    have hacts {v : State} (h : doReshard r plan c u = v) : exec (.reshard r plan) s = .next (s.keep v) :=
      congrArg s.become ((cmdRow_begins s (.reshard r plan) (doReshard r plan) hbegin).trans h)
    refine ⟨fun h0 => hacts (doReshard_empty (s := u) hz hs h0), fun h0 hw => ⟨fun hbad => hacts (doReshard_refused (s := u) h0 hbad),
      fun hok hstay hepoch => ?allowed⟩⟩
    have hkept := doReshard_kept (s := u) (r := r) hz hs h0 hw hok hstay hepoch
    have hjob := u.job_setJob c.job (·.resharding (.asked r plan epoch)) hj
    refine ⟨fun hothers => ?waits, fun hothers hrounds hturn hearly => ?ends⟩
    case waits =>
      obtain ⟨d, hd⟩ := List.exists_mem_of_ne_nil others hothers
      obtain ⟨-, -, hjobs, hident, -⟩ := State.sends_fields ((u.setJob c.job (·.resharding (.asked r plan epoch))).sends_ready c.job others)
      have hheld := congrArg Job.reshard ((State.job_of_jobs hjobs c.job).trans hjob)
      exact hacts (hkept.trans (State.reshardProgress_waits hheld (d := d) ((congrArg Ident.device hident).symm ▸ hd) List.not_mem_nil))
    case ends =>
      rw [show planOthers plan u.ident.device = [] from hothers, List.foldl_nil] at hkept
      have hends := State.reshardProgress_ends (s := u.setJob c.job (·.resharding (.asked r plan epoch))) (by simpa [u] using hj)
        (congrArg Job.reshard hjob) rfl hothers hrounds (by rw [hjob]; exact Job.permute_of_planOk hok) (by rwa [hjob]) (by rwa [hjob])
      rw [State.setJob_setJob] at hends
      obtain ⟨-, -, hjobs, hmem, -⟩ := (u.setJob c.job fun b => (b.resharding (.asked r plan epoch)).resharded plan none).reply_frame r stOk 0 0
      have hnew := (State.job_of_jobs hjobs c.job).trans (u.job_setJob _ _ hj)
      exact ⟨_, hacts (hkept.trans hends), congrArg Job.layout hnew, congrArg Job.reshard hnew, hmem,
        (congrArg (fun b : Job => b.colls.map (·.decl)) hnew).trans (Job.resharded_decls _ _ _), congrArg Job.grants hnew⟩
  case data =>
    intro v j lands
    have hv (i : Nat) : v.job i = s.job i := State.portsOnly_job (s.portsOnly_takeRx p m) i
    have hlands {w : State} (h : v.permuteData p m = w) : lands w :=
      congrArg s.become ((doData_permute ha hk hd h64 hperm).trans (congrArg (State.permuteRetry · j) h))
    have hv' {o : Option Reshard} (h : (s.job j).reshard = o) : (v.job j).reshard = o := (congrArg Job.reshard (hv j)).trans h
    refine ⟨fun hx => hlands (State.permuteData_none (hv' hx)), fun x hx => ⟨fun hmv => hlands (State.permuteData_unplanned (hv' hx) hmv),
      fun round mv hmv => ⟨fun he => hlands (State.permuteData_early (hv' hx) hmv he),
        fun hst hr hbad => hlands (State.permuteData_bad (hv' hx) hmv hst hr hbad), fun hst hr hbad => ?_⟩⟩⟩
    intro w
    have hw := State.permuteData_lands (hv' hx) hmv hst hr hbad (p := p) (w := w) rfl
    exact ⟨fun h => hlands (hw.trans (if_neg (Nat.not_le.2 h))), fun h => hlands (hw.trans (if_pos h))⟩

end

section
/-! SUPPORT. The membership of a job (R237 to R245): what is read after a change of it, what sending messages leaves, and the rows of its CONTROL
messages. -/

namespace Sys2Proof.Machine

variable {s u : State} {j k : Nat} {y : Membership}

/-! ## Reading a membership -/

/-- A job that has a membership is one of the module's. -/
theorem State.member_lt (h : (s.job j).member = some y) : j < s.jobs.length := by
  by_contra hc
  have hnone : s.job j = {} := by simp [State.job, List.getD, List.getElem?_eq_none (Nat.le_of_not_lt hc)]
  simp [hnone] at h

theorem State.member_setMember (h : (s.job j).member = some y) (f : Membership → Membership) : ((s.setMember j f).job j).member = some (f y) := by
  rw [s.job_setMember j f (State.member_lt h), h]
  rfl

/-- The membership of a job is one that has a property. -/
def State.seats (s : State) (j : Nat) (P : Membership → Prop) : Prop := ∃ z, (s.job j).member = some z ∧ P z

theorem State.seats_of_job {P : Membership → Prop} (h : u.job j = s.job j) (hs : s.seats j P) : u.seats j P := by
  unfold State.seats
  rwa [h]

/-- A property that a change of any membership keeps. -/
theorem State.seats_setMember {P : Membership → Prop} {f : Membership → Membership} (hf : ∀ z, P z → P (f z)) (h : s.seats j P) (i : Nat) :
    (s.setMember i f).seats j P := by
  by_cases hij : i = j
  · subst hij
    obtain ⟨z, hz, hP⟩ := h
    exact ⟨f z, State.member_setMember hz f, hf z hP⟩
  · exact State.seats_of_job (s.job_setMember_other i j f hij) h

/-- Two changes of one membership are one change. -/
theorem State.setMember_setMember (s : State) (j : Nat) (f g : Membership → Membership) :
    (s.setMember j f).setMember j g = s.setMember j fun z => g (f z) := by
  simp only [State.setMember, State.setJob_setJob, Option.map_map]
  rfl

theorem State.setMember_jobs_congr (h : u.jobs = s.jobs) (f : Membership → Membership) : (u.setMember j f).jobs = (s.setMember j f).jobs :=
  congrArg (List.modify · j _) h

theorem State.isRoot_of (h : (s.job j).member = some y) : s.isRoot j = (y.root == some s.ident.device) := by
  simp only [State.isRoot, h]

theorem State.sends_job (h : s.sends u) (i : Nat) : u.job i = s.job i := by
  obtain ⟨-, -, hjobs, -⟩ := State.sends_fields h
  exact State.job_of_jobs hjobs i

/-! ## Folds -/

/-- What every step of a fold keeps, and one step of it brings about, holds at its end. -/
theorem foldl_reaches {σ α : Type} {f : σ → α → σ} {P Q : σ → Prop} {a : α} (hP : ∀ v b, P v → P (f v b)) (hQ : ∀ v, P v → Q (f v a))
    (hkeep : ∀ v b, Q v → Q (f v b)) {l : List α} (ha : a ∈ l) {v : σ} (hv : P v) : Q (l.foldl f v) := by
  induction l generalizing v with
  | nil => cases ha
  | cons b l ih =>
    rcases List.mem_cons.1 ha with rfl | ha
    · exact List.foldlRecOn l f (hQ v hv) fun w hw b _ => hkeep w b hw
    · exact ih ha (hP v b hv)

/-! ## Rows of CONTROL messages (R244) -/

section Rows

variable {p : Nat} {m : Msg} {kind : Nat}

/-- Whether a CONTROL message of a job comes from a member of it in the device set. -/
def State.knows (s : State) (m : Msg) : Prop :=
  m.hdr.job < 64 ∧ s.inDeviceSet m.hdr.source = true ∧ (s.job m.hdr.job).knowsMember m.hdr.source = true

/-- A CONTROL message of a kind that has arrived. -/
def State.hears (s : State) (p : Nat) (m : Msg) (kind : Nat) : Prop := s.arrived p m 0x20 = true ∧ bitsOf m.hdr.address.toNat 56 8 = kind

theorem State.takeRx_job (s : State) (p : Nat) (m : Msg) (j : Nat) : (s.takeRx p m).job j = s.job j := State.portsOnly_job (s.portsOnly_takeRx p m) j

theorem State.takeRx_ident (s : State) (p : Nat) (m : Msg) : (s.takeRx p m).ident = s.ident := by
  obtain ⟨-, -, hident, -⟩ := s.takeRx_fields p m
  exact hident

variable {act : Nat → State → State}

theorem controlRow_drops (h : s.hears p m kind) (hk : ¬ s.knows m) : controlRow p m kind act s = (s.takeRx p m).wardDrop p :=
  (controlRow_take s h).trans (if_neg hk)

theorem controlRow_acts (h : s.hears p m kind) (hk : s.knows m) : controlRow p m kind act s = act m.hdr.job (s.takeRx p m) :=
  (controlRow_take s h).trans (if_pos hk)

end Rows

end Sys2Proof.Machine
end

section
/-! SUPPORT. Heartbeats, suspicion, eviction and isolation (R240 to R245, R250, R252, R269, R270). -/

namespace Sys2Proof.Machine

variable {s : State} {p j k kind : Nat} {m : Msg} {d : U32} {y : Membership}

/-! ## Rows of neighbours (R244) -/

section Rows

variable {act : State → State}

/-- A device is beyond a port or a neighbour in some job tree. -/
def State.near (s : State) (p : Nat) (d : U32) : Prop := (s.port p).neighbour = d ∨ s.treeNeighbour d = true

theorem neighbourRow_skip (h : ¬ s.hears p m kind) : neighbourRow p m kind act s = s := by
  refine if_pos (or_iff_not_imp_left.2 fun ha hk => h ⟨?_, hk⟩)
  simpa using ha

theorem State.takeRx_near (s : State) (p : Nat) (m : Msg) (d : U32) :
    ((s.takeRx p m).port p).neighbour = d ∨ (s.takeRx p m).treeNeighbour d = true ↔ s.near p d := by
  obtain ⟨hjobs, -, hident, -, -, -, -, hfar⟩ := s.takeRx_fields p m
  rw [State.near, hfar, State.treeNeighbour, hjobs, hident, State.treeNeighbour]

theorem neighbourRow_heard (h : s.hears p m kind) : neighbourRow p m kind act s =
    if ((s.takeRx p m).port p).neighbour = m.hdr.source ∨ (s.takeRx p m).treeNeighbour m.hdr.source = true
    then act (s.takeRx p m) else (s.takeRx p m).wardDrop p := by
  obtain ⟨ha, hk⟩ := h
  refine if_neg (not_or.2 ⟨by simp [ha], not_not.2 hk⟩)

theorem neighbourRow_drops (h : s.hears p m kind) (hn : ¬ s.near p m.hdr.source) : neighbourRow p m kind act s = (s.takeRx p m).wardDrop p :=
  (neighbourRow_heard h).trans (if_neg fun hc => hn ((s.takeRx_near p m _).1 hc))

theorem neighbourRow_acts (h : s.hears p m kind) (hn : s.near p m.hdr.source) : neighbourRow p m kind act s = act (s.takeRx p m) :=
  (neighbourRow_heard h).trans (if_pos ((s.takeRx_near p m _).2 hn))

end Rows

/-! ## Heartbeats sent (R240, R241) -/

/-- The ports by which heartbeats leave: for each device at the far end of ports that are UP, the first of them. -/
def State.beatPorts (s : State) : List Nat :=
  let up := (List.range 16).filter fun p => (s.port p).state == 2
  up.filter fun p => !((up.takeWhile fun q => q != p).any fun q => (s.port q).neighbour == (s.port p).neighbour)

/-- A heartbeat of this module to a device. -/
def State.beatTo (s : State) (d : U32) (x : TxMsg) : Prop :=
  x.msg.hdr.dest = d ∧ x.msg.hdr.opcode = 0x20 ∧ bitsOf x.msg.hdr.address.toNat 56 8 = 1 ∧ x.msg.content = s.beatBytes

/-- The first element of a list with each value of a function is kept when those with an earlier one of the same value are not. -/
theorem exists_mem_filter_first {α β : Type} [BEq α] [LawfulBEq α] [BEq β] [LawfulBEq β] (f : α → β) {l : List α} {a : α} (ha : a ∈ l) :
    ∃ q ∈ l.filter (fun p => !((l.takeWhile fun q => q != p).any fun q => f q == f p)), f q = f a := by
  obtain ⟨q, hq⟩ := Option.isSome_iff_exists.1 (List.find?_isSome.2 ⟨a, ha, beq_self_eq_true (f a)⟩ : (l.find? fun q => f q == f a).isSome)
  have hfa : f q = f a := by simpa using List.find?_some hq
  obtain ⟨-, before, after, hl, hbefore⟩ := List.find?_eq_some_iff_append.1 hq
  refine ⟨q, List.mem_filter.2 ⟨List.mem_of_find?_eq_some hq, ?_⟩, hfa⟩
  have hnew : ∀ x ∈ before, f x ≠ f q := fun x hx => by simpa [hfa] using hbefore x hx
  have htake : l.takeWhile (fun x => x != q) = before := by
    rw [hl, List.takeWhile_append_of_pos fun x hx => by simpa using fun hc => hnew x hx (congrArg f hc)]
    simp
  rw [htake]
  simpa using hnew

theorem State.port_lt (h : (s.port p).state = 2) : p < s.fabric.ports.length := by
  by_contra hc
  have hnone : s.port p = {} := by simp [State.port, List.getD, List.getElem?_eq_none (Nat.le_of_not_lt hc)]
  simp [hnone] at h

theorem State.sends_controlPort (s : State) (p kind low : Nat) (b : Bytes) : s.sends (s.controlPort p kind low b) := s.sends_txPut _ _ _ _

/-- A message put at a port that exists is among those that it has to send. -/
theorem State.controlPort_puts (hp : p < s.fabric.ports.length) (low : Nat) (b : Bytes) : ∃ x ∈ ((s.controlPort p kind low b).port p).link.tx,
    x.msg.hdr.dest = (s.port p).neighbour ∧ x.msg.hdr.opcode = 0x20 ∧ x.msg.hdr.address = BitVec.ofNat 64 (kind * 2 ^ 56 + low) ∧ x.msg.content = b := by
  unfold State.controlPort State.txPut State.setLink
  dsimp only
  rw [s.port_setPort p _ hp]
  exact ⟨_, List.mem_append_right _ (List.mem_singleton_self _), rfl, rfl, rfl, rfl⟩

/-- Heartbeats sent by ports and by routes. -/
def State.beaten (s : State) (l : List U32) : State :=
  l.foldl (fun v d => v.controlDev d 1 s.fabric.beat s.beatBytes) (s.beatPorts.foldl (fun v p => v.controlPort p 1 s.fabric.beat s.beatBytes) s)

theorem doHeartbeatPeriod_eq (h : s.keeper.device = 0) :
    ∃ l, doHeartbeatPeriod s = (s.beaten l).setFabric fun f => { f with beat := (f.beat + 1) % 2 ^ 32 } :=
  ⟨_, if_neg (not_not.2 h)⟩

theorem State.sends_beaten (s : State) (l : List U32) : s.sends (s.beaten l) :=
  State.sends_trans (s.sends_foldl _ (fun v _ => v.sends_controlPort _ _ _ _) _) (State.sends_foldl _ _ (fun v _ => v.sends_controlDev _ _ _ _) _)

/-- One of the ports with a device at its far end has a heartbeat for it to send. -/
theorem State.beaten_reaches (hbeat : s.fabric.beat < 2 ^ 32) (l : List U32) {a : Nat} (ha : a < 16) (hup : (s.port a).state = 2) :
    ∃ q x, (s.port q).state = 2 ∧ (s.port q).neighbour = (s.port a).neighbour ∧ x ∈ ((s.beaten l).port q).link.tx ∧ s.beatTo (s.port a).neighbour x := by
  obtain ⟨q, hq, hfar⟩ := exists_mem_filter_first (fun p => (s.port p).neighbour) (a := a)
    (l := (List.range 16).filter fun p => (s.port p).state == 2) (by simp [ha, hup])
  have hqup : (s.port q).state = 2 := by simpa using (List.mem_filter.1 (List.mem_of_mem_filter hq)).2
  have hkind : bitsOf (BitVec.ofNat 64 (1 * 2 ^ 56 + s.fabric.beat)).toNat 56 8 = 1 := by
    rw [bitsOf, BitVec.toNat_ofNat]
    omega
  have hput (v : State) (hv : s.sends v) : ∃ x ∈ ((v.controlPort q 1 s.fabric.beat s.beatBytes).port q).link.tx, s.beatTo (s.port a).neighbour x := by
    obtain ⟨-, -, -, -, -, -, -, -, -, -, -, hlen⟩ := State.sends_fields hv
    obtain ⟨-, hnext, -⟩ := hv.2 q
    obtain ⟨x, hx, hdest, hop, haddr, hbody⟩ := v.controlPort_puts (kind := 1) (hlen.symm ▸ State.port_lt hqup) s.fabric.beat s.beatBytes
    exact ⟨x, hx, hdest.trans (hnext.trans hfar), hop, haddr ▸ hkind, hbody⟩
  have hsent : ∃ x ∈ ((s.beatPorts.foldl (fun v p => v.controlPort p 1 s.fabric.beat s.beatBytes) s).port q).link.tx, s.beatTo (s.port a).neighbour x :=
    foldl_reaches (f := fun (v : State) (p : Nat) => v.controlPort p 1 s.fabric.beat s.beatBytes) (P := s.sends)
      (Q := fun v => ∃ x ∈ (v.port q).link.tx, s.beatTo (s.port a).neighbour x)
      (fun v b hv => State.sends_trans hv (v.sends_controlPort _ _ _ _)) hput
      (fun v b ⟨x, hx, hto⟩ => ⟨x, ((v.sends_controlPort _ _ _ _).2 q).2.2 x hx, hto⟩) hq s.sends_refl
  obtain ⟨x, hx, hto⟩ := hsent
  exact ⟨q, x, hqup, hfar, ((State.sends_foldl _ _ (fun v _ => v.sends_controlDev _ _ _ _) l).2 q).2.2 x hx, hto⟩

/-! ## Heartbeats heard (R241, R270) -/

/-- A membership that has heard a heartbeat's body from a device. -/
def Membership.told (d : U32) (body : Bytes) (y : Membership) : Membership :=
  if y.members.any fun e => e.device == d then y.setInfo d fun i => { i with
    patina := some (fieldN body 8 2), worn := i.worn || bitOf (fieldN body 0xA 1) 0, retire := i.retire || bitOf (fieldN body 0xA 1) 1 } else y

/-- What a heartbeat has told of its sender. -/
def Membership.heard (y : Membership) (d : U32) (body : Bytes) : Prop := ∃ i ∈ y.infos, i.device = d ∧ i.patina = some (fieldN body 8 2) ∧
  (bitOf (fieldN body 0xA 1) 0 = true → i.worn = true) ∧ (bitOf (fieldN body 0xA 1) 1 = true → i.retire = true)

theorem Membership.told_members (y : Membership) (d : U32) (body : Bytes) : (y.told d body).members = y.members := by
  unfold Membership.told
  split
  · obtain ⟨l, hl⟩ := y.setInfo_eq d _
    rw [hl]
  · rfl

theorem Membership.told_heard (h : y.members.any (fun e => e.device == d) = true) (body : Bytes) : (y.told d body).heard d body := by
  rw [Membership.told, if_pos h]
  obtain ⟨i, hi, hd, -⟩ := y.setInfo_mem d (fun i => { i with
    patina := some (fieldN body 8 2), worn := i.worn || bitOf (fieldN body 0xA 1) 0, retire := i.retire || bitOf (fieldN body 0xA 1) 1 }) fun _ => rfl
  obtain ⟨x, hx, hxi⟩ := List.any_eq_true.1 hi
  obtain rfl := eq_of_beq hxi
  exact ⟨_, hx, hd, rfl, fun hw => by simp [hw], fun hr => by simp [hr]⟩

theorem State.hear_fields (s : State) (d : U32) (body : Bytes) : (s.hear d body).mem = s.mem ∧ (s.hear d body).cores = s.cores :=
  List.foldlRecOn (motive := fun (v : State) => v.mem = s.mem ∧ v.cores = s.cores) _ _ ⟨rfl, rfl⟩ fun _ h _ _ => h

theorem State.foldl_told (body : Bytes) {l : List Nat} (hk : k ∈ l) (hy : (s.job k).member = some y) (hd : y.members.any (fun e => e.device == d) = true) :
    (l.foldl (fun (v : State) i => v.setMember i (·.told d body)) s).seats k fun z => z.members = y.members ∧ z.heard d body := by
  have hkept {P : Membership → Prop} (hP : ∀ z, P z → P (z.told d body)) (v : State) (i : Nat) : v.seats k P → (v.setMember i (·.told d body)).seats k P :=
    fun hv => State.seats_setMember hP hv i
  have hmembers (z : Membership) (hz : z.members = y.members) : (z.told d body).members = y.members := (z.told_members d body).trans hz
  have hheard (z : Membership) (hz : z.members = y.members) : (z.told d body).members = y.members ∧ (z.told d body).heard d body :=
    ⟨hmembers z hz, Membership.told_heard (hz.symm ▸ hd) body⟩
  have hnow (v : State) : v.seats k (fun z => z.members = y.members) →
      (v.setMember k (·.told d body)).seats k fun z => z.members = y.members ∧ z.heard d body :=
    fun ⟨z, hz, hP⟩ => ⟨_, State.member_setMember hz _, hheard z hP⟩
  exact foldl_reaches (hkept hmembers) hnow (hkept fun z hz => hheard z hz.1) hk ⟨y, hy, rfl⟩

theorem State.hear_seats (body : Bytes) (hk : k < 64) (hy : (s.job k).member = some y) (hd : y.members.any (fun e => e.device == d) = true) :
    (s.hear d body).seats k fun z => z.members = y.members ∧ z.heard d body := State.foldl_told body (List.mem_range.2 hk) hy hd

/-! ## Suspicion (R242, R243, R245) -/

/-- What a change of a membership in which the module suspects or notes a device leaves. -/
structure Membership.grows (y z : Membership) : Prop where
  members : z.members = y.members
  epoch : z.epoch = y.epoch
  state : z.state = y.state
  suspects : ∀ x ∈ y.suspects, x ∈ z.suspects

theorem Membership.grows_refl (y : Membership) : y.grows y := ⟨rfl, rfl, rfl, fun _ h => h⟩

theorem Membership.grows_trans {y z w : Membership} (h : y.grows z) (g : z.grows w) : y.grows w :=
  ⟨g.members.trans h.members, g.epoch.trans h.epoch, g.state.trans h.state, fun x hx => g.suspects x (h.suspects x hx)⟩

/-- A suspicion noted is one change of the job's membership: a member joins the removals gathered, and at the coordinator the window opens. -/
theorem State.noteSuspect_eq (s : State) (j : Nat) (d : U32) (reason : Nat) (owns : Bool) : ∃ f : Membership → Membership,
    s.noteSuspect j d reason owns = s.setMember j f ∧ ∀ y, y.grows (f y) ∧ (reason ≠ 5 → reason ≠ 6 → y.members.any (fun e => e.device == d) = true →
      (f y).gather.contains d = true ∧ (s.isRoot j = true → (f y).gathering = true)) := by
  refine ⟨_, rfl, fun y => ?_⟩
  by_cases hd : y.members.any (fun e => e.device == d) = true
  · rw [if_neg (by rw [hd]; decide)]
    by_cases hr : reason = 5 ∨ reason = 6
    · rw [if_pos hr]
      obtain ⟨infos, hinfos⟩ := y.setInfo_eq d fun i => if reason = 5 then { i with worn := true } else { i with retire := true }
      rw [hinfos]
      refine ⟨?_, fun h5 h6 => absurd hr (not_or.2 ⟨h5, h6⟩)⟩
      dsimp only
      split <;> exact ⟨rfl, rfl, rfl, fun _ h => h⟩
    · rw [if_neg hr]
      obtain ⟨infos, hinfos⟩ := y.setInfo_eq d fun i => { i with suspected := true }
      rw [hinfos]
      have hgather : (if y.gather.contains d = true then y.gather else y.gather ++ [d]).contains d = true := by
        split
        · assumption
        · simp
      dsimp only
      generalize (if y.gather.contains d = true then y.gather else y.gather ++ [d]) = gather at hgather ⊢
      split
      · exact ⟨⟨rfl, rfl, rfl, fun _ h => h⟩, fun _ _ _ => ⟨hgather, fun _ => rfl⟩⟩
      · next hc => exact ⟨⟨rfl, rfl, rfl, fun _ h => h⟩, fun _ _ _ => ⟨hgather, fun hroot => absurd (Or.inl hroot) hc⟩⟩
  · rw [if_pos (by simpa using hd)]
    exact ⟨y.grows_refl, fun _ _ h => absurd h hd⟩

/-- A membership in which the module has suspected a device, for the reasons that name another (log entry 18). -/
def Membership.suspecting (d : U32) (reason : Nat) (y : Membership) : Membership :=
  { y with suspects := if reason = 1 ∨ reason = 2 ∨ reason = 3 ∨ reason = 7 then y.suspects ++ [d] else y.suspects }

theorem Membership.grows_suspecting (y : Membership) (d : U32) (reason : Nat) : y.grows (y.suspecting d reason) := by
  refine ⟨rfl, rfl, rfl, fun x hx => ?_⟩
  unfold Membership.suspecting
  dsimp only
  split
  · exact List.mem_append_left _ hx
  · exact hx

/-- A suspicion changes at most the membership of its job, where a member that is not isolated or evicted is suspected from then on. -/
theorem State.suspect_jobs (s : State) (j : Nat) (d : U32) (reason : Nat) (owns : Bool) : ∃ f : Membership → Membership,
    (s.suspect j d reason owns).jobs = (s.setMember j f).jobs ∧ (∀ z : Membership, z.grows (f z)) ∧
      ∀ y, (s.job j).member = some y → reason = 1 ∨ reason = 3 → y.members.any (fun e => e.device == d) = true → y.state ≠ 3 → y.state ≠ 4 →
        d ∈ (f y).suspects := by
  have hstays : s.jobs = (s.setMember j id).jobs := congrArg State.jobs (s.setJob_same j _ (by simp)).symm
  unfold State.suspect
  split
  · next hnone => exact ⟨id, hstays, Membership.grows_refl, fun y hy => by rw [hnone] at hy; cases hy⟩
  · next y hy =>
    dsimp only
    split
    · next hc =>
      refine ⟨id, hstays, Membership.grows_refl, fun z hz hr hd h3 h4 => ?_⟩
      obtain rfl : y = z := Option.some.inj (hy.symm.trans hz)
      simp only [hd, h3, h4, Bool.not_true, Bool.false_eq_true, false_or] at hc
      simpa using hc.2
    · have hnamed (z : Membership) (hr : reason = 1 ∨ reason = 3) : d ∈ (z.suspecting d reason).suspects := by
        rcases hr with rfl | rfl <;> simp [Membership.suspecting]
      obtain ⟨-, -, hjobs, -⟩ := State.sends_fields ((s.setMember j (·.suspecting d reason)).sends_foldl
        (fun v x => v.control j x 3 [d.toNat, reason, if owns then 1 else 0]) (fun v _ => v.sends_control _ _ _ _) (y.root.toList ++ y.deputies).dedup)
      unfold Membership.suspecting at hjobs
      generalize List.foldl _ _ _ = w at hjobs ⊢
      split
      · obtain ⟨f, hf, hnoted⟩ := w.noteSuspect_eq j d reason owns
        refine ⟨fun z => f (z.suspecting d reason), ?_, fun z => Membership.grows_trans (z.grows_suspecting d reason) (hnoted _).1,
          fun z _ hr _ _ _ => (hnoted _).1.suspects d (hnamed z hr)⟩
        rw [hf, State.setMember_jobs_congr hjobs, State.setMember_setMember]
        rfl
      · exact ⟨(·.suspecting d reason), hjobs, (·.grows_suspecting d reason), fun z _ hr _ _ _ => hnamed z hr⟩

/-- What grows of a membership is kept by every suspicion. -/
theorem State.seats_suspect {P : Membership → Prop} (hP : ∀ z w : Membership, P z → z.grows w → P w) (i : Nat) (d : U32) (reason : Nat) (owns : Bool)
    (h : s.seats k P) : (s.suspect i d reason owns).seats k P := by
  obtain ⟨f, hjobs, hgrows, -⟩ := s.suspect_jobs i d reason owns
  exact State.seats_of_job (State.job_of_jobs hjobs k) (State.seats_setMember (fun z hz => hP z (f z) hz (hgrows z)) h i)

theorem State.foldl_suspect {reason : Nat} {l : List Nat} (hk : k ∈ l) (hr : reason = 1 ∨ reason = 3) (hy : (s.job k).member = some y)
    (hd : y.members.any (fun e => e.device == d) = true) (h3 : y.state ≠ 3) (h4 : y.state ≠ 4) :
    (l.foldl (fun (v : State) i => v.suspect i d reason false) s).seats k fun z => y.grows z ∧ d ∈ z.suspects := by
  have hnow (v : State) : v.seats k y.grows → (v.suspect k d reason false).seats k fun z => y.grows z ∧ d ∈ z.suspects := by
    rintro ⟨z, hz, hgrown⟩
    obtain ⟨f, hjobs, hgrows, hnamed⟩ := v.suspect_jobs k d reason false
    exact State.seats_of_job (State.job_of_jobs hjobs k) ⟨f z, State.member_setMember hz f, Membership.grows_trans hgrown (hgrows z),
      hnamed z hz hr (hgrown.members ▸ hd) (hgrown.state ▸ h3) (hgrown.state ▸ h4)⟩
  exact foldl_reaches (P := fun v : State => v.seats k y.grows) (Q := fun v : State => v.seats k fun z => y.grows z ∧ d ∈ z.suspects)
    (fun v i => State.seats_suspect (fun z w => Membership.grows_trans) i d reason false) hnow
    (fun v i => State.seats_suspect (fun z w hz hw => ⟨Membership.grows_trans hz.1 hw, hw.suspects d hz.2⟩) i d reason false) hk ⟨y, hy, y.grows_refl⟩

/-- After a suspicion in every job, each job of which the device is a member suspects it. -/
theorem State.suspectAll_seats {reason : Nat} (hk : k < 64) (hr : reason = 1 ∨ reason = 3) (hy : (s.job k).member = some y)
    (hd : y.members.any (fun e => e.device == d) = true) (h3 : y.state ≠ 3) (h4 : y.state ≠ 4) :
    (s.suspectAll d reason).seats k fun z => y.grows z ∧ d ∈ z.suspects := State.foldl_suspect (List.mem_range.2 hk) hr hy hd h3 h4

theorem State.suspectAll_fields (s : State) (d : U32) (reason : Nat) : (s.suspectAll d reason).mem = s.mem ∧ (s.suspectAll d reason).cores = s.cores := by
  obtain ⟨-, -, hcores, hmem, -⟩ := State.calm_congr (s.calm_suspectAll d reason)
  exact ⟨hmem, hcores⟩

/-- A device from which heartbeats are expected: a tree neighbour, or one beyond a port that is UP (R242). -/
def State.expects (s : State) (d : U32) : Prop := s.treeNeighbour d = true ∨ ∃ q, q < 16 ∧ (s.port q).state = 2 ∧ (s.port q).neighbour = d

theorem doHeartbeatSilence_suspects (h : s.expects d) : doHeartbeatSilence d s = s.suspectAll d 1 :=
  if_pos (by simpa [State.expects] using h)

theorem doHeartbeatSilence_ignores (h : ¬ s.expects d) : doHeartbeatSilence d s = s :=
  if_neg (by simpa [State.expects] using h)

/-- The coordinator or a deputy of a membership. -/
def Membership.heads (y : Membership) (d : U32) : Prop := y.root = some d ∨ y.deputies.contains d = true

theorem doSuspect_notes {reason : Nat} {owns : Bool} (h : s.hears p m 3) (hk : s.knows m) (hy : (s.job m.hdr.job).member = some y) :
    (y.heads s.ident.device → doSuspect p m d reason owns s = (s.takeRx p m).noteSuspect m.hdr.job d reason owns) ∧
      (¬ y.heads s.ident.device → doSuspect p m d reason owns s = s.takeRx p m) := by
  have hhead : ((s.takeRx p m).job m.hdr.job).member.any (fun x =>
      x.root == some (s.takeRx p m).ident.device || x.deputies.contains (s.takeRx p m).ident.device) = true ↔
      y.heads s.ident.device := by
    rw [State.takeRx_job, State.takeRx_ident, hy]
    simp [Membership.heads]
  have hacts := controlRow_acts (act := fun j (v : State) =>
    if (v.job j).member.any fun x => x.root == some v.ident.device || x.deputies.contains v.ident.device then v.noteSuspect j d reason owns else v) h hk
  exact ⟨fun hh => hacts.trans (if_pos (hhead.2 hh)), fun hh => hacts.trans (if_neg (mt hhead.1 hh))⟩

/-! ## Isolation (R252) -/

/-- The coordinator and the deputies but this module. -/
def State.headsOf (s : State) (y : Membership) : List U32 := (y.root.toList ++ y.deputies).filter fun x => x != s.ident.device

/-- No running port leads to the coordinator or a deputy. -/
def State.cutOff (s : State) (y : Membership) : Prop := s.headsOf y ≠ [] ∧ ∀ x ∈ s.headsOf y, ∀ q, s.outPort x = some q → (s.port q).running = false

open Classical in
theorem doIsolate_eq (hy : (s.job j).member = some y) :
    doIsolate j s = if y.state ≠ 3 ∧ y.state ≠ 4 ∧ (y.suspects ≠ [] ∨ s.cutOff y) then s.isolate j else s := by
  unfold doIsolate
  rw [hy]
  refine if_congr (and_congr_right fun _ => and_congr_right fun _ => or_congr (by simp) ?_) rfl rfl
  rw [Bool.and_eq_true, List.all_eq_true]
  refine and_congr (by simp [State.headsOf]) (forall₂_congr fun x _ => ?_)
  cases s.outPort x <;> simp

end Sys2Proof.Machine

open Sys2Proof Sys2Proof.Machine

/-- Settles O47: heartbeats go out by the first port to each device; what is heard, suspected or noted of a member is a change of the memberships that
have it. -/
theorem heartbeatsAndSuspicionsSpread : Obligations.HeartbeatsAndSuspicionsSpread := by
  intro s p m v d j is dropped near known joined
  have hv (i : Nat) : v.job i = s.job i := s.takeRx_job p m i
  obtain ⟨-, -, -, hmem, hcores, -⟩ := s.takeRx_fields p m
  refine ⟨fun h => ?silent, fun h hbeat => ?period, fun h => ?otherBeat, fun h => ?otherBye, fun h hn => ?farBeat, fun h hn => ?farBye, fun h hn => ?heard,
    fun i x reason hi => ?suspects, fun x htree hport => ?unexpected, fun x reason owns => ⟨fun h => ?otherSuspect, fun h hk => ?strangerSuspect,
      fun h hk _ y hy hhead => ?elsewhere, fun h hk _ h5 h6 y hy hhead => ?noted⟩, fun h => ?otherEvict, fun h hk => ?strangerEvict, fun h hk => ?evicted,
    fun k y hy => ?isolate⟩
  case silent => exact s.become_of_eq (if_pos h)
  case period =>
    obtain ⟨l, hl⟩ := doHeartbeatPeriod_eq h
    obtain ⟨hmem, hcores, hjobs, -, -, -, -, -, hcount, -⟩ := State.sends_fields (s.sends_beaten l)
    refine ⟨_, congrArg s.become hl, congrArg (fun n => (n + 1) % 2 ^ 32) hcount, hmem, hcores, hjobs, fun a ha hup => ?_⟩
    obtain ⟨q, x, hqup, hfar, hx, hto⟩ := s.beaten_reaches hbeat l ha hup
    exact ⟨q, x, hqup, hfar, hx, hto⟩
  case otherBeat => exact s.become_of_eq (neighbourRow_skip h)
  case otherBye => exact s.become_of_eq (neighbourRow_skip h)
  case farBeat => exact congrArg s.become (neighbourRow_drops h hn)
  case farBye => exact congrArg s.become (neighbourRow_drops h hn)
  case heard =>
    have hacts : exec (.heartbeat p m) s = .next (s.keep (v.hear d m.content)) := congrArg s.become (neighbourRow_acts h hn)
    obtain ⟨hmem', hcores'⟩ := v.hear_fields d m.content
    have htold {k : Nat} {y : Membership} (hk : k < 64) (hy : joined s k d y) :=
      State.hear_seats (s := v) m.content hk ((congrArg Job.member (hv k)).trans hy.1) hy.2
    generalize v.hear d m.content = w at *
    refine ⟨_, hacts, hmem'.trans hmem, hcores'.trans hcores, fun k y hk _ hy => ?_⟩
    obtain ⟨z, hz, hmembers, i, hi, hd, hbody⟩ := htold hk hy
    exact ⟨z, i, hz, hmembers, hi, hd, hbody⟩
  case suspects =>
    obtain ⟨w, hw, hjobs, hwmem, hwcores, hr⟩ : ∃ w : State, exec i s = .next (s.keep (w.suspectAll x reason)) ∧ (∀ k, w.job k = s.job k) ∧ w.mem = s.mem ∧
        w.cores = s.cores ∧ (reason = 1 ∨ reason = 3) := by
      rcases hi with ⟨rfl, h, hn, rfl, rfl⟩ | ⟨rfl, rfl, hx⟩
      · exact ⟨v, congrArg s.become (neighbourRow_acts h hn), hv, hmem, hcores, Or.inr rfl⟩
      · exact ⟨s, congrArg s.become (doHeartbeatSilence_suspects hx), fun _ => rfl, rfl, rfl, Or.inl rfl⟩
    obtain ⟨hmem', hcores'⟩ := w.suspectAll_fields x reason
    have hnamed {k : Nat} {y : Membership} (hk : k < 64) (hy : joined s k x y) (h3 : y.state ≠ 3) (h4 : y.state ≠ 4) :=
      State.suspectAll_seats (s := w) hk hr ((congrArg Job.member (hjobs k)).trans hy.1) hy.2 h3 h4
    generalize w.suspectAll x reason = u at *
    refine ⟨_, hw, hmem'.trans hwmem, hcores'.trans hwcores, fun k y hk _ hy h3 h4 => ?_⟩
    obtain ⟨z, hz, hgrows, hx⟩ := hnamed hk hy h3 h4
    exact ⟨z, hz, hgrows.members, hgrows.epoch, List.contains_iff_mem.2 hx⟩
  case unexpected =>
    refine s.become_of_eq (doHeartbeatSilence_ignores ?_)
    rintro (hc | ⟨q, hq, hup, hfar⟩)
    · exact Bool.noConfusion (htree.symm.trans hc)
    · exact hport q hq hup hfar
  case otherSuspect => exact s.become_of_eq (controlRow_skip s h)
  case strangerSuspect => exact congrArg s.become (controlRow_drops h hk)
  case elsewhere => exact congrArg s.become ((doSuspect_notes h hk hy.1).2 hhead)
  case noted =>
    have hy' : (v.job j).member = some y := (congrArg Job.member (hv j)).trans hy.1
    obtain ⟨f, hf, hnoted⟩ := v.noteSuspect_eq j x reason owns
    obtain ⟨hgrows, hgather⟩ := hnoted y
    obtain ⟨hx, hopen⟩ := hgather h5 h6 hy.2
    refine ⟨_, congrArg s.become (((doSuspect_notes h hk hy.1).1 hhead).trans hf), hmem, hcores, f y, State.member_setMember hy' f, hgrows.epoch, hgrows.members, hx,
      fun hroot => hopen ?_⟩
    rw [State.isRoot_of hy', s.takeRx_ident p m, hroot]
    exact beq_self_eq_true _
  case otherEvict => exact s.become_of_eq (controlRow_skip s h)
  case strangerEvict => exact congrArg s.become (controlRow_drops h hk)
  case evicted => exact congrArg s.become (controlRow_acts h hk)
  case isolate =>
    refine ⟨fun h => s.become_of_eq ((doIsolate_eq hy).trans (if_neg ?_)), fun h3 h4 h => congrArg s.become ((doIsolate_eq hy).trans (if_pos ⟨h3, h4, h⟩))⟩
    rintro ⟨h3, h4, hc⟩
    rcases h with h | h | ⟨hnone, hcut⟩
    · exact h3 h
    · exact h4 h
    · exact hc.elim (· hnone) hcut

end

section
/-! SUPPORT. Proposals and turns (R239, R245, R246, R248, R249, R252, R255) of a job that holds no message for a turn: what opens a proposal, what
lines up for it, and how it ends. -/

namespace Sys2Proof.Machine

variable {s u v : State} {j k : Nat} {y z : Membership} {q : Proposal}

/-! ## A membership that moves on -/

/-- The second state has the first one's memory, cores and identity, and its job a membership of its own with the first one's collectives and RESHARD. -/
structure State.moves (s u : State) (k : Nat) (z : Membership) : Prop where
  mem : u.mem = s.mem
  cores : u.cores = s.cores
  ident : u.ident = s.ident
  colls : (u.job k).colls = (s.job k).colls
  reshard : (u.job k).reshard = (s.job k).reshard
  member : (u.job k).member = some z

theorem State.moves_refl (hy : (s.job k).member = some y) : s.moves s k y := ⟨rfl, rfl, rfl, rfl, rfl, hy⟩

theorem State.moves_sends (h : s.moves u k z) (hs : u.sends v) : s.moves v k z := by
  obtain ⟨hmem, hcores, -, hident, -⟩ := State.sends_fields hs
  have hjob := State.sends_job hs k
  exact ⟨hmem.trans h.mem, hcores.trans h.cores, hident.trans h.ident, hjob ▸ h.colls, hjob ▸ h.reshard, hjob ▸ h.member⟩

theorem State.moves_setMember (h : s.moves u k z) (f : Membership → Membership) : s.moves (u.setMember k f) k (f z) := by
  have hjob := u.job_setMember k f (State.member_lt h.member)
  exact ⟨h.mem, h.cores, h.ident, hjob ▸ h.colls, hjob ▸ h.reshard, State.member_setMember h.member f⟩

theorem State.moves_setMember_same (h : s.moves u k z) {f : Membership → Membership} (hf : f z = z) : s.moves (u.setMember k f) k z := by
  have hset := State.moves_setMember h f
  rwa [hf] at hset

theorem State.moves_takeRx (p : Nat) (m : Msg) (hy : (s.job k).member = some y) : s.moves (s.takeRx p m) k y := by
  obtain ⟨-, -, hident, hmem, hcores, -⟩ := s.takeRx_fields p m
  have hjob := s.takeRx_job p m k
  exact ⟨hmem, hcores, hident, congrArg Job.colls hjob, congrArg Job.reshard hjob, (congrArg Job.member hjob).trans hy⟩

/-! ## Adoption (R239, R245) -/

/-- A membership that has adopted an epoch with the tree after its removals and additions. -/
def Membership.adopted (epoch : Nat) (removed : List U32) (added : List TreeEntry) (z : Membership) : Membership :=
  { z with
    epoch := epoch, members := z.treeAfter removed added, state := if z.state = 3 ∨ z.state = 4 then z.state else 1, proposal := none, mine := false
    gather := z.gather.filter fun d => !removed.contains d
    gathering := z.gathering && (z.gather.any fun d => !removed.contains d)
    suspects := [], abandonedRun := 0, turned := z.turned + 1, held := []
    drains := z.drains.filter fun d => !removed.contains d.1
    infos := z.infos.filter fun i => !removed.contains i.device }

section Adopt

variable {epoch : Nat} {removed : List U32} {added : List TreeEntry}

theorem State.moves_setStrag (h : s.moves u k z) (f : Straggler → Straggler) : s.moves (u.setStrag k f) k z := by
  have hjob := u.job_setJob k (fun b => { b with strag := f b.strag }) (State.member_lt h.member)
  exact ⟨h.mem, h.cores, h.ident, congrArg Job.colls hjob ▸ h.colls, congrArg Job.reshard hjob ▸ h.reshard, congrArg Job.member hjob ▸ h.member⟩

/-- With no removal to answer, none is answered. -/
theorem State.moves_answerRemovals (h : s.moves u k z) (hr : z.removals = []) : s.moves (u.answerRemovals k epoch) k z := by
  have hsame (f : CmdRef × List U32 → Bool) : ({ z with removals := z.removals.filter f } : Membership) = z := by
    rw [hr]
    exact congrArg (fun l => ({ z with removals := l } : Membership)) hr.symm
  unfold State.answerRemovals
  rw [h.member]
  simp only [hr, List.filter_nil, List.foldl_nil]
  exact State.moves_setMember_same h (hsame _)

theorem State.moves_touchShadow (h : s.moves u k z) : s.moves u.touchShadow k z := by
  unfold State.touchShadow
  split
  · exact ⟨h.mem, h.cores, h.ident, h.colls, h.reshard, h.member⟩
  · exact h

theorem State.reshardTurn_none (h : (s.job k).reshard = none) : s.reshardTurn k epoch removed = s := by
  simp only [State.reshardTurn, h]

/-- A job without collectives, RESHARD and waiting removals, whose tree after a change has a coordinator. -/
def State.turnable (s : State) (k : Nat) (z : Membership) (removed : List U32) (added : List TreeEntry) : Prop :=
  (s.job k).colls = [] ∧ (s.job k).reshard = none ∧ z.removals = [] ∧ z.treeAfter removed added ≠ []

theorem State.moves_adopt (h : s.moves u k z) (hheld : z.held = []) (ht : s.turnable k z removed added) :
    s.moves (u.adopt k epoch removed added) k (z.adopted epoch removed added) := by
  obtain ⟨hcolls, hreshard, hremovals, htree⟩ := ht
  have hset := State.moves_setStrag (State.moves_setMember h fun m => { m.adopted epoch removed added with members := z.treeAfter removed added })
    fun x => { x with removed := (x.removed ++ (u.job k).contributorsOf removed).dedup }
  have hquiet := State.moves_touchShadow (State.moves_answerRemovals (epoch := epoch) hset hremovals)
  have hturn := State.reshardTurn_none (epoch := epoch) (removed := removed) (hquiet.reshard.trans hreshard)
  have hidle := hquiet.colls.trans hcolls
  unfold State.adopt
  rw [h.member]
  simp only [h.reshard.trans hreshard, hheld, List.foldl_nil, List.isEmpty_eq_false_iff.2 htree, Bool.false_eq_true, if_false]
  unfold Membership.adopted at hturn hidle hquiet
  rw [hturn, hidle]
  exact hquiet

/-! ## Turns (R245, R250) -/

/-- The proposer's turn adopts its proposal. -/
theorem State.moves_turnNow (h : s.moves u k z) (hheld : z.held = []) (ht : s.turnable k z q.removed q.added) :
    s.moves (u.turnNow k z q) k (z.adopted q.epoch q.removed q.added) :=
  State.moves_sends (State.moves_adopt (State.moves_sends h (u.sends_toAll _ _ _ _)) hheld ht) (State.sends_toAll _ _ _ _ _)

end Adopt

/-! ## Lining up (R245, R246) -/

section LineUp

variable {allowance : Bool}

theorem State.lineUp_unopened (hz : (u.job k).member = some z) (hq : z.proposal = none) : u.lineUp k allowance = u := by
  simp only [State.lineUp, hz, hq]

theorem State.lineUp_outside (hz : (u.job k).member = none) : u.lineUp k allowance = u := by
  simp only [State.lineUp, hz]

variable (hz : (u.job k).member = some z) (hq : z.proposal = some q)

include hz hq

theorem State.lineUp_waits (hw : z.allAnswered q u.ident.device = false) : u.lineUp k false = u := by
  simp [State.lineUp, hz, hq, hw]

section Due

variable (hdue : allowance = true ∨ z.allAnswered q u.ident.device = true)

include hdue

theorem State.lineUp_turns (hmine : z.mine = true) (hmajority : q.majority z.members.length = true) : u.lineUp k allowance = u.turnNow k z q := by
  simp [State.lineUp, hz, hq, Bool.or_eq_true_iff.2 hdue, hmine, hmajority]

theorem State.lineUp_short (hmine : z.mine = true) (hmajority : q.majority z.members.length = false) : u.lineUp k allowance = u := by
  simp [State.lineUp, hz, hq, Bool.or_eq_true_iff.2 hdue, hmine, hmajority]

theorem State.lineUp_silent (hmine : z.mine = false) (hanswered : q.answered = true) : u.lineUp k allowance = u := by
  simp [State.lineUp, hz, hq, Bool.or_eq_true_iff.2 hdue, hmine, hanswered]

/-- Another member than the proposer answers its parent in the proposed tree. -/
theorem State.lineUp_answers (hmine : z.mine = false) (hanswered : q.answered = false) :
    (u.setMember k fun x => { x with proposal := some { q with answered := true } }).sends (u.lineUp k allowance) := by
  simp only [State.lineUp, hz, hq, Bool.or_eq_true_iff.2 hdue, hmine, hanswered, Bool.not_true, Bool.false_eq_true, if_false]
  split
  · exact State.sends_control _ _ _ _ _
  · exact State.sends_refl _

end Due

end LineUp

section Moves

variable {allowance : Bool} (h : s.moves u k z) (hq : z.proposal = some q)

include h hq

theorem State.moves_lineUp_waits (hw : z.allAnswered q s.ident.device = false) : s.moves (u.lineUp k false) k z := by
  rwa [State.lineUp_waits h.member hq (h.ident ▸ hw)]

variable (hdue : allowance = true ∨ z.allAnswered q s.ident.device = true)

include hdue

theorem State.moves_lineUp_short (hmine : z.mine = true) (hmajority : q.majority z.members.length = false) : s.moves (u.lineUp k allowance) k z := by
  rwa [State.lineUp_short h.member hq (h.ident ▸ hdue) hmine hmajority]

theorem State.moves_lineUp_turns (hmine : z.mine = true) (hmajority : q.majority z.members.length = true) (hheld : z.held = [])
    (ht : s.turnable k z q.removed q.added) : s.moves (u.lineUp k allowance) k (z.adopted q.epoch q.removed q.added) := by
  rw [State.lineUp_turns h.member hq (h.ident ▸ hdue) hmine hmajority]
  exact State.moves_turnNow h hheld ht

theorem State.moves_lineUp_answers (hmine : z.mine = false) (hanswered : q.answered = false) :
    s.moves (u.lineUp k allowance) k { z with proposal := some { q with answered := true } } :=
  State.moves_sends (State.moves_setMember h _) (State.lineUp_answers h.member hq (h.ident ▸ hdue) hmine hanswered)

end Moves

/-! ## Proposals (R245, R246) -/

/-- The proposal that the coordinator, or a deputy in its place, makes of removals and additions. -/
def State.offers (s : State) (y : Membership) (removed : List U32) (added : List TreeEntry) (q : Proposal) : Prop :=
  (y.root = some s.ident.device ∧ q = { epoch := y.epoch + 1, removed := removed, added := added, rank := 0 }) ∨
    ∃ d x, y.root = some d ∧ d ≠ s.ident.device ∧ y.members.find? (fun e => e.device == s.ident.device) = some x ∧
      q = { epoch := y.epoch + 1, removed := if removed.contains d then removed else d :: removed, added := added, rank := x.deputy }

/-- A membership with a proposal of its module's own. -/
def Membership.proposing (q : Proposal) (z : Membership) : Membership := { z with proposal := some q, mine := true, state := 2, gathering := false, gather := [] }

/-- A membership with a proposal of another module. -/
def Membership.lining (q : Proposal) (z : Membership) : Membership := { z with proposal := some q, mine := false, state := 2 }

/-- A proposal sent to the children in the proposed tree. -/
def State.sendProposal (s : State) (k : Nat) (y : Membership) (q : Proposal) : State :=
  s.toAll k 4 (proposalBody q.epoch q.rank q.removed q.added) (childrenIn (y.proposed q) s.ident.device)

variable {removed : List U32} {added : List TreeEntry}

theorem State.propose_eq (hy : (s.job k).member = some y) (hq : s.offers y removed added q) :
    s.propose k removed added = ((s.setMember k (·.proposing q)).sendProposal k y q).lineUp k false := by
  unfold State.propose
  rw [hy]
  rcases hq with ⟨hroot, rfl⟩ | ⟨d, x, hroot, hne, hx, rfl⟩
  · simp only [hroot, if_true]
    rfl
  · have hother : ¬ some d = some s.ident.device := fun h => hne (Option.some.inj h)
    simp only [hroot, if_neg hother, hx, Option.map_some, Option.getD_some]
    rfl

theorem State.offers_fresh (h : s.offers y removed added q) : q.epoch = y.epoch + 1 ∧ q.added = added ∧ q.counts = [] := by
  rcases h with ⟨-, rfl⟩ | ⟨d, x, -, -, -, rfl⟩ <;> exact ⟨rfl, rfl, rfl⟩

/-- Before any answer, every child has answered only where there is none. -/
theorem Membership.allAnswered_fresh (hq : q.counts = []) (d : U32) : z.allAnswered q d = true ↔ childrenIn (z.proposed q) d = [] := by
  simp [Membership.allAnswered, hq, List.eq_nil_iff_forall_not_mem]

/-! ## A proposal sent -/

theorem State.moves_sendProposal (h : s.moves u k y) (f : Membership → Membership) : s.moves ((u.setMember k f).sendProposal k y q) k (f y) :=
  State.moves_sends (State.moves_setMember h f) (State.sends_toAll _ _ _ _ _)

section Own

variable (hy : (s.job k).member = some y) (hq : s.offers y removed added q)

include hy hq

/-- A proposal waits for the children in the proposed tree. -/
theorem State.moves_propose_waits (hc : childrenIn (y.proposed q) s.ident.device ≠ []) : s.moves (s.propose k removed added) k (y.proposing q) := by
  rw [State.propose_eq hy hq]
  obtain ⟨-, -, hcounts⟩ := State.offers_fresh hq
  exact State.moves_lineUp_waits (State.moves_sendProposal (State.moves_refl hy) _) rfl
    (Bool.eq_false_iff.2 fun ha => hc ((Membership.allAnswered_fresh hcounts _).1 ha))

/-- Without children a majority of one turns at once. -/
theorem State.moves_propose_turns (hc : childrenIn (y.proposed q) s.ident.device = []) (hmajority : q.majority y.members.length = true) (hheld : y.held = [])
    (ht : s.turnable k y q.removed q.added) : s.moves (s.propose k removed added) k ((y.proposing q).adopted q.epoch q.removed q.added) := by
  rw [State.propose_eq hy hq]
  obtain ⟨-, -, hcounts⟩ := State.offers_fresh hq
  exact State.moves_lineUp_turns (State.moves_sendProposal (State.moves_refl hy) _) rfl (Or.inr ((Membership.allAnswered_fresh hcounts _).2 hc)) rfl hmajority
    hheld ht

end Own

/-! ## A proposal dropped (R245, R249) -/

/-- A membership whose proposal is dropped. -/
def Membership.dropped (q : Proposal) (z : Membership) : Membership :=
  { z with
    proposal := none, mine := false, state := if z.state = 2 then 1 else z.state, abandoned := z.abandoned + 1, held := []
    gather := if z.mine then (z.gather ++ q.removed).dedup else z.gather }

theorem State.dropProposal_eq (hy : (s.job k).member = some y) (hheld : y.held = []) : s.dropProposal k q = s.setMember k (·.dropped q) := by
  simp only [State.dropProposal, hy, Option.map_some, Option.getD_some, hheld, List.foldl_nil]
  rfl

/-- ABANDON sent to the children in the proposed tree, and the proposal dropped. -/
def State.abandons (s : State) (k : Nat) (y : Membership) (q : Proposal) : State :=
  (s.toAll k 7 [q.epoch] (childrenIn (y.proposed q) s.ident.device)).dropProposal k q

theorem State.moves_abandons (h : s.moves u k y) (hheld : y.held = []) : s.moves (u.abandons k y q) k (y.dropped q) := by
  have hsent := State.moves_sends h (u.sends_toAll k 7 [q.epoch] (childrenIn (y.proposed q) u.ident.device))
  rw [State.abandons, State.dropProposal_eq hsent.member hheld]
  exact State.moves_setMember hsent _

/-! ## Events of a proposal's life (R245, R252, R255) -/

section Events

variable (hy : (s.job k).member = some y)

include hy

theorem doGatherWindowClose_stays (h : ¬ (y.gathering = true ∧ s.mayPropose y = true ∧ y.gather ≠ [])) : doGatherWindowClose k s = s := by
  simp only [doGatherWindowClose, hy]
  exact if_neg (by simpa using h)

theorem doGatherWindowClose_proposes (h : y.gathering = true) (hp : s.mayPropose y = true) (hg : y.gather ≠ []) :
    doGatherWindowClose k s = s.propose k y.gather [] := by
  simp only [doGatherWindowClose, hy]
  exact if_pos ⟨h, hp, by simpa using hg⟩

theorem doRepropose_barred (hp : s.mayPropose y = false) : doRepropose k s = s := by
  simp [doRepropose, hy, hp]

theorem doRepropose_changes (hp : s.mayPropose y = true) {x : List U32 × List TreeEntry} (hx : (s.job k).reshardChange y = some x) :
    doRepropose k s = s.propose k x.1 x.2 := by
  simp [doRepropose, hy, hp, hx]

theorem doRepropose_gathered (hp : s.mayPropose y = true) (hx : (s.job k).reshardChange y = none) (hg : y.gather ≠ []) :
    doRepropose k s = s.propose k y.gather [] := by
  simp [doRepropose, hy, hp, hx, hg]

theorem doRepropose_empty (hx : (s.job k).reshardChange y = none) (hg : y.gather = []) : doRepropose k s = s := by
  simp [doRepropose, hy, hx, hg]

theorem doProposalTimeout_stays (h : y.proposal = none ∨ y.mine = false) : doProposalTimeout k s = s := by
  simp only [doProposalTimeout, hy]
  split
  · rfl
  · next q hq =>
    rw [hq] at h
    exact if_pos (by simpa using h)

section Open

variable (hq : y.proposal = some q) (hmine : y.mine = true)

include hq hmine

/-- A proposal that times out is abandoned; the coordinator's second in a row isolates it. -/
theorem doProposalTimeout_eq : doProposalTimeout k s =
    if q.rank = 0 ∧ 1 ≤ y.abandonedRun then ((s.abandons k y q).setMember k fun z => { z with abandonedRun := z.abandonedRun + 1 }).isolate k
    else (s.abandons k y q).setMember k fun z => { z with abandonedRun := z.abandonedRun + 1 } := by
  simp only [doProposalTimeout, hy, hq, hmine, Bool.not_true, Bool.false_eq_true, if_false]
  exact if_congr (and_congr_right fun _ => by omega) rfl rfl

theorem doProposalTimeout_drops (hheld : y.held = []) (hrun : ¬ (q.rank = 0 ∧ 1 ≤ y.abandonedRun)) :
    s.moves (doProposalTimeout k s) k { y.dropped q with abandonedRun := y.abandonedRun + 1 } := by
  rw [doProposalTimeout_eq hy hq hmine, if_neg hrun]
  exact State.moves_setMember (State.moves_abandons (State.moves_refl hy) hheld) fun z => { z with abandonedRun := z.abandonedRun + 1 }

end Open

end Events

/-! ## Messages of a proposal (R245) -/

/-- A proposal for the next epoch that a member takes up: none is open, it stays a member itself, and a deputy's leaves the coordinator out. -/
def State.takesUp (s : State) (y : Membership) (q : Proposal) : Prop :=
  q.epoch = y.epoch + 1 ∧ y.proposal = none ∧ q.removed.contains s.ident.device = false ∧ y.state ≠ 3 ∧ y.state ≠ 4 ∧
    (q.rank ≠ 0 → ∃ d, y.root = some d ∧ q.removed.contains d = true)

theorem State.not_takesUp (h : q.epoch ≠ y.epoch + 1 ∨ y.proposal.isSome = true ∨ q.removed.contains s.ident.device = true ∨ y.state = 3 ∨ y.state = 4 ∨
    (q.rank ≠ 0 ∧ ¬ ∃ d, y.root = some d ∧ q.removed.contains d = true)) : ¬ s.takesUp y q := by
  rintro ⟨he, hnone, hme, h3, h4, hroot⟩
  rw [hnone, hme] at h
  rcases h with hc | hc | hc | hc | hc | ⟨hr, hc⟩
  · exact hc he
  · cases hc
  · cases hc
  · exact h3 hc
  · exact h4 hc
  · exact hc (hroot hr)

section Messages

/-- A proposal with the count that a child's subtree answers. -/
def Proposal.counting (d : U32) (n : Nat) (q : Proposal) : Proposal := { q with counts := (q.counts.filter fun c => c.1 != d) ++ [(d, n)] }

theorem doLineup_counts {p count : Nat} {m : Msg} (hk : s.knows m) (h : s.hears p m 5) (hq : y.proposal = some q) : ∃ f : Membership → Membership,
    f y = { y with proposal := some (q.counting m.hdr.source count) } ∧
      doLineup p m q.epoch count s = ((s.takeRx p m).setMember m.hdr.job f).lineUp m.hdr.job false := by
  refine ⟨_, ?_, controlRow_acts h hk⟩
  simp only [hq, if_true]
  rfl

variable {p epoch count rank : Nat} {m : Msg} (hy : (s.job m.hdr.job).member = some y)

include hy

theorem State.member_takeRx : ((s.takeRx p m).job m.hdr.job).member = some y := by rw [s.takeRx_job p m, hy]

theorem State.joining_of (epoch : Nat) : (s.takeRx p m).joining m.hdr.job epoch = s.takeRx p m := by
  simp only [State.joining, State.member_takeRx hy]

variable (hk : s.knows m)

include hk

theorem doPropose_ignores (h : s.hears p m 4) (hq : ¬ s.takesUp y { epoch := epoch, removed := removed, added := added, rank := rank }) :
    doPropose p m epoch removed added rank s = s.takeRx p m := by
  refine (controlRow_acts h hk).trans ?_
  simp only [State.joining_of hy, State.member_takeRx hy, State.takeRx_ident]
  refine if_pos ?_
  by_contra hc
  simp only [not_or, not_not, not_and, Bool.not_eq_true, Option.isSome_eq_false_iff, Option.isNone_iff_eq_none] at hc
  obtain ⟨he, hnone, hme, h3, h4, hroot⟩ := hc
  exact hq ⟨he, hnone, hme, h3, h4, fun hr => by simpa [Option.any_eq_true] using hroot hr⟩

theorem doPropose_lines (h : s.hears p m 4) {q : Proposal} (hq : q = { epoch := epoch, removed := removed, added := added, rank := rank })
    (ht : s.takesUp y q) : doPropose p m epoch removed added rank s =
      (((s.takeRx p m).setMember m.hdr.job (·.lining q)).sendProposal m.hdr.job y q).lineUp m.hdr.job false := by
  subst hq
  obtain ⟨he, hnone, hme, h3, h4, hroot⟩ := ht
  refine (controlRow_acts h hk).trans ?_
  simp only [State.joining_of hy, State.member_takeRx hy, State.takeRx_ident]
  refine (if_neg ?_).trans rfl
  rintro (hc | hc | hc | hc | hc | ⟨hr, hc⟩)
  · exact hc he
  · simp [hnone] at hc
  · exact Bool.noConfusion (hme.symm.trans hc)
  · exact h3 hc
  · exact h4 hc
  · obtain ⟨d, hd, hin⟩ := hroot hr
    simp [hd] at hc hin
    exact hc hin

theorem doTurn_old (h : s.hears p m 6) (he : epoch ≠ y.epoch + 1) : doTurn p m epoch removed added s = s.takeRx p m := by
  refine (controlRow_acts h hk).trans ?_
  simp only [State.member_takeRx hy]
  exact if_pos he

theorem doTurn_adopts (h : s.hears p m 6) (he : epoch = y.epoch + 1) : doTurn p m epoch removed added s =
    ((s.takeRx p m).toAll m.hdr.job 6 (proposalBody epoch 0 removed added) (childrenIn (y.treeAfter removed added) s.ident.device)).adopt
      m.hdr.job epoch removed added := by
  refine (controlRow_acts h hk).trans ?_
  simp only [State.member_takeRx hy, State.takeRx_ident]
  exact if_neg (not_not.2 he)

theorem doAbandon_other (h : s.hears p m 7) (hq : ∀ q, y.proposal = some q → q.epoch ≠ epoch) : doAbandon p m epoch s = s.takeRx p m := by
  refine (controlRow_acts h hk).trans ?_
  simp only [State.member_takeRx hy]
  split
  · rfl
  · next q hopen => exact if_pos (hq q hopen)

theorem doAbandon_drops (h : s.hears p m 7) (hq : y.proposal = some q) : doAbandon p m q.epoch s = (s.takeRx p m).abandons m.hdr.job y q := by
  refine (controlRow_acts h hk).trans ?_
  simp only [State.member_takeRx hy, hq]
  exact if_neg (not_not.2 rfl)

end Messages

/-! ## A count received -/

section Counted

variable {p count : Nat} {m : Msg} (hy : (s.job m.hdr.job).member = some y) (hk : s.knows m) (h : s.hears p m 5) (hq : y.proposal = some q)

/-- A membership whose proposal has the count that a child's subtree answers. -/
def Membership.counting (d : U32) (n : Nat) (q : Proposal) (z : Membership) : Membership := { z with proposal := some (q.counting d n) }

include hy hk h hq

theorem doLineup_eq : ∃ u, s.moves u m.hdr.job (y.counting m.hdr.source count q) ∧ doLineup p m q.epoch count s = u.lineUp m.hdr.job false := by
  obtain ⟨f, hf, hdo⟩ := doLineup_counts (count := count) hk h hq
  have hcounted := State.moves_setMember (State.moves_takeRx p m hy) f
  rw [hf] at hcounted
  exact ⟨_, hcounted, hdo⟩

theorem doLineup_waits (ha : y.allAnswered (q.counting m.hdr.source count) s.ident.device = false) :
    s.moves (doLineup p m q.epoch count s) m.hdr.job (y.counting m.hdr.source count q) := by
  obtain ⟨u, hu, hdo⟩ := doLineup_eq (count := count) hy hk h hq
  rw [hdo]
  exact State.moves_lineUp_waits hu rfl ha

variable (ha : y.allAnswered (q.counting m.hdr.source count) s.ident.device = true)

include ha

theorem doLineup_short (hmine : y.mine = true) (hmajority : (q.counting m.hdr.source count).majority y.members.length = false) :
    s.moves (doLineup p m q.epoch count s) m.hdr.job (y.counting m.hdr.source count q) := by
  obtain ⟨u, hu, hdo⟩ := doLineup_eq (count := count) hy hk h hq
  rw [hdo]
  exact State.moves_lineUp_short hu rfl (Or.inr ha) hmine hmajority

theorem doLineup_turns (hmine : y.mine = true) (hmajority : (q.counting m.hdr.source count).majority y.members.length = true) (hheld : y.held = [])
    (ht : s.turnable m.hdr.job y q.removed q.added) :
    s.moves (doLineup p m q.epoch count s) m.hdr.job ((y.counting m.hdr.source count q).adopted q.epoch q.removed q.added) := by
  obtain ⟨u, hu, hdo⟩ := doLineup_eq (count := count) hy hk h hq
  rw [hdo]
  exact State.moves_lineUp_turns (q := q.counting m.hdr.source count) hu rfl (Or.inr ha) hmine hmajority hheld ht

theorem doLineup_answers (hmine : y.mine = false) (hans : q.answered = false) :
    s.moves (doLineup p m q.epoch count s) m.hdr.job { y with proposal := some { q.counting m.hdr.source count with answered := true } } := by
  obtain ⟨u, hu, hdo⟩ := doLineup_eq (count := count) hy hk h hq
  rw [hdo]
  exact State.moves_lineUp_answers (z := y.counting m.hdr.source count q) hu rfl (Or.inr ha) hmine hans

end Counted

/-! ## A proposal of another member taken up -/

section TakenUp

variable {p epoch rank : Nat} {m : Msg} (hy : (s.job m.hdr.job).member = some y) (hk : s.knows m) (h : s.hears p m 4)
  (hq : q = { epoch := epoch, removed := removed, added := added, rank := rank }) (ht : s.takesUp y q)

include hy hk h hq ht

theorem doPropose_waits (hc : childrenIn (y.proposed q) s.ident.device ≠ []) :
    s.moves (doPropose p m epoch removed added rank s) m.hdr.job (y.lining q) := by
  rw [doPropose_lines hy hk h hq ht]
  exact State.moves_lineUp_waits (State.moves_sendProposal (State.moves_takeRx p m hy) _) rfl
    (Bool.eq_false_iff.2 fun ha => hc ((Membership.allAnswered_fresh (by rw [hq]) _).1 ha))

theorem doPropose_answers (hc : childrenIn (y.proposed q) s.ident.device = []) :
    s.moves (doPropose p m epoch removed added rank s) m.hdr.job (y.lining { q with answered := true }) := by
  rw [doPropose_lines hy hk h hq ht]
  exact State.moves_lineUp_answers (State.moves_sendProposal (State.moves_takeRx p m hy) _) rfl
    (Or.inr ((Membership.allAnswered_fresh (by rw [hq]) _).2 hc)) rfl (by rw [hq])

end TakenUp

/-! ## What a row leaves -/

/-- A row leaves memory, cores, the epoch and the members of its job, whose membership has a property. -/
def State.seatsAfter (s : State) (k : Nat) (y : Membership) (i : Instr) (P : Membership → Prop) : Prop := Completes i s fun t =>
  t.mem = s.mem ∧ t.cores = s.cores ∧ ∃ z, (t.job k).member = some z ∧ z.epoch = y.epoch ∧ z.members = y.members ∧ P z

/-- A row turns a job that can turn: an epoch and the tree after a change are adopted, with no proposal and no suspicion left. -/
def State.turnsAfter (s : State) (k : Nat) (y : Membership) (i : Instr) (epoch : Nat) (removed : List U32) (added : List TreeEntry) : Prop :=
  s.turnable k y removed added → Completes i s fun t => t.mem = s.mem ∧ t.cores = s.cores ∧
    ∃ z, (t.job k).member = some z ∧ z.epoch = epoch ∧ z.members = y.treeAfter removed added ∧
      z.state = (if y.state = 3 ∨ y.state = 4 then y.state else 1) ∧ z.proposal = none ∧ z.mine = false ∧ z.suspects = [] ∧
        z.turned = y.turned + 1 ∧ z.abandonedRun = 0

variable {i : Instr}

theorem State.seatsAfter_of {P : Membership → Prop} (hi : exec i s = .next (s.keep u)) (h : s.moves u k z) (he : z.epoch = y.epoch)
    (hm : z.members = y.members) (hP : P z) : s.seatsAfter k y i P := ⟨_, hi, h.mem, h.cores, z, h.member, he, hm, hP⟩

theorem State.turnsAfter_of {epoch : Nat} (hi : exec i s = .next (s.keep u))
    (hmoves : s.turnable k y removed added → s.moves u k (z.adopted epoch removed added)) (htree : z.treeAfter removed added = y.treeAfter removed added)
    (hturned : z.turned = y.turned) (hstate : (if z.state = 3 ∨ z.state = 4 then z.state else 1) = if y.state = 3 ∨ y.state = 4 then y.state else 1) :
    s.turnsAfter k y i epoch removed added := fun ht =>
  have h := hmoves ht
  ⟨_, hi, h.mem, h.cores, _, h.member, rfl, htree, hstate, rfl, rfl, rfl, congrArg (· + 1) hturned, rfl⟩

/-- The two events that open a proposal: the window closes on removals, or a RESHARD or removals wait at REPROPOSE. -/
theorem exec_proposes (hy : (s.job k).member = some y) (hmay : s.mayPropose y = true)
    (hi : (i = .gatherWindowClose k ∧ y.gathering = true ∧ y.gather ≠ [] ∧ removed = y.gather ∧ added = []) ∨
      (i = .repropose k ∧ ((s.job k).reshardChange y = some (removed, added) ∨
        ((s.job k).reshardChange y = none ∧ y.gather ≠ [] ∧ removed = y.gather ∧ added = [])))) :
    exec i s = .next (s.keep (s.propose k removed added)) := by
  rcases hi with ⟨rfl, hopen, hg, rfl, rfl⟩ | ⟨rfl, hx | ⟨hx, hg, rfl, rfl⟩⟩
  · have hdo := doGatherWindowClose_proposes hy hopen hmay hg
    exact congrArg s.become hdo
  · have hdo := doRepropose_changes hy hmay hx
    exact congrArg s.become hdo
  · have hdo := doRepropose_gathered hy hmay hx hg
    exact congrArg s.become hdo

theorem State.member_of_mayPropose (h : s.mayPropose y = true) : ¬ (y.state = 3 ∨ y.state = 4) := by
  simp only [State.mayPropose, Bool.and_eq_true, bne_iff_ne] at h
  tauto

end Sys2Proof.Machine

open Sys2Proof Sys2Proof.Machine

/-- Settles O48: a proposal is one change of the membership and messages to the children; lining up for it waits, answers or turns, and a turn is one
adoption. -/
theorem proposalsLineUpAndTurn : Obligations.ProposalsLineUpAndTurn := by
  intro s p m y epoch count rank removed added k v me is known
  refine ⟨fun i kind hi => ?rows, fun i hi hnone => ?outside, fun _ hy hheld => ?inside⟩
  case rows =>
    rcases hi with ⟨rfl, rfl⟩ | ⟨rfl, rfl⟩ | ⟨rfl, rfl⟩ | ⟨rfl, rfl⟩
    all_goals exact ⟨fun h => s.become_of_eq (controlRow_skip s h), fun h hk => congrArg s.become (controlRow_drops h hk)⟩
  case outside =>
    rcases hi with rfl | rfl | rfl | rfl
    · exact s.become_of_eq (by simp only [doGatherWindowClose, hnone])
    · exact s.become_of_eq (State.lineUp_outside hnone)
    · exact s.become_of_eq (by simp only [doProposalTimeout, hnone])
    · exact s.become_of_eq (by simp only [doRepropose, hnone])
  case inside =>
    intro turns has
    have hturns {i : Instr} {e : Nat} {r : List U32} {a : List TreeEntry} (h : s.turnsAfter k y i e r a) : turns i e r a :=
      fun hcolls hreshard hremovals htree => h ⟨hcolls, hreshard, hremovals, htree⟩
    refine ⟨fun hbar => ⟨?closeBarred, ?barred⟩, fun hg => ?closeEmpty, fun hx hg => ?nothing, fun i r a hi hmay q hq => ?own,
      fun hnone => ⟨?unopened, ?untimed⟩, fun q hq => ?opened, fun hk hj => ?messages⟩
    case closeBarred => exact s.become_of_eq (doGatherWindowClose_stays hy fun ⟨_, h, _⟩ => Bool.noConfusion (hbar.symm.trans h))
    case barred => exact s.become_of_eq (doRepropose_barred hy hbar)
    case closeEmpty =>
      refine s.become_of_eq (doGatherWindowClose_stays hy fun ⟨hopen, _, hsome⟩ => ?_)
      exact hg.elim (fun h => Bool.noConfusion (h.symm.trans hopen)) hsome
    case nothing => exact s.become_of_eq (doRepropose_empty hy hx hg)
    case own =>
      have hexec := exec_proposes hy hmay hi
      obtain ⟨hepoch, hadded, -⟩ := State.offers_fresh hq
      refine ⟨fun hc => State.seatsAfter_of hexec (State.moves_propose_waits hy hq hc) rfl rfl ⟨rfl, rfl, rfl, rfl, rfl⟩, fun hc hmajority => ?_⟩
      rw [← hepoch, ← hadded]
      exact hturns (State.turnsAfter_of hexec (State.moves_propose_turns hy hq hc hmajority hheld) rfl rfl (if_neg (State.member_of_mayPropose hmay)).symm)
    case unopened => exact s.become_of_eq (State.lineUp_unopened hy hnone)
    case untimed => exact s.become_of_eq (doProposalTimeout_stays hy (Or.inl hnone))
    case opened =>
      have hself := State.moves_refl hy
      refine ⟨fun hmine hmajority => ?majority, fun hmine hmajority => ?short, fun hmine => ⟨?others, fun ha => ?silent, fun ha => ?answers⟩,
        fun hmine hrun => ?dropped, fun hmine hrank hrun => ?isolates⟩
      case majority => exact hturns (State.turnsAfter_of rfl (State.moves_lineUp_turns hself hq (Or.inl rfl) hmine hmajority hheld) rfl rfl rfl)
      case short => exact s.become_of_eq (State.lineUp_short hy hq (Or.inl rfl) hmine hmajority)
      case others => exact s.become_of_eq (doProposalTimeout_stays hy (Or.inr hmine))
      case silent => exact s.become_of_eq (State.lineUp_silent hy hq (Or.inl rfl) hmine ha)
      case answers => exact State.seatsAfter_of rfl (State.moves_lineUp_answers hself hq (Or.inl rfl) hmine ha) rfl rfl rfl
      case dropped => exact State.seatsAfter_of rfl (doProposalTimeout_drops hy hq hmine hheld hrun) rfl rfl ⟨rfl, rfl, rfl, if_pos hmine, rfl⟩
      case isolates => exact congrArg s.become ((doProposalTimeout_eq hy hq hmine).trans (if_pos ⟨hrank, hrun⟩))
    case messages =>
      subst hj
      have hv := State.moves_takeRx p m hy
      refine ⟨fun h hign => congrArg s.become (doPropose_ignores hy hk h (State.not_takesUp hign)), fun h he hnone hme h3 h4 hroot => ?takenUp,
        fun h q hq he => ?lineup, fun h => ⟨fun he => congrArg s.become (doTurn_old hy hk h he), fun he => ?turn⟩,
        fun h => ⟨fun hq => congrArg s.become (doAbandon_other hy hk h hq), fun q hq he => ?abandon⟩⟩
      case takenUp =>
        intro q
        have ht : s.takesUp y q := ⟨he, hnone, hme, h3, h4, hroot⟩
        exact ⟨fun hc => State.seatsAfter_of rfl (doPropose_waits hy hk h rfl ht hc) rfl rfl ⟨rfl, rfl, rfl⟩,
          fun hc => State.seatsAfter_of rfl (doPropose_answers hy hk h rfl ht hc) rfl rfl ⟨rfl, rfl, rfl⟩⟩
      case lineup =>
        subst he
        exact ⟨fun ha => State.seatsAfter_of rfl (doLineup_waits hy hk h hq ha) rfl rfl rfl,
          fun ha hmine hmajority => State.seatsAfter_of rfl (doLineup_short hy hk h hq ha hmine hmajority) rfl rfl rfl,
          fun ha hmine hmajority => hturns (State.turnsAfter_of rfl (doLineup_turns hy hk h hq ha hmine hmajority hheld) rfl rfl rfl),
          fun ha hmine hans => State.seatsAfter_of rfl (doLineup_answers hy hk h hq ha hmine hans) rfl rfl rfl⟩
      case turn =>
        exact hturns (State.turnsAfter_of (congrArg s.become (doTurn_adopts hy hk h he))
          (State.moves_adopt (State.moves_sends hv (State.sends_toAll _ _ _ _ _)) hheld) rfl rfl rfl)
      case abandon =>
        subst he
        exact State.seatsAfter_of (congrArg s.become (doAbandon_drops hy hk h hq)) (State.moves_abandons hv hheld) rfl rfl ⟨rfl, rfl, rfl, rfl, rfl⟩

end

section
/-! SUPPORT. The membership commands (R237, R238, R254, R270): the checks that turn them away, and what they do past their checks. -/

namespace Sys2Proof.Machine

variable {s : State} {r : CmdRef} {c : Cmd}

/-! ## Checks -/

/-- Checks after some that pass. -/
theorem firstBad_append {pre rest : Checks} (h : ∀ x ∈ pre, x.1 = false) : firstBad (pre ++ rest) = firstBad rest := by
  induction pre with
  | nil => rfl
  | cons x pre ih =>
    obtain ⟨hx, hpre⟩ := List.forall_mem_cons.1 h
    simp [firstBad, hx, ih hpre]

/-- A command is answered with the first of its checks that fails. -/
theorem State.checked_refuses {pre rest : Checks} {st d : Nat} (act : State → State) (h : ∀ x ∈ pre, x.1 = false) (hw : st ≠ stWard) :
    s.checked r (pre ++ (true, st, d) :: rest) act = s.reply r st d 0 :=
  State.checked_fail s r act (firstBad_append h) hw

/-! ## MEMBERSHIP_SET (R238) -/

section Set

/-- The table that a MEMBERSHIP_SET gives. -/
def Cmd.table (c : Cmd) : List TreeEntry := (List.range (c.p 8 4)).map c.treeEntry

/-- The layout of the parameters of a MEMBERSHIP_SET: a count that they hold, and zeros in the reserved fields. -/
structure Cmd.tableFits (c : Cmd) : Prop where
  some : c.p 8 4 ≠ 0
  atMost : c.p 8 4 ≤ 16384
  held : 16 + 16 * c.p 8 4 ≤ c.params.length
  zero : c.p 0xC 4 = 0
  zeros : ∀ i, i < c.p 8 4 → c.p (0x19 + 16 * i) 7 = 0

/-- The checks of R238 on the layout of the parameters. -/
def Cmd.tableChecks (c : Cmd) : Checks :=
  [(c.p 8 4 == 0, stZero, 8), (false, stBadParam, 8), c.reserved 0xC 4, ((List.range (c.p 8 4)).any fun i => c.p (0x19 + 16 * i) 7 != 0, stBadParam, 0x19)]

variable (hf : c.tableFits)

include hf

theorem Cmd.tableChecks_pass : ∀ x ∈ c.tableChecks, x.1 = false := by
  obtain ⟨hn, -, -, hz, hzs⟩ := hf
  simp only [Cmd.tableChecks, List.forall_mem_cons]
  exact ⟨by simpa using hn, True.intro, Cmd.reserved_pass hz, by simpa using hzs, List.forall_mem_nil _⟩

theorem doMembershipSet_eq : doMembershipSet r c s =
    s.checked r (c.tableChecks ++ [(s.tableBad c.table, stBadParam, 0x10),
        ((s.job c.job).member.isSome && decide (c.p 0 8 ≤ (s.job c.job).memberEpoch), stBadParam, 0),
        c.beyond (16 + 16 * c.p 8 4), (s.job c.job).stateCheck 0x0311]) fun s =>
      ((s.setJob c.job fun b => { b with member := some { epoch := c.p 0 8, members := c.table } }).touchShadow).reply r stOk 0 0 := by
  obtain ⟨-, hmost, hheld, -, -⟩ := hf
  simp only [doMembershipSet, decide_eq_true hmost, decide_eq_true hheld, Bool.and_self, if_true, Bool.not_true]
  rfl

theorem doMembershipSet_badTable (hbad : s.tableBad c.table = true) : doMembershipSet r c s = s.reply r stBadParam 0x10 0 := by
  rw [doMembershipSet_eq hf, hbad]
  exact State.checked_refuses _ (Cmd.tableChecks_pass hf) (by decide)

variable (hok : s.tableBad c.table = false)

include hok

theorem doMembershipSet_old (hm : (s.job c.job).member.isSome = true) (he : c.p 0 8 ≤ (s.job c.job).memberEpoch) :
    doMembershipSet r c s = s.reply r stBadParam 0 0 := by
  rw [doMembershipSet_eq hf, hm, decide_eq_true he]
  exact State.checked_refuses (pre := c.tableChecks ++ [(s.tableBad c.table, stBadParam, 0x10)]) _
    (List.forall_mem_append.2 ⟨Cmd.tableChecks_pass hf, by simpa using hok⟩) (by decide)

theorem doMembershipSet_installs (he : (s.job c.job).member.isSome = true → (s.job c.job).memberEpoch < c.p 0 8)
    (hz : ∀ i, 16 + 16 * c.p 8 4 ≤ i → c.params.getD i 0 = 0) (hs : jobAccepts (s.job c.job).state 0x0311 = .yes) : doMembershipSet r c s =
      ((s.setJob c.job fun b => { b with member := some { epoch := c.p 0 8, members := c.table } }).touchShadow).reply r stOk 0 0 := by
  rw [doMembershipSet_eq hf]
  refine State.checked_pass _ _ _ _ (firstBad_none (List.forall_mem_append.2 ⟨Cmd.tableChecks_pass hf, ?_⟩))
  simp only [List.forall_mem_cons]
  exact ⟨hok, by simpa using he, Cmd.beyond_passes hz, Job.stateCheck_pass hs, List.forall_mem_nil _⟩

end Set

/-- The shadow and a reply leave memory, cores and jobs. -/
theorem State.touched_reply (s : State) (r : CmdRef) (st : Nat) : (s.touchShadow.reply r st 0 0).mem = s.mem ∧
    (s.touchShadow.reply r st 0 0).cores = s.cores ∧ (s.touchShadow.reply r st 0 0).jobs = s.jobs := by
  obtain ⟨hmem, hcores, hjobs⟩ := s.touchShadow_fields
  obtain ⟨-, -, hjobs', hmem', hcores'⟩ := s.touchShadow.reply_frame r st 0 0
  exact ⟨hmem'.trans hmem, hcores'.trans hcores, hjobs'.trans hjobs⟩

/-! ## MEMBERSHIP_REMOVE (R254) -/

section Remove

/-- The devices that a MEMBERSHIP_REMOVE names. -/
def Cmd.named (c : Cmd) : List U32 := ((List.range (c.p 0 4)).map fun i => BitVec.ofNat 32 (c.p (4 + 4 * i) 4)).dedup

/-- A membership with a MEMBERSHIP_REMOVE that waits for a turn. -/
def Membership.awaiting (r : CmdRef) (ds : List U32) (m : Membership) : Membership := { m with removals := m.removals ++ [(r, ds)] }

theorem doMembershipRemove_none (h0 : c.p 0 4 = 0) (hz : ∀ i, 4 + 4 * c.p 0 4 ≤ i → c.params.getD i 0 = 0)
    (hs : jobAccepts (s.job c.job).state 0x0312 = .yes) : doMembershipRemove r c s = s.reply r stOk 0 0 := by
  unfold doMembershipRemove
  rw [State.checked_pass _ _ _ _ (firstBad_none ?_)]
  · exact if_pos h0
  · simp only [List.forall_mem_cons]
    exact ⟨by simp [h0], by simp [h0], by simp [h0], Cmd.beyond_passes hz, Job.stateCheck_pass hs, List.forall_mem_nil _⟩

variable {y : Membership} (hy : (s.job c.job).member = some y) (hfit : 4 + 4 * c.p 0 4 ≤ c.params.length)

include hy hfit

theorem doMembershipRemove_stranger {i : Nat}
    (hi : ((List.range c.named.length).find? fun i => !(y.members.any fun e => e.device == c.named.getD i 0)) = some i) :
    doMembershipRemove r c s = s.reply r stBadParam (4 + 4 * i) 0 := by
  have hany : (c.named.any fun d => !(y.members.any fun e => e.device == d)) = true := by
    have hlt : i < c.named.length := List.mem_range.1 (List.mem_of_find?_eq_some hi)
    have hout := List.find?_some hi
    rw [List.getD_eq_getElem _ _ hlt] at hout
    exact List.any_eq_true.2 ⟨_, List.getElem_mem hlt, hout⟩
  unfold Cmd.named at hi hany
  simp only [doMembershipRemove, hy, decide_eq_true hfit, Bool.true_or, if_true, hi, hany, Option.getD_some, Bool.not_true]
  exact State.checked_refuses (pre := [(false, stBadParam, 0)]) _ (by simp) (by decide)

/-- Members to be removed, but not all of them, wait for a turn: the coordinator gathers them, another member sends it the request. -/
theorem doMembershipRemove_asks (h0 : c.p 0 4 ≠ 0) (hall : ∀ d ∈ c.named, y.members.any (fun e => e.device == d) = true)
    (hleft : ∃ e ∈ y.members, c.named.contains e.device = false) (hz : ∀ i, 4 + 4 * c.p 0 4 ≤ i → c.params.getD i 0 = 0)
    (hs : jobAccepts (s.job c.job).state 0x0312 = .yes) {d : U32} (hd : y.root = some d) : doMembershipRemove r c s =
      if d = s.ident.device then (s.setMember c.job (·.awaiting r c.named)).askRemoval c.job c.named
      else (s.setMember c.job (·.awaiting r c.named)).control c.job d 0x0D (c.named.map (·.toNat)) := by
  have hsome : (y.members.all fun e => c.named.contains e.device) = false := by
    obtain ⟨e, he, hout⟩ := hleft
    exact List.all_eq_false.2 ⟨e, he, by rw [hout]; decide⟩
  have hin : (c.named.any fun d => !(y.members.any fun e => e.device == d)) = false := by
    simpa [List.any_eq_false] using hall
  have hmember := State.member_setMember hy (·.awaiting r c.named)
  have hroot : (s.setMember c.job (·.awaiting r c.named)).isRoot c.job = decide (d = s.ident.device) :=
    (State.isRoot_of hmember).trans (by rw [show (y.awaiting r c.named).root = some d from hd]; rfl)
  have hbind : ((s.setMember c.job (·.awaiting r c.named)).job c.job).member.bind (·.root) = some d := by rw [hmember]; exact hd
  unfold Cmd.named at hsome hin
  unfold Membership.awaiting Cmd.named at hroot hbind ⊢
  simp only [doMembershipRemove, hy, decide_eq_true hfit, Bool.true_or, if_true, hin, hsome]
  rw [State.checked_pass _ _ _ _ (firstBad_none ?_)]
  · simp only [if_neg h0, hroot, hbind, decide_eq_true_eq]
  · simp only [List.forall_mem_cons]
    exact ⟨rfl, True.intro, by simp, Cmd.beyond_passes hz, Job.stateCheck_pass hs, List.forall_mem_nil _⟩

end Remove

/-! ## MEMBERSHIP_STATUS (R270) -/

theorem State.memberRecord_ne_nil (s : State) (j : Nat) : s.memberRecord j ≠ [] := by
  have hhead (fields : List (Nat × Nat × Nat)) (h : ∀ x ∈ fields, x.1 + x.2.1 ≤ 32) : layRecord 32 fields ≠ [] :=
    List.ne_nil_of_length_pos (by rw [layRecord_length h]; decide)
  unfold State.memberRecord
  cases (s.job j).member with
  | none => exact hhead [] (by simp)
  | some m => exact List.append_ne_nil_of_left_ne_nil (hhead _ (by simp)) _

theorem doMembershipStatus_gives (hz : ∀ i, 8 ≤ i → c.params.getD i 0 = 0) (hs : jobAccepts (s.job c.job).state 0x0313 = .yes)
    (hfar : s.farOk (c.p 0 8) (s.memberRecord c.job).length = true) :
    doMembershipStatus r c s = (s.farPut (c.p 0 8 - farBase) (s.memberRecord c.job) 0 .hostBuffer).reply r stOk 0 0 := by
  have hsome : (s.memberRecord c.job).isEmpty = false := by simpa using s.memberRecord_ne_nil c.job
  unfold doMembershipStatus
  rw [State.checked_pass _ _ _ _ (firstBad_none ?_)]
  · simp [State.giveRecord, hsome]
  · simp only [List.forall_mem_cons]
    exact ⟨by simp [hfar], Cmd.beyond_passes hz, Job.stateCheck_pass hs, List.forall_mem_nil _⟩

end Sys2Proof.Machine

open Sys2Proof Sys2Proof.Machine

/-- Settles O49: each command is its checks and then, past them, the membership installed, the devices asked for or the record handed over. -/
theorem membershipCommandsSetAskAndReport : Obligations.MembershipCommandsSetAskAndReport := by
  intro s r c u j b
  refine ⟨fun hbegin hs => ?set, fun hbegin hs y hy => ?remove, fun hbegin hs hbeyond hfar => ?status⟩
  case set =>
    intro n ms hn hmost hheld hz hzs hbeyond
    have hacts {v : State} (h : doMembershipSet r c u = v) : exec (.membershipSet r) s = .next (s.keep v) :=
      congrArg s.become ((cmdRow_begins s (.membershipSet r) (doMembershipSet r) hbegin).trans h)
    have hf : c.tableFits := ⟨hn, hmost, hheld, hz, hzs⟩
    refine ⟨fun hbad => hacts (doMembershipSet_badTable hf hbad), fun hok hm he => hacts (doMembershipSet_old hf hok hm he), fun hok hj he => ?_⟩
    obtain ⟨hmem, hcores, hjobs⟩ := (u.setJob j fun b => { b with member := some { epoch := c.p 0 8, members := c.table } }).touched_reply r stOk
    exact ⟨_, hacts (doMembershipSet_installs hf hok he hbeyond hs), hmem, hcores, (State.job_of_jobs hjobs j).trans (u.job_setJob _ _ hj),
      fun k hk => (State.job_of_jobs hjobs k).trans (u.job_setJob_other _ _ _ hk.symm)⟩
  case remove =>
    intro n ds hbeyond
    have hacts {v : State} (h : doMembershipRemove r c u = v) : exec (.membershipRemove r) s = .next (s.keep v) :=
      congrArg s.become ((cmdRow_begins s (.membershipRemove r) (doMembershipRemove r) hbegin).trans h)
    refine ⟨fun h0 => hacts (doMembershipRemove_none h0 hbeyond hs), fun h0 hfit => ⟨fun i hi => hacts (doMembershipRemove_stranger (s := u) hy hfit hi),
      fun hall hleft => ⟨fun hroot _ => ?_, fun d hd hne _ => ?_⟩⟩⟩
    · exact hacts ((doMembershipRemove_asks (s := u) hy hfit h0 hall hleft hbeyond hs hroot).trans (if_pos rfl))
    · exact hacts ((doMembershipRemove_asks (s := u) hy hfit h0 hall hleft hbeyond hs hd).trans (if_neg hne))
  case status =>
    exact congrArg s.become ((cmdRow_begins s (.membershipStatus r) (doMembershipStatus r) hbegin).trans
      (doMembershipStatus_gives (s := u) hbeyond hs hfar))

end

section
/-! SUPPORT. Readiness and inclusion (R257 to R260, R263, R264, R267): ranges of contributors, READY up the tree, and the decisions of INCLUDE. -/

namespace Sys2Proof.Machine

variable {s : State} {p j step : Nat} {m : Msg}

/-! ## Ranges -/

theorem mem_expandRanges {rs : List (Nat × Nat)} {v : Nat} : v ∈ expandRanges rs ↔ ∃ r ∈ rs, r.1 ≤ v ∧ v ≤ r.2 := by
  simp only [expandRanges, List.mem_flatMap, List.mem_map, List.mem_range]
  refine exists_congr fun r => and_congr_right fun _ => ⟨?_, fun ⟨h1, h2⟩ => ⟨v - r.1, by omega, by omega⟩⟩
  rintro ⟨i, hi, rfl⟩
  omega

theorem mem_expandRanges_append {rs : List (Nat × Nat)} {a b v : Nat} : v ∈ expandRanges (rs ++ [(a, b)]) ↔ v ∈ expandRanges rs ∨ (a ≤ v ∧ v ≤ b) := by
  simp only [mem_expandRanges, List.mem_append, List.mem_singleton, or_and_right, exists_or, exists_eq_left]

/-- Ranges with one more index, not below the last: it lengthens the last range or begins one. -/
def addIndex (acc : List (Nat × Nat)) (v : Nat) : List (Nat × Nat) :=
  match acc.reverse with
  | (a, b) :: r => if v ≤ b then acc else if v = b + 1 then (r.reverse ++ [(a, v)]) else acc ++ [(v, v)]
  | [] => [(v, v)]

theorem toRanges_eq (vs : List Nat) : toRanges vs = (vs.insertionSort (· ≤ ·)).foldl addIndex [] := rfl

theorem addIndex_append (r : List (Nat × Nat)) (a b v : Nat) : addIndex (r ++ [(a, b)]) v =
    if v ≤ b then r ++ [(a, b)] else if v = b + 1 then r ++ [(a, v)] else r ++ [(a, b)] ++ [(v, v)] := by
  simp [addIndex]

/-- The last of the ranges ends at an index that has a property. -/
def endsWith (acc : List (Nat × Nat)) (P : Nat → Prop) : Prop := ∀ r a b, acc = r ++ [(a, b)] → a ≤ b ∧ P b

theorem endsWith_append {r : List (Nat × Nat)} {a b : Nat} {P : Nat → Prop} (hab : a ≤ b) (hb : P b) : endsWith (r ++ [(a, b)]) P := by
  intro r' a' b' h
  obtain ⟨-, hlast⟩ := List.append_inj' h rfl
  cases hlast
  exact ⟨hab, hb⟩

theorem addIndex_names {acc : List (Nat × Nat)} {x : Nat} (h : endsWith acc (· ≤ x)) :
    (∀ v, v ∈ expandRanges (addIndex acc x) ↔ v ∈ expandRanges acc ∨ v = x) ∧ endsWith (addIndex acc x) (· = x) := by
  rcases List.eq_nil_or_concat' acc with rfl | ⟨r, ⟨a, b⟩, rfl⟩
  · refine ⟨fun v => ?_, endsWith_append (r := []) le_rfl rfl⟩
    rw [show addIndex [] x = [] ++ [(x, x)] from rfl, mem_expandRanges_append]
    refine or_congr_right ?_
    omega
  · obtain ⟨hab, hbx⟩ := h r a b rfl
    rw [addIndex_append]
    split
    · refine ⟨fun v => ?_, endsWith_append hab (by omega)⟩
      rw [mem_expandRanges_append, or_assoc]
      refine or_congr_right ?_
      omega
    · split
      · refine ⟨fun v => ?_, endsWith_append (by omega) rfl⟩
        rw [mem_expandRanges_append, mem_expandRanges_append, or_assoc]
        refine or_congr_right ?_
        omega
      · refine ⟨fun v => ?_, endsWith_append le_rfl rfl⟩
        rw [mem_expandRanges_append]
        refine or_congr_right ?_
        omega

theorem mem_foldl_addIndex {l : List Nat} (hl : l.Pairwise (· ≤ ·)) {acc : List (Nat × Nat)} (h : ∀ x ∈ l, endsWith acc (· ≤ x)) (v : Nat) :
    v ∈ expandRanges (l.foldl addIndex acc) ↔ v ∈ expandRanges acc ∨ v ∈ l := by
  induction l generalizing acc with
  | nil => simp
  | cons x l ih =>
    obtain ⟨hx, hl⟩ := List.pairwise_cons.1 hl
    obtain ⟨hnames, hends⟩ := addIndex_names (h x List.mem_cons_self)
    have hnext : ∀ z ∈ l, endsWith (addIndex acc x) (· ≤ z) := fun z hz r a b hr => by
      obtain ⟨hab, rfl⟩ := hends r a b hr
      exact ⟨hab, hx z hz⟩
    rw [List.foldl_cons, ih hl hnext, hnames, List.mem_cons, or_assoc]

/-- The ranges of a list name the indices of the list. -/
theorem mem_toRanges (l : List Nat) (v : Nat) : v ∈ expandRanges (toRanges l) ↔ v ∈ l := by
  rw [toRanges_eq, mem_foldl_addIndex (List.pairwise_insertionSort (· ≤ ·) l) fun x _ r a b h => by simp at h]
  simp [expandRanges]

/-! ## READY (R258) -/

/-- The parent that a job's READY goes to. -/
def State.readyTo (s : State) (j : Nat) : Option U32 := (s.job j).member.bind fun y => y.parent s.ident.device

theorem State.sendReady_stays {deadline : Bool} (h : s.readyTo j = none ∨ (s.job j).strag.sentReady = some (s.job j).train.judged) :
    s.sendReady j deadline = s := by
  unfold State.readyTo at h
  unfold State.sendReady
  dsimp only
  split
  · rfl
  · next x hx =>
    rw [hx] at h
    exact if_pos (Or.inl (h.resolve_left (Option.some_ne_none x)))

/-- The words of READY's body. -/
def readyBody (step : Nat) (rs : List (Nat × Nat)) : List Nat := [step, rs.length] ++ rs.flatMap fun r => [r.1, r.2]

/-- The step's READY marked as sent. -/
def State.readySent (s : State) (j step : Nat) : State := s.setStrag j fun x => { x with sentReady := some step }

/-- At the deadline, ranges that fit one message go to the parent. -/
theorem State.sendReady_deadline {d : U32} (hd : s.readyTo j = some d) (hs : (s.job j).strag.sentReady ≠ some (s.job j).train.judged)
    {rs : List (Nat × Nat)} (hrs : toRanges (((s.job j).ownMissing s.ident.device (s.job j).train.judged ++
      (s.job j).childMissing s.ident.device (s.job j).train.judged).dedup) = rs) (hlen : rs.length ≤ 500) :
    s.sendReady j true = (s.control j d 9 (readyBody (s.job j).train.judged rs)).readySent j (s.job j).train.judged := by
  have hone : max 1 (ceilDiv rs.length 500) = 1 := by
    unfold ceilDiv
    omega
  have hall : rs.take 500 = rs := List.take_of_length_le hlen
  unfold State.readyTo at hd
  simp only [State.sendReady, hd, hs, hrs, hone, Bool.true_or, Bool.not_true, Bool.false_eq_true, or_self, if_false]
  simp only [List.range_one, List.map_cons, List.map_nil, Nat.mul_zero, List.drop_zero, hall, List.foldl_cons, List.foldl_nil]
  rfl

/-- Before the deadline READY is sent when every child has reported and no part is missing. -/
theorem State.sendReady_cases (s : State) (j : Nat) : s.sendReady j false = s ∨ ∃ v, s.sends v ∧ s.sendReady j false = v.readySent j (s.job j).train.judged ∧
    (s.job j).childrenDone s.ident.device (s.job j).train.judged = true ∧ (s.job j).ownMissing s.ident.device (s.job j).train.judged = [] ∧
      (s.job j).childMissing s.ident.device (s.job j).train.judged = [] := by
  unfold State.sendReady
  dsimp only
  split
  · exact Or.inl rfl
  · split
    · exact Or.inl rfl
    · next h =>
      refine Or.inr ⟨_, s.sends_foldl _ (fun v _ => v.sends_control _ _ _ _) _, rfl, ?_⟩
      simp only [not_or, Bool.not_eq_true', Bool.not_eq_false, Bool.false_or, Bool.and_eq_true, List.isEmpty_iff] at h
      obtain ⟨-, hdone, hnone⟩ := h
      obtain ⟨hown, hchild⟩ := List.append_eq_nil_iff.1 ((List.dedup_eq_nil _).1 hnone)
      exact ⟨hdone, hown, hchild⟩

/-- The ranges that a device has sent before for a step. -/
def Straggler.earlier (x : Straggler) (d : U32) (step : Nat) : List (Nat × Nat) :=
  match x.reports.find? fun r => r.1 == d && r.2.1 == step with
  | some r => r.2.2
  | none => []

/-- What is known of a step with the ranges that a device has sent for it. -/
def Straggler.reported (d : U32) (step : Nat) (ranges : List (Nat × Nat)) (x : Straggler) : Straggler :=
  { x with reports := (x.reports.filter fun r => r.1 != d && r.2.1 == step) ++ [(d, step, ranges)] }

theorem Straggler.earlier_cases (x : Straggler) (d : U32) (step : Nat) :
    (x.earlier d step = [] ∧ ∀ r ∈ x.reports, ¬ (r.1 = d ∧ r.2.1 = step)) ∨ (d, step, x.earlier d step) ∈ x.reports := by
  unfold Straggler.earlier
  split
  · next r hr =>
    have hkey := List.find?_some hr
    simp only [Bool.and_eq_true, beq_iff_eq] at hkey
    obtain ⟨rfl, rfl⟩ := hkey
    exact Or.inr (List.mem_of_find?_eq_some hr)
  · next hnone => exact Or.inl ⟨rfl, by simpa using hnone⟩

variable {ranges : List (Nat × Nat)}

theorem doReady_old (h : s.hears p m 9) (hk : s.knows m) (hstep : step ≠ (s.job m.hdr.job).train.judged) : doReady p m step ranges s = s.takeRx p m :=
  (controlRow_acts h hk).trans (if_pos (by rwa [s.takeRx_job p m]))

theorem doReady_reports (h : s.hears p m 9) (hk : s.knows m) (hstep : step = (s.job m.hdr.job).train.judged) : doReady p m step ranges s =
    ((s.takeRx p m).setStrag m.hdr.job (·.reported m.hdr.source step ((s.job m.hdr.job).strag.earlier m.hdr.source step ++ ranges))).sendReady m.hdr.job false := by
  rw [← s.takeRx_job p m] at hstep ⊢
  exact (controlRow_acts h hk).trans (if_neg (not_not.2 hstep))

/-- A report is kept, and READY goes up with it only when every child has reported and no part is missing. -/
theorem State.reported_sendReady (hj : j < s.jobs.length) (hstep : step = (s.job j).train.judged) (d : U32) (all : List (Nat × Nat)) :
    let t := (s.setStrag j (·.reported d step all)).sendReady j false
    t.mem = s.mem ∧ t.cores = s.cores ∧ ∃ sent, (t.job j).strag = { (s.job j).strag.reported d step all with sentReady := sent } ∧
      (sent = (s.job j).strag.sentReady ∨ (sent = some step ∧ (t.job j).childrenDone s.ident.device step = true ∧
        (s.job j).ownMissing s.ident.device step = [] ∧ (t.job j).childMissing s.ident.device step = [])) := by
  have hw : (s.setStrag j (·.reported d step all)).job j = { s.job j with strag := (s.job j).strag.reported d step all } := s.job_setJob j _ hj
  dsimp only
  rcases State.sendReady_cases (s.setStrag j (·.reported d step all)) j with heq | ⟨v, hv, heq, hready⟩
  · rw [heq, hw]
    exact ⟨rfl, rfl, _, rfl, Or.inl rfl⟩
  · obtain ⟨hmem, hcores, hjobs, -⟩ := State.sends_fields hv
    have hlen : j < v.jobs.length := by simpa [hjobs, State.setStrag] using hj
    rw [hw] at heq hready
    have ht : (v.readySent j step).job j =
        { s.job j with strag := { (s.job j).strag.reported d step all with sentReady := some step } } := by
      refine (v.job_setJob j _ hlen).trans ?_
      rw [State.sends_job hv j, hw]
    rw [← hstep] at heq hready
    rw [heq, ht]
    obtain ⟨hdone, hown, hchild⟩ := hready
    exact ⟨hmem, hcores, _, rfl, Or.inr ⟨rfl, hdone, hown, hchild⟩⟩

/-! ## Decisions (R258, R259, R264) -/

theorem Job.mem_lateAt {b : Job} {d : U32} {v : Nat} : v ∈ b.lateAt d step ↔
    (v ∈ b.ownMissing d step ∨ v ∈ b.childMissing d step) ∧ v ∉ b.strag.removed := by
  simp [Job.lateAt]

/-- The coordinator decides on contributions deferred from the step before, on contributors removed and on late ones. -/
theorem State.mem_decide {told : List Decision} {x : Decision} : x ∈ s.decide_ j step told ↔
    (∃ d ∈ (s.job j).strag.deferred, d.origin + 1 = step ∧ x = { contributor := d.contributor, code := s.deferredCode j step told d, origin := d.origin }) ∨
      (∃ v ∈ (s.job j).strag.removed, x = { contributor := v, code := 9, origin := step }) ∨
      ∃ v ∈ (s.job j).lateAt s.ident.device step, x = { contributor := v, code := lateCode (s.job j).policy, origin := step } := by
  simp only [State.decide_, List.mem_append, List.mem_insertionSort, List.mem_map, List.mem_filter, beq_iff_eq, and_assoc, @eq_comm _ x]

theorem State.deferredCode_removed {told : List Decision} {d : Decision} (h : d.contributor ∈ (s.job j).strag.removed) :
    s.deferredCode j step told d = 9 := if_pos (List.contains_iff_mem.2 h)

theorem State.deferredCode_nonFinite {told : List Decision} {d : Decision} (h : d.contributor ∉ (s.job j).strag.removed)
    (hn : (s.job j).strag.nonFinite.contains (d.origin, d.contributor) = true) : s.deferredCode j step told d = 4 :=
  (if_neg (by simpa using h)).trans (if_pos (Or.inl hn))

/-! ## INCLUDE (R258 to R260, R267) -/

/-- An INCLUDE of the step judged, in a job that takes it: none of the step is known yet. -/
def Job.takesInclude (b : Job) (j step : Nat) : Prop := j < 64 ∧ b.loaded = true ∧ b.state ≠ 7 ∧ step = b.train.judged ∧ b.strag.knows step = none

/-- An INCLUDE sent down the tree and taken. -/
def State.includes (s : State) (j step n : Nat) (ds : List Decision) : State := (s.toChildren j 0xA (includeBody step n ds)).takeInclude j step n ds

variable {n : Nat} {given : List Decision} {bytes : Bytes}

theorem doInclusion_ignored (h : ¬ (s.job j).takesInclude j step) : doInclusion j step n given bytes s = s := by
  refine if_pos ?_
  by_contra hc
  simp only [not_or, ge_iff_le, not_le, Bool.not_eq_true', Bool.not_eq_false, not_not, Option.not_isSome_iff_eq_none] at hc
  exact h hc

section Taken

variable (h : (s.job j).takesInclude j step)

include h

theorem Job.takesInclude_guard : ¬ (j ≥ 64 ∨ (!(s.job j).loaded) = true ∨ (s.job j).state = 7 ∨ step ≠ (s.job j).train.judged ∨
    ((s.job j).strag.knows step).isSome = true) := by
  obtain ⟨h64, hloaded, h7, hstep, hnone⟩ := h
  simp [h64, hloaded, h7, ← hstep, hnone]

theorem doInclusion_member (hd : s.decides j = false) : doInclusion j step n given bytes s = s.includes j step n given :=
  (if_neg (Job.takesInclude_guard h)).trans (if_pos (by simp [hd]))

variable (hd : s.decides j = true)

include hd

theorem doInclusion_decided (hr : (s.job j).replay = false) : doInclusion j step n given bytes s =
    s.includes j step (includedBy (s.job j).width step (s.decide_ j step given)) (s.decide_ j step given) :=
  (if_neg (Job.takesInclude_guard h)).trans ((if_neg (by simp [hd])).trans (if_pos (by simp [hr])))

/-- Decisions exclude a contributor from a step. -/
def leavesOut (ds : List Decision) (step c : Nat) : Prop := ∃ x ∈ ds, x.contributor = c ∧ excludes x.code = true ∧ x.origin = step

section Replay

variable (hr : (s.job j).replay = true)

include hr

/-- What the replay list holds for the step. -/
theorem doInclusion_unparsed (hp : replayStep bytes (fieldN ((s.job j).block 2) 0x10 8 - (s.job j).strag.replayPos) (s.job j).width step = none) :
    doInclusion j step n given bytes s = s.faultStop j stBadParam true := by
  simp only [doInclusion, if_neg (Job.takesInclude_guard h), hd, hr, hp, Bool.not_true, Bool.false_eq_true, if_false]

variable {ds : List Decision} {k : Nat}
  (hp : replayStep bytes (fieldN ((s.job j).block 2) 0x10 8 - (s.job j).strag.replayPos) (s.job j).width step = some (ds, k))

include hp

/-- A replay list that names no exclusion of a late contributor diverges. -/
theorem doInclusion_diverges (hu : ∃ c ∈ (s.job j).lateAt s.ident.device step, ¬ leavesOut ds step c) : doInclusion j step n given bytes s =
    (s.setStrag j fun x => { x with replayPos := x.replayPos + k }).faultStop j stDiverged true := by
  have hlate : ((s.job j).lateAt s.ident.device step).any (fun v => !ds.any fun d => d.contributor == v && excludes d.code && d.origin == step) = true := by
    simpa [leavesOut, and_assoc] using hu
  simp only [doInclusion, if_neg (Job.takesInclude_guard h), hd, hr, hp, Bool.not_true, Bool.false_eq_true, if_false, State.setStrag_ident]
  exact if_pos hlate

theorem doInclusion_replays (hu : ∀ c ∈ (s.job j).lateAt s.ident.device step, leavesOut ds step c) : doInclusion j step n given bytes s =
    (s.setStrag j fun x => { x with replayPos := x.replayPos + k }).includes j step (includedBy (s.job j).width step ds) ds := by
  have hlate : ¬ ((s.job j).lateAt s.ident.device step).any (fun v => !ds.any fun d => d.contributor == v && excludes d.code && d.origin == step) = true := by
    simpa [leavesOut, and_assoc] using hu
  simp only [doInclusion, if_neg (Job.takesInclude_guard h), hd, hr, hp, Bool.not_true, Bool.false_eq_true, if_false, State.setStrag_ident]
  exact if_neg hlate

end Replay

end Taken

/-- Where nothing of the step is in progress, INCLUDE is only kept. -/
theorem State.takeInclude_quiet (hj : j < s.jobs.length) {ds : List Decision} (hq : ∀ c ∈ (s.job j).colls, ∀ i ∈ c.active, i.step ≠ step) :
    s.takeInclude j step n ds = s.setStrag j fun x => { x with included := some (step, n, ds), ledger := ds } := by
  have hjob := s.job_setJob j (fun b => { b with strag := { b.strag with included := some (step, n, ds), ledger := ds } }) hj
  have hcolls := congrArg Job.colls hjob
  refine List.foldlRecOn (motive := fun (v : State) => v = s.setStrag j fun x => { x with included := some (step, n, ds), ledger := ds }) _ _ rfl ?_
  intro v hv c hc
  have hnone : (c.active.filter fun i => i.step == step) = [] := by
    rw [List.filter_eq_nil_iff]
    simpa using hq c (hcolls ▸ hc)
  rw [hnone]
  exact hv

end Sys2Proof.Machine

open Sys2Proof Sys2Proof.Machine

/-- Settles O52: READY is kept and goes up once nothing is missing; INCLUDE is taken with the decisions given, made or replayed, which name every late
contributor. -/
theorem latenessIsReportedAndDecided : Obligations.LatenessIsReportedAndDecided := by
  intro s p m step v d is9 dropped known
  refine ⟨mem_toRanges, fun ranges => ⟨fun h => ?other, fun h hk => ?stranger, fun h hk hstep => ?old, fun h hk hstep hj => ?ready⟩, fun j =>
    ⟨fun h => ?quiet, fun x hx hs hlen => ?deadline, fun n given bytes => ⟨fun h => ?ignored, fun h64 hloaded h7 hstep hnone => ?taken⟩,
      fun n ds hq hj => State.takeInclude_quiet hj hq⟩⟩
  case other => exact s.become_of_eq (controlRow_skip s h)
  case stranger => exact congrArg s.become (controlRow_drops h hk)
  case old => exact congrArg s.become (doReady_old h hk hstep)
  case ready =>
    obtain ⟨hjobs, -, hident, hmem, hcores, -⟩ := s.takeRx_fields p m
    have hv : v.job m.hdr.job = s.job m.hdr.job := s.takeRx_job p m _
    obtain ⟨hmem', hcores', sent, hstrag, hsent⟩ := State.reported_sendReady (s := v) (hjobs.symm ▸ hj) (hv.symm ▸ hstep) d
      ((s.job m.hdr.job).strag.earlier d step ++ ranges)
    have hacts : exec (.ready p m step ranges) s = _ := congrArg s.become (doReady_reports (ranges := ranges) h hk hstep)
    rw [hv] at hstrag hsent
    rw [show v.ident = s.ident from hident] at hsent
    have hreports := congrArg Straggler.reports hstrag
    exact ⟨_, hacts, hmem'.trans hmem, hcores'.trans hcores, _, sent, Straggler.earlier_cases _ d step, hreports,
      hstrag.trans (congrArg (fun l => ({ (s.job m.hdr.job).strag with reports := l, sentReady := sent } : Straggler)) hreports.symm), hsent⟩
  case quiet => exact s.become_of_eq (State.sendReady_stays h)
  case deadline => exact congrArg s.become (State.sendReady_deadline hx hs rfl hlen)
  case ignored =>
    refine s.become_of_eq (doInclusion_ignored ?_)
    rintro ⟨h64, hloaded, h7, hstep, hnone⟩
    rcases h with h | h | h | h | ⟨l, h⟩
    · omega
    · exact Bool.noConfusion (h.symm.trans hloaded)
    · exact h7 h
    · exact h hstep
    · exact Option.some_ne_none l (h.symm.trans hnone)
  case taken =>
    intro taken
    have ht : (s.job j).takesInclude j step := ⟨h64, hloaded, h7, hstep, hnone⟩
    refine ⟨fun hd => congrArg s.become (doInclusion_member ht hd), fun hd hr => ?decided, fun hd hr hp => congrArg s.become (doInclusion_unparsed ht hd hr hp),
      fun hd hr ds k hp => ?replayed⟩
    case decided =>
      refine ⟨_, _, congrArg s.become (doInclusion_decided ht hd hr), rfl, fun c hc hkept => ?late, fun c hc => ?removed, fun x hx ho => ?deferred⟩
      case late => exact State.mem_decide.2 (Or.inr (Or.inr ⟨c, Job.mem_lateAt.2 ⟨hc, hkept⟩, rfl⟩))
      case removed => exact State.mem_decide.2 (Or.inr (Or.inl ⟨c, hc, rfl⟩))
      case deferred => exact ⟨_, State.mem_decide.2 (Or.inl ⟨x, hx, ho, rfl⟩), State.deferredCode_removed, State.deferredCode_nonFinite⟩
    case replayed =>
      intro u late named
      refine ⟨fun ⟨c, hc, hkept, hn⟩ => congrArg s.become (doInclusion_diverges ht hd hr hp ⟨c, Job.mem_lateAt.2 ⟨hc, hkept⟩, hn⟩), fun hall => ?_⟩
      refine congrArg s.become (doInclusion_replays ht hd hr hp fun c hc => ?_)
      obtain ⟨hlate, hkept⟩ := Job.mem_lateAt.1 hc
      exact hall c hlate hkept

end

section
/-! SUPPORT. The setting commands (R278, R304, R305, R401, R411) past their checks. -/

namespace Sys2Proof.Machine

variable {s : State} {r : CmdRef} {c : Cmd}

/-! ## Rows of ring commands (R312) -/

/-- The row of a command that may begin ends in the state that its action leaves. -/
theorem State.become_acts {op : Nat} {i : Instr} {act : Cmd → State → State} {v : State} (h : s.mayBegin r c op = true)
    (hact : act c (s.begin r) = v) : s.become (cmdRow r op i act s) = .next (s.keep v) :=
  congrArg s.become ((cmdRow_begins s i act h).trans hact)

/-- A loaded job accepts the commands that R312 accepts in every state but 0. -/
theorem jobAccepts_loaded {st op : Nat} (hop : op = 0x010A ∨ op = 0x0313 ∨ op = 0x0404 ∨ op = 0x0009) (hst : st ≠ 0) : jobAccepts st op = .yes := by
  have hnop : op ≠ 0x0001 := by omega
  unfold jobAccepts
  rw [if_neg hnop, if_pos hop, if_neg hst]

/-! ## JOB_CONFIGURE (R304) -/

/-- Blocks that agree with each other, with the settings in force and with the binary, each without a bad field, are applied together. -/
theorem doJobConfigure_applies {xs : List Block304} (hparse : parseBlocks (c.params.length + 1) 0 c.params [] = .ok xs)
    (hs : jobAccepts (s.job c.job).state 0x0103 = .yes)
    (hgood : ∀ x ∈ xs, x.body ≠ [] → ∀ y ∈ (s.job c.job).blockBad (((s.job c.job).configured xs).strict || s.keeper.detEnforced) x, y.1 = false)
    (hagree : (s.job c.job).conflict s.keeper.detEnforced xs = none) :
    doJobConfigure r c s = (s.setJob c.job fun b => b.configured xs).reply r 0 0 0 := by
  unfold doJobConfigure
  simp only [hparse, hagree]
  refine State.checked_pass _ _ _ _ (firstBad_none (List.forall_mem_append.2 ⟨fun z hz => ?_, ?_⟩))
  · obtain ⟨x, hx, hz⟩ := List.mem_flatMap.1 hz
    obtain ⟨hmem, hbody⟩ := List.mem_filter.1 hx
    obtain ⟨y, hy, rfl⟩ := List.mem_map.1 hz
    exact hgood x hmem (by simpa using hbody) y hy
  · simp only [List.forall_mem_cons]
    exact ⟨True.intro, Job.stateCheck_pass hs, List.forall_mem_nil _⟩

/-! ## JOB_WAIT (R305) -/

/-- JOB_WAIT of a loaded job waits while the job runs and is answered at once otherwise. -/
theorem doJobWait_waits_or_answers (hz : ∀ n, c.params.getD n 0 = 0) (hst : (s.job c.job).state ≠ 0) : doJobWait r c s =
    if (s.job c.job).state = 3 then s.setJob c.job fun b => { b with waits := b.waits ++ [r] }
    else s.reply r (s.job c.job).faultStatus (s.job c.job).state ((s.job c.job).train.committed.getD ones64) := by
  unfold doJobWait
  refine State.checked_pass _ _ _ _ (firstBad_none ?_)
  simp only [List.forall_mem_cons]
  exact ⟨Cmd.beyond_passes fun n _ => hz n, Job.stateCheck_pass (jobAccepts_loaded (Or.inl rfl) hst), List.forall_mem_nil _⟩

/-! ## DET_ENFORCE (R278) -/

/-- DET_ENFORCE that does not set the flag, or sets it with every loaded job DET_STRICT, leaves the flag as asked and answers it. -/
theorem doDetEnforce_sets {on : Bool} (hv : c.p 0 1 ≤ 2) (hz : ∀ n, 1 ≤ n → c.params.getD n 0 = 0)
    (hstrict : c.p 0 1 = 1 → s.notStrict = none) (hon : (if c.p 0 1 = 1 then true else if c.p 0 1 = 2 then false else s.keeper.detEnforced) = on) :
    doDetEnforce r c s = (s.setKeeper fun k => { k with detEnforced := on }).reply r 0 (if on then 1 else 0) 0 := by
  subst hon
  have hstrict' : (c.p 0 1 == 1 && s.notStrict.isSome) = false := by simpa using hstrict
  unfold doDetEnforce
  refine State.checked_pass _ _ _ _ (firstBad_none ?_)
  simp only [List.forall_mem_cons]
  exact ⟨by simpa using hv, Cmd.beyond_passes hz, hstrict', List.forall_mem_nil _⟩

/-- DET_ENFORCE does not set the flag while a loaded job has DET_STRICT clear, and names the first one. -/
theorem doDetEnforce_refuses {j : Nat} (hz : ∀ n, 1 ≤ n → c.params.getD n 0 = 0) (h1 : c.p 0 1 = 1) (hj : s.notStrict = some j) :
    doDetEnforce r c s = s.reply r 0x0104 j 0 := by
  unfold doDetEnforce
  simp only [h1, hj, Option.isSome_some, Option.getD_some]
  exact State.checked_refuses (pre := [(decide (1 > 2), stBadParam, 0), c.beyond 1]) _ (by simp [Cmd.beyond_passes hz]) (by decide)

/-! ## PROFILE_SET (R398, R401) -/

section Profile

/-- The pace target that a PROFILE_SET asks for, zero meaning the default of its rows. -/
def Cmd.paceTarget (c : Cmd) : Nat := if c.p 2 2 = 0 then defaultTarget (c.p 0 1) else c.p 2 2

/-- The power cap that a PROFILE_SET asks for, zero meaning the default of its rows. -/
def Cmd.powerCap (c : Cmd) : Nat := if c.p 4 2 = 0 then defaultCap (c.p 0 1) else c.p 4 2

/-- A PROFILE_SET in range: a rows code, zeros in the reserved fields, and a target and a cap that R398 allows. -/
structure Cmd.profileFits (c : Cmd) : Prop where
  given : c.params ≠ []
  beyond : ∀ n, 8 ≤ n → c.params.getD n 0 = 0
  rows : c.p 0 1 ≤ 2
  zero1 : c.p 1 1 = 0
  zero6 : c.p 6 2 = 0
  target : 800 ≤ c.paceTarget ∧ c.paceTarget ≤ 2400
  cap : 900 ≤ c.powerCap ∧ c.powerCap ≤ 2250

/-- A profile in range: answered NO_FIT with the first job whose claims fail at its target, else put in force. -/
def State.tryProfile (s : State) (r : CmdRef) (c : Cmd) : State :=
  match s.firstMisfit c.paceTarget with
  | some (j, w) => s.reply r stNoFit w j
  | none => (s.setPower fun p => { p with rows := c.p 0 1, target := c.paceTarget, cap := c.powerCap }).reply r stOk (c.p 0 1) s.paces

variable (hf : c.profileFits)

include hf

theorem doProfileSet_eq : doProfileSet r c s = s.tryProfile r c := by
  obtain ⟨hgiven, hz, hrows, h1, h6, ⟨hlow, hhigh⟩, hcap, hward⟩ := hf
  have hsome : ¬ c.params.isEmpty = true := by simpa using hgiven
  refine (if_neg hsome).trans (State.checked_pass _ _ _ _ (firstBad_none ?_))
  simp only [List.forall_mem_cons]
  exact ⟨by simpa using hrows, Cmd.reserved_pass h1, by simpa using ⟨hlow, hhigh⟩, decide_eq_false (Nat.not_lt.2 hcap), Cmd.reserved_pass h6,
    Cmd.beyond_passes hz, decide_eq_false (Nat.not_lt.2 hward), List.forall_mem_nil _⟩

theorem doProfileSet_fits (hnone : s.firstMisfit c.paceTarget = none) : doProfileSet r c s =
    (s.setPower fun p => { p with rows := c.p 0 1, target := c.paceTarget, cap := c.powerCap }).reply r 0 (c.p 0 1) s.paces := by
  rw [doProfileSet_eq hf, State.tryProfile, hnone]
  rfl

theorem doProfileSet_misfits {j w : Nat} (hsome : s.firstMisfit c.paceTarget = some (j, w)) : doProfileSet r c s = s.reply r 0x0105 w j := by
  rw [doProfileSet_eq hf, State.tryProfile, hsome]
  rfl

end Profile

/-! ## WAKE_BUDGET (R411) -/

section Wake

variable (hgiven : c.params ≠ []) (hz : ∀ n, 8 ≤ n → c.params.getD n 0 = 0) (h4 : c.p 4 4 = 0)

include hgiven hz h4

theorem doWakeBudget_device (hj : c.job = 0xFFFF) : doWakeBudget r c s =
    (s.setPower fun p => { p with budget := c.p 0 4 }).reply r 0 (deepest (c.p 0 4)) 0 := by
  unfold doWakeBudget
  rw [State.checked_pass _ _ _ _ (firstBad_none ?_)]
  · simp only [List.isEmpty_eq_false_iff.2 hgiven, hj]
    rfl
  · simp only [List.forall_mem_cons]
    exact ⟨Cmd.reserved_pass h4, Cmd.beyond_passes hz, by rw [if_pos hj], List.forall_mem_nil _⟩

theorem doWakeBudget_job (hlen : c.job < s.jobs.length) (hst : (s.job c.job).state ≠ 0) (hj : c.job ≠ 0xFFFF) : doWakeBudget r c s =
    (s.setJob c.job fun b => { b with budget := c.p 0 4 }).reply r 0 (deepest (c.p 0 4)) 0 := by
  unfold doWakeBudget
  rw [State.checked_pass _ _ _ _ (firstBad_none ?_)]
  · simp only [List.isEmpty_eq_false_iff.2 hgiven, if_neg hj, Bool.false_eq_true, if_false, s.job_setJob _ _ hlen]
    rfl
  · simp only [List.forall_mem_cons]
    exact ⟨Cmd.reserved_pass h4, Cmd.beyond_passes hz, by rw [if_neg hj]; exact Job.stateCheck_pass (jobAccepts_loaded (by decide) hst),
      List.forall_mem_nil _⟩

end Wake

end Sys2Proof.Machine

open Sys2Proof Sys2Proof.Machine

/-- Settles O26: each command that may begin and passes its checks is one change of its setting and one reply, or its place among the waiters. -/
theorem settingCommandsTakeEffectTogether : Obligations.SettingCommandsTakeEffectTogether := by
  intro s r c b u
  refine ⟨fun xs h hparse hs hgood hagree => ?configure, fun h hz hst => ?wait, fun h hz hv => ?enforce,
    fun h hgiven hz hrows h1 h6 => ?profile, fun h hgiven hz h4 => ?wake⟩
  case configure => exact State.become_acts h (doJobConfigure_applies (s := u) hparse hs hgood hagree)
  case wait => exact State.become_acts h (doJobWait_waits_or_answers (s := u) hz hst)
  case enforce =>
    intro on
    refine ⟨fun h1 hnone => State.become_acts h (doDetEnforce_sets (s := u) hv hz (fun _ => hnone) (if_pos h1)),
      fun j h1 hj => State.become_acts h (doDetEnforce_refuses (s := u) hz h1 hj),
      fun hne => State.become_acts h (doDetEnforce_sets (s := u) hv hz (absurd · hne) ?_)⟩
    have hcases : c.p 0 1 = 0 ∨ c.p 0 1 = 2 := by omega
    rcases hcases with h0 | h2
    · simp [on, h0, u]
    · simp [on, h2]
  case profile =>
    intro target cap hlow hhigh hcap hward
    have hf : c.profileFits := ⟨hgiven, hz, hrows, h1, h6, ⟨hlow, hhigh⟩, hcap, hward⟩
    exact ⟨fun hnone => State.become_acts h (doProfileSet_fits (s := u) hf hnone),
      fun j w hsome => State.become_acts h (doProfileSet_misfits (s := u) hf hsome)⟩
  case wake =>
    exact ⟨fun hj => State.become_acts h (doWakeBudget_device (s := u) hgiven hz h4 hj),
      fun hlen hst hj => State.become_acts h (doWakeBudget_job (s := u) hgiven hz h4 hlen hst hj)⟩

end

section
/-! SUPPORT. What every command has in common: its answer (R428), and what turns a ring command away before its own checks (R292, R294, R302, R384, R432). -/

namespace Sys2Proof.Machine

variable {s : State} {i : Instr} {r : CmdRef} {op : Nat} {c : Cmd} {act : Cmd → State → State}

/-! ## Answers -/

/-- Every command but OVERVOLTAGE has a next state. -/
theorem exec_isNext (h : ∀ v, i = .overvoltage v → v ≤ 660) : ∃ t, exec i s = .next t := by
  cases i with
  | overvoltage v => exact ⟨_, if_neg (Nat.not_lt.2 (h v rfl))⟩
  | _ => exact ⟨_, rfl⟩

/-! ## Rows of ring commands -/

/-- The 36 rows are `cmdRow`, each with an opcode of the map of R302. -/
theorem exec_ringRow (h : ringRow i = some (r, op)) : opcodeRow op ≠ none ∧ ∃ act, exec i s = s.become (cmdRow r op i act s) := by
  unfold ringRow at h
  split at h
  case h_37 => cases h
  all_goals
    obtain ⟨rfl, rfl⟩ := Prod.mk.inj (Option.some.inj h)
    exact ⟨by decide, _, rfl⟩

section Read

variable (hc : s.cmd r = some c)

include hc

theorem cmdRow_idle (h : s.takesCommands = false ∨ c.begun = true) : cmdRow r op i act s = s := by
  simp [cmdRow, hc, h]

variable (ht : s.takesCommands = true) (hb : c.begun = false)

include ht hb

theorem cmdRow_unknown (ho : opcodeRow c.opcode = none) : cmdRow r op i act s = s.reply r stBadOpcode 0 0 := by
  simp [cmdRow, hc, ht, hb, ho]

theorem cmdRow_badHeader (ho : opcodeRow c.opcode ≠ none) (hh : c.headerBad = true) : cmdRow r op i act s = s.reply r stBadParam 0x00FFFFFF 0 := by
  simp [cmdRow, hc, ht, hb, ho, hh]

variable (ho : opcodeRow op ≠ none) (hop : c.opcode = op) (hh : c.headerBad = false)

include ho hop hh

theorem cmdRow_fenced (hr : s.resetStops c.job = true) : cmdRow r op i act s = s.reply r stFenced 0 0 := by
  simp [cmdRow, hc, ht, hb, ho, hop, hh, hr]

theorem cmdRow_recovery (hr : s.resetStops c.job = false) (hrec : s.fw.recovery = true) (hno : recoveryOp op = false) :
    cmdRow r op i act s = s.reply r stBadState (s.ring r.queue).state 0 := by
  simp [cmdRow, hc, ht, hb, ho, hop, hh, hr, hrec, hno]

end Read

end Sys2Proof.Machine

open Sys2Proof Sys2Proof.Machine

/-- Settles O1: with a command at the front, `step` is `exec` by definition. -/
theorem stepRunsTheFrontCommand : Obligations.StepRunsTheFrontCommand := fun _ _ _ => rfl

/-- Settles O3: each row answers by `State.become`, which gives a next state; only OVERVOLTAGE beyond 66.0 V has a fault. -/
theorem everyCommandIsAnswered : Obligations.EveryCommandIsAnswered := by
  intro i s
  refine ⟨exec_isNext, ?beyond⟩
  rintro v rfl hv
  exact if_pos hv

/-- Settles O5: the rows share `cmdRow`, which turns a command away in the order of its conditions. -/
theorem ringCommandsAreTurnedAwayByOneRule : Obligations.RingCommandsAreTurnedAwayByOneRule := by
  intro i r op s c hi hc
  obtain ⟨ho, act, hexec⟩ := exec_ringRow (s := s) hi
  rw [hexec]
  refine ⟨fun h => s.become_of_eq (cmdRow_idle hc h), fun ht hb => ⟨fun hn => ?unknown, fun hk hh => ?header, fun hop hh hr => ?fenced,
    fun hop hh hr hrec hno => ?recovery⟩⟩
  case unknown => exact congrArg s.become (cmdRow_unknown hc ht hb hn)
  case header => exact congrArg s.become (cmdRow_badHeader hc ht hb hk hh)
  case fenced => exact congrArg s.become (cmdRow_fenced hc ht hb ho hop hh hr)
  case recovery => exact congrArg s.become (cmdRow_recovery hc ht hb ho hop hh hr hrec hno)

end

section
/-! SUPPORT. The host interface (R285 to R293, R295, R300): ring registers, the reading of a command, its reply and its timeout. -/

namespace Sys2Proof.Machine

variable {s : State} {r : CmdRef} {c : Cmd}

/-! ## Ring registers (R286 to R288, R432) -/

section Registers

variable {q : Nat}

theorem bitOf_zero_eq_true {v : Nat} : bitOf v 0 = true ↔ v % 2 = 1 := by simp [bitOf]

theorem bitOf_zero_eq_false {v : Nat} : bitOf v 0 = false ↔ v % 2 = 0 := by simp [bitOf]

/-- The cause of a ring's halt as it is enabled, 0 when it runs (R288, R432). -/
def enableCause (fenceAll : Bool) (size : Nat) (granted : Bool) : Nat := if fenceAll then 6 else if 10 < size then 5 else if granted then 0 else 4

theorem Ring.enabled_eq (x : Ring) (fenceAll granted : Bool) : x.enabled fenceAll granted = { x with
    enable := true, head := 0, tail := 0, expect := 0, cause := enableCause fenceAll x.size granted
    state := if enableCause fenceAll x.size granted = 0 then 1 else 2, enabling := x.enabling + 1 } := by
  unfold Ring.enabled enableCause
  cases fenceAll
  · by_cases hsize : 10 < x.size
    · simp [hsize]
    · cases granted <;> simp [hsize]
  · rfl

theorem State.ringWrite_enables {v : Nat} (hoff : (s.ring q).enable = false) (hv : v % 2 = 1) :
    s.ringWrite q v = s.setRing q fun x =>
      ({ x with quiet := bitOf v 9, base := v / 4096 * 4096, size := bitsOf v 4 4 } : Ring).enabled s.keeper.fenceAll
        (s.host.granted (v / 4096 * 4096) (64 * 2 ^ (bitsOf v 4 4 + 6))) := by
  have hon : (!(s.ring q).enable && bitOf v 0) = true := by simp [hoff, bitOf_zero_eq_true.2 hv]
  unfold State.ringWrite
  rw [if_pos hon, State.setRing_setRing]
  refine s.setRing_congr _ _ _ ?_
  simp only [Ring.write, hoff, Bool.false_eq_true, if_false]
  rfl

theorem State.ringWrite_disables {v : Nat} (hon : (s.ring q).enable = true) (hv : v % 2 = 0) :
    s.ringWrite q v = s.setRing q fun x => { x with enable := false, quiet := bitOf v 9, state := 0 } := by
  have hoff : ¬ (!(s.ring q).enable && bitOf v 0) = true := by simp [hon]
  unfold State.ringWrite
  rw [if_neg hoff]
  refine s.setRing_congr _ _ _ ?_
  simp only [Ring.write, hon, bitOf_zero_eq_false.2 hv, if_true, Bool.false_eq_true, if_false]

end Registers

/-! ## COMMAND_READ (R285, R289 to R293) -/

section Read

variable {n : Nat} {slots indirect : Bytes}

/-- The header in the first slot. -/
def readHeader (slots : Bytes) : Bytes := sliceZ slots 0 32

/-- Whether the parameters are indirect (R292). -/
def readInd (slots : Bytes) : Nat := bitsOf (fieldN (readHeader slots) 3 1) 0 1

/-- Bytes of parameters. -/
def readLength (slots : Bytes) : Nat := fieldN (readHeader slots) 8 4

/-- Slots of a command (R289). -/
def readCount (slots : Bytes) : Nat := ceilDiv (32 + (if readInd slots = 1 then 16 else readLength slots)) 64

/-- The parameters, from the slots or from the bytes at the pointer (R292). -/
def readParams (slots indirect : Bytes) : Bytes :=
  if readInd slots = 1 then sliceZ indirect 0 (readLength slots) else sliceZ slots 32 (readLength slots)

/-- The command that the slots of a ring hold. -/
def Ring.readCmd (q : Ring) (n : Nat) (slots indirect : Bytes) : Cmd :=
  { ref := ⟨n, q.enabling, q.expect⟩, header := readHeader slots, params := readParams slots indirect
    pointerBad := readInd slots == 1 && fieldN slots 40 8 != 0 }

/-- A ring with a command of some slots read from it (R289, R291). -/
def Ring.taking (x : Ring) (count : Nat) (cmd : Cmd) : Ring :=
  { x with head := (x.head + count) % 2 ^ 32, expect := (x.expect + 1) % 2 ^ 32, cmds := x.cmds ++ [cmd] }

/-- Why a read of those slots halts the ring (R289). -/
def State.readCause (s : State) (n : Nat) (slots indirect : Bytes) : Option Nat :=
  s.readHalt (s.ring n) (readHeader slots) (readParams slots indirect) (readInd slots) (fieldN slots 32 8) (readLength slots) (readCount slots)

/-- The cause of the halt as a number, 0 for a whole command (R286, R289). -/
def State.haltCause (s : State) (q : Ring) (header params : Bytes) (ind pointer length count : Nat) : Nat :=
  if q.slots < q.ahead then 3 else if s.host.granted (q.base + 64 * ((q.head + 0) % q.slots)) 64 = false then 4
  else if (ind = 0 ∧ 4096 < 32 + length) ∨ q.ahead < count ∨ 0x1000000 < length then 7
  else if ((List.range count).all fun i => s.host.granted (q.base + 64 * ((q.head + i) % q.slots)) 64) = false ∨
    (ind = 1 ∧ s.host.granted pointer length = false) then 4
  else if (crc32c (header.take 28 ++ params)).toNat ≠ fieldN header 0x1C 4 then 1
  else if fieldN header 0x18 4 ≠ q.expect then 2 else 0

/-- A cause of R286, none when it is 0. -/
def causeOf (k : Nat) : Option Nat := if k = 0 then none else some k

theorem causeOf_ite (p : Prop) [Decidable p] {a k : Nat} (ha : a ≠ 0) : causeOf (if p then a else k) = if p then some a else causeOf k := by
  split
  · exact if_neg ha
  · rfl

theorem State.readHalt_eq (q : Ring) (header params : Bytes) (ind pointer length count : Nat) :
    s.readHalt q header params ind pointer length count = causeOf (s.haltCause q header params ind pointer length count) := by
  unfold State.haltCause
  iterate 6 rw [causeOf_ite _ (by decide)]
  unfold State.readHalt
  simp only [gt_iff_lt, Bool.not_eq_true']
  rfl

theorem doCommandRead_elsewhere (h : s.nextQueue ≠ some n) : doCommandRead n slots indirect s = s := if_pos (Or.inr (Or.inr h))

variable (ht : s.takesCommands = true) (hup : s.switrakUp = true) (hnext : s.nextQueue = some n)

include ht hup hnext

theorem doCommandRead_halts {cause : Nat} (h : s.readCause n slots indirect = some cause) :
    doCommandRead n slots indirect s = s.setRing n fun x => { x with state := 2, cause := cause } := by
  unfold State.readCause readParams readCount readLength readInd readHeader at h
  simp [doCommandRead, ht, hup, hnext, h]

/-- A whole command moves HEAD, the sequence number and the commands of its ring, and the reading order. -/
theorem doCommandRead_reads (h : s.readCause n slots indirect = none)
    (hroom : readInd slots = 1 → s.host.indirectHeld + readLength slots ≤ 0x400_0000) : ∃ f : HostIf → HostIf, (∀ x, (f x).rings = x.rings) ∧
    doCommandRead n slots indirect s = (s.setRing n fun x => x.taking (readCount slots) ((s.ring n).readCmd n slots indirect)).setHost f := by
  unfold State.readCause readParams readCount readLength readInd readHeader at h
  unfold readLength readInd readHeader at hroom
  have hfull : ¬ (bitsOf (fieldN (sliceZ slots 0 32) 3 1) 0 1 = 1 ∧ s.host.indirectHeld + fieldN (sliceZ slots 0 32) 8 4 > 0x400_0000) :=
    fun hx => Nat.not_lt.2 (hroom hx.1) hx.2
  unfold doCommandRead
  rw [if_neg (by simp [ht, hup, hnext])]
  simp only [h]
  rw [if_neg hfull]
  refine ⟨_, ?_, rfl⟩
  exact fun _ => rfl

end Read

/-! ## A command's place in its ring -/

section Marks

/-- The commands of a ring with the named one changed. -/
def markCmd (r : CmdRef) (f : Cmd → Cmd) (l : List Cmd) : List Cmd := l.map fun x => if x.ref == r then f x else x

/-- A command changed but for its name and its end reads back changed. -/
theorem find?_markCmd {l : List Cmd} {f : Cmd → Cmd} (href : ∀ x, (f x).ref = x.ref) (hend : ∀ x, (f x).ended = x.ended)
    (hc : (l.find? fun x => x.ref == r && !x.ended) = some c) : ((markCmd r f l).find? fun x => x.ref == r && !x.ended) = some (f c) := by
  have hkeep : (fun x : Cmd => (if x.ref == r then f x else x).ref == r && !(if x.ref == r then f x else x).ended) = fun x => x.ref == r && !x.ended := by
    funext x
    split <;> simp [href, hend]
  have hr : (c.ref == r) = true := by
    have h := List.find?_some hc
    simp only [Bool.and_eq_true] at h
    exact h.1
  rw [markCmd, List.find?_map]
  simp only [Function.comp_def, hkeep, hc, Option.map_some, hr, if_true]

/-- A command marked as ended is no longer in progress. -/
theorem find?_markCmd_ended (l : List Cmd) : ((markCmd r (fun x => { x with ended := true }) l).find? fun x => x.ref == r && !x.ended) = none := by
  rw [List.find?_eq_none]
  intro x hx
  obtain ⟨y, -, rfl⟩ := List.mem_map.1 hx
  split <;> simp_all

theorem State.begin_rings_length (s : State) (r : CmdRef) : (s.begin r).host.rings.length = s.host.rings.length := List.length_modify ..

variable (hq : r.queue < s.host.rings.length)

include hq

theorem State.cmd_setRing (g : Ring → Ring) : (s.setRing r.queue g).cmd r = (g (s.ring r.queue)).cmds.find? fun x => x.ref == r && !x.ended := by
  unfold State.cmd
  rw [State.ring_setRing _ _ _ hq]

theorem State.cmd_begin (hc : s.cmd r = some c) : (s.begin r).cmd r = some { c with begun := true } := by
  refine (State.cmd_setRing hq _).trans (Eq.trans ?_ (find?_markCmd (f := fun x => { x with begun := true }) (fun _ => rfl) (fun _ => rfl) hc))
  simp [markCmd]

theorem State.ring_begin : (s.begin r).ring r.queue =
    { s.ring r.queue with cmds := markCmd r (fun x => { x with begun := true }) (s.ring r.queue).cmds } := by
  refine (State.ring_setRing _ _ _ hq).trans ?_
  simp [markCmd]

end Marks

/-! ## Replies (R295) -/

section Reply

/-- The 32 bytes of a reply put to the adapter: all but the status first, the status kept for the second write. -/
def replyRequest (id : Nat) (c : Cmd) (r : CmdRef) (status detail value : Nat) : FarReq :=
  let b := replyBytes c.header r.queue r.sequence status detail value
  { id := id, addr := c.replyAddr + 2, data := b.drop 2, length := 0, use := .replyBody r.queue (b.take 2) }

variable (hc : s.cmd r = some c) (ht : c.timedOut = false) (ha : c.replyAddr ≠ 0) (hquiet : (s.ring r.queue).quiet = false)
  (hup : s.switrakUp = true) (hg : s.host.granted c.replyAddr 32 = true) (hq : r.queue < s.host.rings.length)

include hc ht ha hquiet hup hg hq

/-- A reply that is begun is one request to the adapter, and its command has ended. -/
theorem State.reply_begun_fields (st d v : Nat) : (s.reply r st d v).host.far = s.host.far ++ [replyRequest s.host.farNext c r st d v] ∧
    (s.reply r st d v).cmd r = none ∧ (s.reply r st d v).jobs = s.jobs ∧ (s.reply r st d v).cores = s.cores ∧ (s.reply r st d v).mem = s.mem ∧
    (s.reply r st d v).keeper = s.keeper ∧ (s.reply r st d v).power = s.power ∧ (s.reply r st d v).fabric = s.fabric := by
  rw [s.reply_begun st d v hc ht ha hquiet hup hg]
  refine ⟨rfl, ?_, rfl, rfl, rfl, rfl, rfl, rfl⟩
  exact (State.cmd_setRing hq _).trans (find?_markCmd_ended _)

end Reply

/-- A command of a row that may begin and answers at once by its first reply: one request to the adapter, and nothing else but its end. -/
theorem completes_reply {i : Instr} {op : Nat} {act : Cmd → State → State} {d v : Nat} (hi : exec i s = s.become (cmdRow r op i act s))
    (h : s.mayBegin r c op = true) (hact : act c (s.begin r) = (s.begin r).reply r 0 d v)
    (ht : c.timedOut = false) (ha : c.replyAddr ≠ 0) (hquiet : (s.ring r.queue).quiet = false) (hup : s.switrakUp = true)
    (hg : s.host.granted c.replyAddr 32 = true) (hq : r.queue < s.host.rings.length) : Completes i s fun t =>
      t.host.far = s.host.far ++ [replyRequest s.host.farNext c r 0 d v] ∧ t.cmd r = none ∧ t.jobs = s.jobs ∧ t.cores = s.cores ∧ t.mem = s.mem ∧
      t.keeper = s.keeper ∧ t.power = s.power ∧ t.fabric = s.fabric := by
  have hc : s.cmd r = some c := by
    unfold State.mayBegin at h
    simp only [Bool.and_eq_true, beq_iff_eq] at h
    tauto
  have hbq : r.queue < (s.begin r).host.rings.length := (s.begin_rings_length r).symm ▸ hq
  have hbquiet : ((s.begin r).ring r.queue).quiet = false := by rw [State.ring_begin hq]; exact hquiet
  refine ⟨_, hi.trans (State.become_acts h hact), ?_⟩
  exact State.reply_begun_fields (s := s.begin r) (c := { c with begun := true }) (State.cmd_begin hq hc) ht ha hbquiet hup hg hbq 0 d v

/-! ## COMMAND_TIMEOUT (R300, R305) -/

section Timeout

theorem doCommandTimeout_none (h : s.cmd r = none ∨ s.keeper.management ≠ 0) : doCommandTimeout r s = s := by
  unfold doCommandTimeout
  split
  · rfl
  · rename_i hc
    exact if_pos (Or.inl (h.resolve_left (by simp [hc])))

variable (hc : s.cmd r = some c)

include hc

theorem doCommandTimeout_again (h : c.timedOut = true) : doCommandTimeout r s = s := by simp [doCommandTimeout, hc, h]

variable (hm : s.keeper.management = 0) (ht : c.timedOut = false)

include hm ht

theorem doCommandTimeout_unbegun (hb : c.begun = false) : doCommandTimeout r s = (s.dropWaiting fun w => w.1 == .cmd r).reply r stTimeout 0 0 := by
  simp [doCommandTimeout, hc, hm, ht, hb]

theorem doCommandTimeout_wait (hb : c.begun = true) (hw : (s.job c.job).waits.contains r = true) : doCommandTimeout r s =
    (s.setJob c.job fun b => { b with waits := b.waits.filter fun x => !(x == r) }).reply r stTimeout 0 0 := by
  simp only [doCommandTimeout, hc, hm, ht, hb, hw]
  simp

theorem doCommandTimeout_marks (hb : c.begun = true) (hw : (s.job c.job).waits.contains r = false) (hcopy : (s.job c.job).copyOf r = false)
    (hstream : ((s.job c.job).serving.changes.any fun x => x.2.2 == some r) = false) : doCommandTimeout r s = s.timeoutMark r c := by
  simp only [doCommandTimeout, hc, hm, ht, hb, hw, hcopy, hstream]
  simp

end Timeout

theorem State.timeoutMark_fields (hc : s.cmd r = some c) (ha : c.replyAddr ≠ 0) (hquiet : (s.ring r.queue).quiet = false) (hup : s.switrakUp = true)
    (hg : s.host.granted c.replyAddr 32 = true) (hq : r.queue < s.host.rings.length) : (s.timeoutMark r c).cmd r = some { c with timedOut := true } ∧
      (s.timeoutMark r c).host.far = s.host.far ++ [replyRequest s.host.farNext c r 0x0201 0 0] ∧
      (s.timeoutMark r c).jobs = s.jobs ∧ (s.timeoutMark r c).cores = s.cores ∧ (s.timeoutMark r c).mem = s.mem := by
  have hloud : ¬ (c.replyAddr = 0 ∨ (((s.setRing r.queue fun q => { q with cmds := markCmd r (fun x => { x with timedOut := true }) q.cmds }).setHost
      fun h => { h with order := h.order.filter fun x => !(x == r) }).ring r.queue).quiet = true) := by
    rintro (h | h)
    · exact ha h
    · have hring := State.ring_setRing s r.queue (fun q => { q with cmds := markCmd r (fun x => { x with timedOut := true }) q.cmds }) hq
      have hsame := (congrArg Ring.quiet hring).symm.trans h
      simp [hquiet] at hsame
  have hwrite : ¬ (!s.switrakUp || !s.host.granted c.replyAddr 32) = true := by simp [hup, hg]
  have heq : s.timeoutMark r c = ((s.setRing r.queue fun q => { q with cmds := markCmd r (fun x => { x with timedOut := true }) q.cmds }).setHost
      fun h => { h with order := h.order.filter fun x => !(x == r) }).farPut (c.replyAddr + 2) ((replyBytes c.header r.queue r.sequence 0x0201 0 0).drop 2) 0
        (.replyBody r.queue ((replyBytes c.header r.queue r.sequence 0x0201 0 0).take 2)) := (if_neg hloud).trans (if_neg hwrite)
  rw [heq]
  refine ⟨?_, rfl, rfl, rfl, rfl⟩
  exact (State.cmd_setRing hq _).trans (find?_markCmd (f := fun x => { x with timedOut := true }) (fun _ => rfl) (fun _ => rfl) hc)

end Sys2Proof.Machine

open Sys2Proof Sys2Proof.Machine

/-- Settles O21: each row is one change of its ring; an enabling is the write followed by the check of the new ring. -/
theorem ringRegistersStartAndStopARing : Obligations.RingRegistersStartAndStopARing := by
  intro s q v tail hq
  refine ⟨fun hshut => ⟨s.become_of_eq ?_, s.become_of_eq ?_, s.become_of_eq ?_⟩, fun hopen => ⟨?bell, fun hoff hv => ?enable, fun hon hv => ?disable⟩⟩
  · exact if_neg (by simp [hshut])
  · exact if_neg (by simp [hshut])
  · exact if_neg (by simp [hshut])
  case bell => exact congrArg s.become (if_pos hopen)
  case enable =>
    have hdo : doRingEnable q v s = s.ringWrite q v.toNat := if_pos ⟨hopen, by simp [hoff], bitOf_zero_eq_true.2 hv⟩
    intro base size cause
    have hcause : enableCause s.keeper.fenceAll size (s.host.granted base (64 * 2 ^ (size + 6))) = cause := rfl
    have hset : s.ringWrite q v.toNat = s.setRing q fun x => { x with
        enable := true, quiet := v.toNat / 512 % 2 == 1, base := base, size := size, head := 0, tail := 0, expect := 0
        cause := cause, state := if cause = 0 then 1 else 2, enabling := x.enabling + 1 } := by
      rw [State.ringWrite_enables hoff hv, ← hcause]
      simp only [Ring.enabled_eq]
      rfl
    exact congrArg s.become (hdo.trans hset)
  case disable =>
    have hdo : doRingDisable q v s = s.ringWrite q v.toNat := if_pos ⟨hopen, hon, by simp [bitOf_zero_eq_false.2 hv]⟩
    exact congrArg s.become (hdo.trans (State.ringWrite_disables hon hv))

/-- Settles O22: a read halts the ring with the cause that `readHalt` finds first, or takes the command. -/
theorem commandReadTakesOneWholeCommand : Obligations.CommandReadTakesOneWholeCommand := by
  intro s n slots indirect hn ht hup
  refine ⟨fun h => s.become_of_eq (doCommandRead_elsewhere h), fun hnext => ?_⟩
  intro q header ind length pointer count params ahead granted cause
  have hind : readInd slots = ind := by simp [readInd, bitsOf, ind, header, readHeader]
  have hcount : readCount slots = count := by simp [readCount, ceilDiv, hind, count, readLength, length, header, readHeader]
  have hparams : readParams slots indirect = params := by simp [readParams, hind, params, readLength, length, header, readHeader]
  have hcause : s.readCause n slots indirect = causeOf cause := by
    unfold State.readCause
    rw [hind, hcount, hparams]
    exact s.readHalt_eq q header params ind pointer length count
  refine ⟨fun h => ?halts, fun h hroom => ?reads⟩
  case halts =>
    rw [causeOf, if_neg h] at hcause
    exact congrArg s.become (doCommandRead_halts ht hup hnext hcause)
  case reads =>
    rw [causeOf, if_pos h] at hcause
    obtain ⟨f, hf, heq⟩ := doCommandRead_reads ht hup hnext hcause (by rw [hind]; exact hroom)
    refine ⟨_, congrArg s.become heq, ?_, fun m hm => ?_, rfl, rfl, rfl, rfl⟩
    · have hring := s.ring_setRing n (fun x => x.taking (readCount slots) ((s.ring n).readCmd n slots indirect)) hn
      rw [hcount, Ring.readCmd, hparams, hind] at hring
      refine Eq.trans (congrArg (fun l : List Ring => l.getD n {}) (hf _)) ?_
      rw [hcount, Ring.readCmd, hparams, hind]
      exact hring
    · exact (congrArg (fun l : List Ring => l.getD m {}) (hf _)).trans (s.ring_setRing_other n m _ (Ne.symm hm))

/-- Settles O23: COMMAND_TIMEOUT answers a command that has changed nothing and marks one that runs on. -/
theorem commandsTimeOut : Obligations.CommandsTimeOut := by
  intro s r c
  refine ⟨fun h => s.become_of_eq (doCommandTimeout_none h), fun hc h => s.become_of_eq (doCommandTimeout_again hc h),
    fun hc hm ht => ⟨fun hb => ?unbegun, fun hb hw => ?waits, fun hb hw hcopy hstream ha hquiet hup hg hq => ?marks⟩⟩
  case unbegun =>
    obtain ⟨hid, hp, hj, hmem, hcores⟩ := (s.dropWaiting fun w => w.1 == .cmd r).reply_frame r 0x0201 0 0
    have hdo : exec (.commandTimeout r) s = .next ((s.dropWaiting fun w => w.1 == .cmd r).reply r 0x0201 0 0) :=
      (congrArg s.become (doCommandTimeout_unbegun hc hm ht hb)).trans (congrArg _ (s.keep_of_same hid hp))
    exact ⟨hdo, _, hdo, hj, hcores, hmem⟩
  case waits =>
    obtain ⟨hid, hp, -⟩ := (s.setJob c.job fun b => { b with waits := b.waits.filter fun x => !(x == r) }).reply_frame r 0x0201 0 0
    exact (congrArg s.become (doCommandTimeout_wait hc hm ht hb hw)).trans (congrArg _ (s.keep_of_same hid hp))
  case marks =>
    exact ⟨_, congrArg s.become (doCommandTimeout_marks hc hm ht hb hw hcopy hstream), State.timeoutMark_fields hc ha hquiet hup hg hq⟩

/-- Settles O25: both commands pass their checks and answer at once, and the reply is one request to the adapter. -/
theorem repliesAreWrittenInTwoSteps : Obligations.RepliesAreWrittenInTwoSteps := by
  intro s r c i op detail value hi h ht ha hquiet hup hg hq
  rcases hi with ⟨rfl, rfl, rfl, rfl, hz⟩ | ⟨rfl, rfl, rfl, rfl, hp⟩
  · refine completes_reply rfl h ?_ ht ha hquiet hup hg hq
    exact State.checked_pass _ _ _ _ (firstBad_none (by simp [Cmd.beyond_passes fun n _ => hz n]))
  · refine completes_reply rfl h ?_ ht ha hquiet hup hg hq
    exact if_pos (by simp [hp])

end

section
/-! SUPPORT. The keeper's registers and its mailbox (R306, R308, R309, R358, R359), patina over time (R374) and the I3C port (R360). -/

namespace Sys2Proof.Machine

variable {s : State}

/-! ## KP_EVENT (R359) -/

/-- Clearing every bit that is set leaves none. -/
theorem and_clear_eq_zero {e m : Nat} (h : ∀ i < 5, e.testBit i = true → m.testBit i = true) : e &&& (31 - m % 32) = 0 := by
  refine Nat.eq_of_testBit_eq fun i => ?_
  have hmask : 31 - m % 32 = 2 ^ 5 - (m % 32 + 1) := by omega
  rw [Nat.zero_testBit, Nat.testBit_and, hmask, Nat.testBit_two_pow_sub_succ (Nat.mod_lt m (by decide)), Nat.testBit_mod_two_pow]
  by_cases hi : i < 5
  · have := h i hi
    cases hb : e.testBit i <;> simp_all
  · simp [hi]

theorem State.windowWrite_event (v : Nat) : s.windowWrite 0x1028 8 v = s.clearEvents v := by
  have hmod : v % 2 ^ 32 % 32 = v % 32 := Nat.mod_mod_of_dvd v (by decide)
  have heq : s.windowWrite 0x1028 8 v = s.clearEvents (v % 2 ^ 32) := rfl
  rw [heq, State.clearEvents, State.clearEvents, hmod]

/-! ## Patina (R374) -/

theorem patina_decay_toNat {n : Nat} (h : n ≤ 1048575) :
    BitVec.ofNat 64 (n - n * 17 / 2 ^ 12) = BitVec.ofNat 64 n - ((BitVec.ofNat 64 n * 17) >>> 12) := by
  have h17 : (17 : BitVec 64).toNat = 17 := rfl
  have hn : n % 2 ^ 64 = n := Nat.mod_eq_of_lt (by omega)
  have hmul : n * 17 % 2 ^ 64 = n * 17 := Nat.mod_eq_of_lt (by omega)
  apply BitVec.eq_of_toNat_eq
  simp only [BitVec.toNat_ofNat, BitVec.toNat_sub, BitVec.toNat_ushiftRight, BitVec.toNat_mul, Nat.shiftRight_eq_div_pow, h17, hn, hmul]
  omega

theorem State.powerBoot_frame (s : State) : s.powerBoot.health = s.health ∧ s.powerBoot.power = s.power := by
  unfold State.powerBoot
  split
  · exact ⟨rfl, rfl⟩
  · exact ⟨rfl, rfl⟩

theorem doPowerUp_restores (h : s.power.input = false) : (doPowerUp s).health.acc = s.health.flash.acc ∧ (doPowerUp s).power.input = true := by
  unfold doPowerUp
  rw [if_neg (by simp [h])]
  unfold State.bootFrom
  simp only [State.powerBoot_frame]
  exact ⟨rfl, rfl⟩

/-! ## MB_GO (R308, R309) -/

section Go

variable {ctrl : U32}

/-- The mailbox with a reply that it gives itself. -/
def Mailbox.answered (m : Mailbox) (seq status detail : Nat) : Mailbox :=
  { m with seq := seq, done := true, busy := false, reply := replyBytes m.header 0xFFFF seq status detail 0, data := m.data.take 3840 }

/-- The mailbox after MB_GO with BUSY clear: the checks of R309 in their order. -/
def Mailbox.started (m : Mailbox) (ctrl : U32) : Mailbox :=
  let seq := ctrl.toNat / 256 % 256
  if ctrl.toNat / 2 % 128 ≠ 0 ∨ ctrl.toNat / 65536 ≠ 0 then m.answered seq stBadParam 0x00FFFFFF
  else if isDeadbolt m.cmd.opcode = false then m.answered seq stBadOpcode 0
  else if m.headerBad = true then m.answered seq stBadParam 0x00FFFFFF
  else { m with seq := seq, done := false, busy := true }

/-- Bits of MB_CTRL that are reserved (R308). -/
theorem mbCtrl_reserved : (bitsOf ctrl.toNat 1 7 ≠ 0 ∨ bitsOf ctrl.toNat 16 16 ≠ 0) ↔ (ctrl.toNat / 2 % 128 ≠ 0 ∨ ctrl.toNat / 65536 ≠ 0) := by
  have hlt := ctrl.isLt
  unfold bitsOf
  omega

theorem mbCtrl_seq : bitsOf ctrl.toNat 8 8 = ctrl.toNat / 256 % 256 := rfl

theorem Mailbox.headerBad_iff (m : Mailbox) : m.headerBad = true ↔ (m.cmd.cls ≠ 3 ∨ m.cmd.flags % 2 = 1 ∨ 3 < m.cmd.flags ∨ 64 < fieldN m.header 8 4 ∨
    m.cmd.job ≠ 0xFFFF ∨ (crc32c (m.header.take 28 ++ m.param.take (fieldN m.header 8 4))).toNat ≠ fieldN m.header 0x1C 4) := by
  simp [Mailbox.headerBad, bitOf, Mailbox.cmd, or_assoc]

theorem isDeadbolt_iff {op : Nat} : isDeadbolt op = true ↔ 0x0F01 ≤ op ∧ op ≤ 0x0F08 := by simp [isDeadbolt]

theorem doMbGo_noGo (h : ctrl.toNat % 2 = 0) : doMbGo ctrl s = s := by simp [doMbGo, bitOf, h]

variable (hp : s.power.input = true)

include hp

variable (hgo : ctrl.toNat % 2 = 1)

include hgo

theorem doMbGo_busy (hb : s.keeper.mailbox.busy = true) :
    doMbGo ctrl s = s.setKeeper fun k => { k with mailbox := { s.keeper.mailbox with refused := true } } := by
  simp [doMbGo, bitOf, hgo, hp, hb, State.setKeeper]

variable (hb : s.keeper.mailbox.busy = false)

include hb

theorem doMbGo_starts : doMbGo ctrl s = s.setKeeper fun k => { k with mailbox := s.keeper.mailbox.started ctrl } := by
  unfold doMbGo Mailbox.started
  simp only [mbCtrl_reserved, mbCtrl_seq, Bool.not_eq_true']
  rw [if_neg (by simp [hp, bitOf, hgo]), if_neg (by simp [hb])]
  split
  · rfl
  split
  · rfl
  split
  · rfl
  · rfl

end Go

/-! ## Writes of MB_HEADER and MB_PARAM (R308) -/

theorem State.windowWrite_mailbox {o : Nat} (v : Nat) (h4 : o % 4 = 0) (hlt : o < 0x60) : s.windowWrite (0x3000 + o) 4 v = s.mbWrite o (toLe 4 (v % 2 ^ 32)) := by
  have haligned : ¬ ((!((4 : Nat) == 4 || (4 : Nat) == 8)) = true ∨ (0x3000 + o) % 4 ≠ 0) := by
    have hmod : (0x3000 + o) % 4 = 0 := by omega
    simp [hmod]
  have hbell : ¬ (0x2000 ≤ 0x3000 + o ∧ 0x3000 + o < 0x3000) := by omega
  have hevent : ¬ 0x3000 + o = 0x1028 := by omega
  have hbox : 0x3000 ≤ 0x3000 + o ∧ 0x3000 + o < 0x3060 := by omega
  unfold State.windowWrite
  rw [if_neg haligned, if_neg hbell, if_pos rfl, State.keeperWrite, if_neg hevent, if_pos hbox, Nat.add_sub_cancel_left]

/-! ## The I3C port (R360) -/

section I3c

variable {b : Bytes} {n : Nat}

theorem fieldN_two_lt (b : Bytes) (off : Nat) : fieldN b off 2 < 65536 := by
  have hlen : (sliceZ b off 2).length = 2 := by simp [sliceZ]
  obtain ⟨x, y, hxy⟩ := List.length_eq_two.1 hlen
  have hx := x.isLt
  have hy := y.isLt
  simp only [fieldN, hxy, leNat]
  omega

theorem fieldN_drop (b : Bytes) (k off n : Nat) : fieldN (b.drop k) off n = fieldN b (k + off) n := by simp [fieldN, sliceZ, List.drop_drop]

theorem doI3cPrivateWrite_off (h : s.power.input = false ∨ s.keeper.i3cAddr = none) : doI3cPrivateWrite b s = s := by
  refine if_pos ?_
  rcases h with h | h <;> simp [h]

theorem doI3cPrivateRead_off (h : s.power.input = false ∨ s.keeper.i3cAddr = none) : doI3cPrivateRead n s = s := by
  refine if_pos ?_
  rcases h with h | h <;> simp [h]

variable (hp : s.power.input = true) (ha : s.keeper.i3cAddr ≠ none)

include hp ha

theorem doI3cPrivateWrite_words {words : Nat} (hlen : 2 ≤ b.length) (hw : (b.length - 2) / 4 = words) : doI3cPrivateWrite b s =
    (State.i3cWords words s (fieldN b 0 2 / 4 * 4) (b.drop 2)).setKeeper fun k => { k with i3cOffset := (fieldN b 0 2 / 4 * 4 + 4 * words) % 0x10000 } := by
  have hshort : ¬ b.length < 2 := by omega
  subst hw
  simp [doI3cPrivateWrite, hp, ha, hshort]

theorem doI3cPrivateRead_idle (hb : s.keeper.mailbox.busy = false) : doI3cPrivateRead n s = s.setKeeper fun k => { k with
    i3cData := (List.range (n / 4 * 4)).map fun i => s.i3cByte ((k.i3cOffset + i) % 0x10000), i3cOffset := (k.i3cOffset + n / 4 * 4) % 0x10000 } := by
  simp [doI3cPrivateRead, hp, ha, hb, State.setKeeper]

end I3c

/-- With the mailbox not BUSY the port reads the always-on blocks, and zero elsewhere. -/
theorem State.i3cByte_idle (hb : s.keeper.mailbox.busy = false) (o : Nat) :
    s.i3cByte o = if o < 0x2000 ∨ (0x3000 ≤ o ∧ o < 0x4000) then s.windowByte o else 0 := by
  unfold State.i3cByte
  by_cases hlow : o < 0x2000
  · simp [hlow]
  · simp [hlow, hb]

/-! ## Deadbolt reads (R310, R343, R357) -/

/-- A deadbolt command that its row carries out and whose checks pass. -/
theorem mbRow_acts {op : Nat} {cs : Cmd → State → Checks} {act : Cmd → State → State → State} (h : s.mbBegins op = true)
    (hcs : ∀ x ∈ cs s.keeper.mailbox.cmd s, x.1 = false) :
    mbRow op (fun c s => s.mbChecked (cs c s) (act c s)) s = act s.keeper.mailbox.cmd s s := by
  rw [mbRow_begins _ _ h, State.mbChecked_pass _ _ hcs]

theorem beyond_only_passes {c : Cmd} {n : Nat} (hz : ∀ i, n ≤ i → c.params.getD i 0 = 0) : ∀ x ∈ [c.beyond n], x.1 = false := by
  simpa using Cmd.beyond_passes hz

theorem State.releaseDump_if (v : Nat) (hv : v = 0 ∨ v = 2) : (if bitOf v 1 = true then s.releaseDump else s) =
    if v = 2 then s.setKeeper fun k => { k with dump := { k.dump with locked := false } } else s := by
  rcases hv with rfl | rfl <;> rfl

/-- DUMP_READ without BULK, with good parameters. -/
theorem doDumpRead_small {c : Cmd} {d : Dump} (hc : s.keeper.mailbox.cmd = c) (hd : s.keeper.dump = d) (h : s.mbBegins 0x0F03 = true)
    (hz : ∀ n, 0x18 ≤ n → c.params.getD n 0 = 0) (hfence : s.h0Fenced = false) (hvalid : d.valid = true) (hbulk : d.bulk = none)
    (hflags : c.p 0xC 1 = 0 ∨ c.p 0xC 1 = 2) (hres : c.p 0xD 3 = 0) (hlen : c.p 8 4 ≤ 3840) (hrange : c.p 0 8 + c.p 8 4 ≤ d.length) :
    doDumpRead s = (if c.p 0xC 1 = 2 then s.setKeeper fun k => { k with dump := { k.dump with locked := false } } else s).mbReply stOk 0 0
      (if c.p 8 4 = 0 then s.keeper.mailbox.data else s.mem.read (dumpBase + c.p 0 8) (c.p 8 4)) := by
  subst hc hd
  have hsmall : bitOf (s.keeper.mailbox.cmd.p 0xC 1) 0 = false := by rcases hflags with h | h <;> rw [h] <;> rfl
  have hle : ¬ s.keeper.mailbox.cmd.p 0xC 1 > 3 := by omega
  unfold doDumpRead
  rw [mbRow_begins _ _ h, State.mbChecked_pass]
  · simp only [hsmall, Bool.false_and, Bool.false_eq_true, if_false, State.releaseDump_if _ hflags]
  · simp only [List.forall_mem_cons, hsmall, Bool.false_and, hfence, hvalid, hbulk, Cmd.reserved_pass hres, Cmd.beyond_passes hz]
    simp [hle, hlen, hrange]

/-- BULK_COPY_DONE of a copy whose writes have all been acknowledged. -/
theorem doBulkCopyDone_ends {off len host : Nat} {rel : Bool} (hb : s.keeper.dump.bulk = some (off, len, host, rel))
    (hf : (s.host.far.any fun x => x.use == .bulk) = false) :
    doBulkCopyDone s = s.setKeeper fun k => { k with dump := { k.dump with bulk := none, done := len, locked := k.dump.locked && !rel } } := by
  unfold doBulkCopyDone
  simp only [hb, hf]
  cases rel <;> simp [State.releaseDump, State.setKeeper]

theorem doBulkCopyDone_waits {x : Nat × Nat × Nat × Bool} (hb : s.keeper.dump.bulk = some x) (hf : (s.host.far.any fun x => x.use == .bulk) = true) :
    doBulkCopyDone s = s := by
  unfold doBulkCopyDone
  simp only [hb, hf, if_true]

/-- DUMP_COPY_FAIL of a copy under way. -/
theorem doDumpCopyFail_fails {off len host n cause : Nat} {rel : Bool} (hb : s.keeper.dump.bulk = some (off, len, host, rel)) (hn : n < len)
    (hcause : cause = 1 ∨ cause = 2) : doDumpCopyFail n cause s =
      (((s.setKeeper fun k => { k with dump := { k.dump with bulk := none, done := n } }).setHost fun h =>
        { h with far := h.far.filter fun x => !(x.use == .bulk) }).log 0x0109 2 { kind := 6, index := 0 } 0xFFFF n (host + n) cause) := by
  unfold doDumpCopyFail
  simp only [hb]
  exact if_neg (by simp; omega)

end Sys2Proof.Machine

open Sys2Proof Sys2Proof.Machine

/-- Settles O27: KP_EVENT reads its five bits, and both ways of clearing are the one write of R358. -/
theorem clearedEventsReleaseAlert : Obligations.ClearedEventsReleaseAlert := by
  intro s mask hevent
  have hclear : s.power.input = true → exec (.kpEventClear mask) s = .next (s.clearEvents mask.toNat) := fun hp => congrArg s.become (if_pos hp)
  refine ⟨?alert, fun hp => ⟨hclear hp, fun hall => ⟨_, hclear hp, ?released⟩⟩, fun hopen => ?write⟩
  case alert =>
    have hreg : s.keeperReg 0x1028 = s.keeper.event := Nat.mod_eq_of_lt hevent
    simp [hreg, State.alertLow]
  case released =>
    have hzero : s.keeper.event &&& (31 - mask.toNat % 32) = 0 := and_clear_eq_zero hall
    simp [State.alertLow, State.clearEvents, State.setKeeper, hzero]
  case write => exact congrArg s.become ((if_pos hopen).trans (State.windowWrite_event mask.toNat))

/-- Settles O28: the formula on numbers within the cap is the formula on 64-bit words; power-up restores the flash copy. -/
theorem patinaDecaysByThePoweredHour : Obligations.PatinaDecaysByThePoweredHour := by
  intro s hacc
  refine ⟨fun hp => ⟨_, congrArg s.become (if_neg (by simp [hp])), patina_decay_toNat hacc, Nat.sub_le _ _, rfl, rfl, rfl, rfl, rfl⟩,
    fun hp => s.become_of_eq (if_pos (by simp [hp])), fun hp => ⟨_, rfl, doPowerUp_restores hp⟩⟩

/-- Settles O29: MB_GO checks in the order of R309, and a write of the window reaches the mailbox only while BUSY is clear. -/
theorem mailboxTakesOneCommandAtATime : Obligations.MailboxTakesOneCommandAtATime := by
  intro s ctrl hp m c seq answered reserved bad
  have hbad : bad ↔ m.headerBad = true := m.headerBad_iff.symm
  have hdeadbolt : 0x0F01 ≤ c.opcode ∧ c.opcode ≤ 0x0F08 → ¬ isDeadbolt c.opcode = false := fun h => by simp [isDeadbolt_iff.2 h]
  refine ⟨fun h => s.become_of_eq (doMbGo_noGo h), fun hgo hb => congrArg s.become (doMbGo_busy hp hgo hb), fun hgo hb => ?go,
    congrArg s.become (if_pos hp), fun o v hopen h4 hlt => ?write⟩
  case go =>
    have hgoes : ∀ {m' : Mailbox}, m.started ctrl = m' → exec (.mbGo ctrl) s = .next (s.setKeeper fun k => { k with mailbox := m' }) := by
      rintro _ rfl
      exact congrArg s.become (doMbGo_starts hp hgo hb)
    refine ⟨fun hr => hgoes ?_, fun hr hop => hgoes ?_, fun hr hop hx => hgoes ?_, fun hr hop hx => hgoes ?_⟩
    · exact if_pos hr
    · exact (if_neg hr).trans (if_pos (Bool.eq_false_iff.2 (isDeadbolt_iff.not.2 hop)))
    · exact (if_neg hr).trans ((if_neg (hdeadbolt hop)).trans (if_pos (hbad.1 hx)))
    · exact (if_neg hr).trans ((if_neg (hdeadbolt hop)).trans (if_neg (hbad.not.1 hx)))
  case write => exact congrArg s.become ((if_pos hopen).trans (State.windowWrite_mailbox v.toNat h4 hlt))

/-- Settles O30: the rows of the four reads, each with its checks passed, and the two ends of a bulk copy. -/
theorem deadboltReadsAnswerFromTheKeeper : Obligations.DeadboltReadsAnswerFromTheKeeper := by
  intro s c d
  refine ⟨fun h hz => ?maquette, fun h hz => ?logRead, fun h hz hfence hvalid hbulk hflags hres hlen hrange => ?dumpRead,
    fun off len host rel hb => ⟨fun hf => congrArg s.become (doBulkCopyDone_ends hb hf), fun hf => s.become_of_eq (doBulkCopyDone_waits hb hf),
      fun n cause hn hcause => ⟨_, congrArg s.become (doDumpCopyFail_fails hb hn hcause), ?failed⟩⟩, fun hb => ?idle⟩
  case maquette => exact congrArg s.become (mbRow_acts (cs := fun c _ => [c.beyond 0]) h (beyond_only_passes fun i _ => hz i))
  case logRead =>
    have hold : s.keeper.oldest = (s.keeper.log.head?.map (·.seq)).getD (s.keeper.logSeq + 1) := by
      unfold Keeper.oldest
      cases s.keeper.log.head? <;> rfl
    rw [← hold]
    exact congrArg s.become (mbRow_acts (cs := fun c _ => [c.beyond 12]) h (beyond_only_passes hz))
  case dumpRead =>
    refine (congrArg s.become (doDumpRead_small rfl rfl h hz hfence hvalid hbulk hflags hres hlen hrange)).trans
      (congrArg Host.Outcome.next (s.keep_of_same ?_ ?_)) <;> split <;> rfl
  case failed => exact ⟨State.log_keeper_dump .., State.log_logSeq .., rfl, rfl, rfl, rfl⟩
  case idle =>
    have hdone : doBulkCopyDone s = s := by
      unfold doBulkCopyDone
      simp only [show s.keeper.dump.bulk = none from hb]
    have hfail : ∀ n cause, doDumpCopyFail n cause s = s := fun n cause => by
      unfold doDumpCopyFail
      simp only [show s.keeper.dump.bulk = none from hb]
    exact ⟨s.become_of_eq hdone, fun n cause => s.become_of_eq (hfail n cause)⟩

/-- Settles O32: a write is its offset with the whole words that follow, a read the bytes of the always-on blocks. -/
theorem i3cPortWorksInWholeWords : Obligations.I3cPortWorksInWholeWords := by
  intro s a b n
  refine ⟨fun hp => congrArg s.become (if_neg (by simp [hp])),
    fun h => ⟨s.become_of_eq (doI3cPrivateWrite_off h), s.become_of_eq (doI3cPrivateRead_off h)⟩, fun hp ha hlen => ?write, fun hp ha hb => ?read⟩
  case write =>
    intro o
    have ho : o < 0x10000 := by have := fieldN_two_lt b 0; omega
    refine ⟨fun h6 => ?none, fun h6 h10 => ?one⟩
    case none =>
      have hset : doI3cPrivateWrite b s = s.setKeeper fun k => { k with i3cOffset := o } := by
        rw [doI3cPrivateWrite_words hp ha hlen (words := 0) (by omega), show (fieldN b 0 2 / 4 * 4 + 4 * 0) % 0x10000 = o from Nat.mod_eq_of_lt ho]
        rfl
      exact congrArg s.become hset
    case one =>
      have hset : doI3cPrivateWrite b s = (s.keeperWrite o (fieldN b 2 4)).setKeeper fun k => { k with i3cOffset := (o + 4) % 0x10000 } := by
        rw [doI3cPrivateWrite_words hp ha hlen (words := 1) (by omega), State.i3cWords, if_pos ho, fieldN_drop]
        rfl
      exact congrArg s.become hset
  case read =>
    have hset := doI3cPrivateRead_idle (n := n) hp ha hb
    simp only [State.i3cByte_idle hb] at hset
    exact congrArg s.become hset

end

section
/-! SUPPORT. Resets as they begin, fail, drain and end (R345 to R350, R352, R421, R433), and the deadbolt commands that fence and
darken the part (R356). -/

namespace Sys2Proof.Machine

variable {s : State} {d : Domain}

/-! ## Port masks -/

theorem mem_portsOf {mask p : Nat} : p ∈ portsOf mask ↔ p < 16 ∧ mask.testBit p = true := by
  simp [portsOf, bitOf, Nat.testBit_eq_decide_div_mod_eq]

theorem mem_upPorts {p : Nat} : p ∈ s.upPorts ↔ p < 16 ∧ (s.port p).state = 2 := by simp [State.upPorts]

/-- The ports that PORT_GOODBYE names: every one for a mask of zero, and of these the ones that are UP. -/
theorem State.named_upPorts (mask : Nat) : (if mask = 0 then s.upPorts else (portsOf mask).filter fun p => s.upPorts.contains p) =
    (List.range 16).filter fun p => (s.port p).state == 2 && (mask == 0 || bitOf mask p) := by
  by_cases h : mask = 0
  · simp [h, State.upPorts]
  · rw [if_neg h, portsOf, List.filter_filter]
    refine List.filter_congr fun p hp => ?_
    have hlt := List.mem_range.1 hp
    by_cases hs : (s.port p).state = 2 <;> simp [h, hs, hlt, State.upPorts]

theorem State.port_quiet (h : ∀ x ∈ s.fabric.ports, x.link.tx = []) (p : Nat) : (s.port p).link.tx = [] := by
  unfold State.port
  rw [List.getD_eq_getElem?_getD]
  cases hp : s.fabric.ports[p]? with
  | none => rfl
  | some x => exact h x (List.mem_of_getElem? hp)

/-- Ports that go dark on a fabric with nothing under way, and Switrak's laser when asked. -/
theorem State.darken_quiet (h1 : s.fabric.txns = []) (h2 : ∀ x ∈ s.fabric.ports, x.link.tx = []) (ports : List Nat) (switrak : Bool) :
    (∀ p, if p ∈ ports then ((s.darken ports switrak).port p).state = 0 ∧ ((s.darken ports switrak).port p).laser = false
      else (s.darken ports switrak).port p = s.port p) ∧
    (s.darken ports switrak).keeper = { s.keeper with switrakLaser := s.keeper.switrakLaser && !switrak } := by
  have hports := State.darken_ports ports s h1 (State.port_quiet h2)
  have hkeeper := State.darken_keeper ports s h1 (State.port_quiet h2)
  unfold State.darken
  cases switrak
  · exact ⟨hports, hkeeper.trans (by simp)⟩
  · refine ⟨hports, ?_⟩
    rw [if_pos rfl]
    show ({ (List.foldl _ s ports).keeper with switrakLaser := false } : Keeper) = _
    rw [hkeeper]
    simp

/-! ## FENCE_ALL and POWER_OFF -/

/-- The last part of FENCE_ALL: the rings halted, the shadow frozen and every domain fenced. -/
def State.fenceUnits (s : State) : State :=
  let s := s.haltRings.freezeShadow
  let s := s.setKeeper fun k => { k with management := 1, switrak := 1 }
  let s := s.setFabric fun f => { f with ports := f.ports.map fun (x : Port) => { x with domain := 1 } }
  { s with cores := setCores s.cores (fun _ => true) 1, dies := s.dies.map fun (x : Die) => { x with domain := 1, gated := false } }

theorem State.fenceEvery_eq (s : State) : ∃ u : State, s.fenceEvery = u.fenceUnits := ⟨_, rfl⟩

/-- Every domain fenced and every ring halted. -/
theorem State.fenceEvery_fenced (s : State) : s.fenceEvery.keeper.management = 1 ∧ s.fenceEvery.keeper.switrak = 1 ∧ (∀ x ∈ s.fenceEvery.cores, x.domain = 1) ∧
    (∀ x ∈ s.fenceEvery.dies, x.domain = 1) ∧ (∀ x ∈ s.fenceEvery.fabric.ports, x.domain = 1) ∧ ∀ q ∈ s.fenceEvery.host.rings, q.state ≠ 1 := by
  obtain ⟨u, hu⟩ := s.fenceEvery_eq
  rw [hu]
  refine ⟨rfl, rfl, setCores_all _ _, fun x hx => ?_, fun x hx => ?_, fun q hq => ?_⟩
  · obtain ⟨y, -, rfl⟩ := List.mem_map.1 hx
    rfl
  · obtain ⟨y, -, rfl⟩ := List.mem_map.1 hx
    rfl
  · obtain ⟨y, -, rfl⟩ := List.mem_map.1 hq
    split
    · exact (by decide : (2 : Nat) ≠ 1)
    · assumption

/-- The fence in force once everything is fenced: its entry, and its dump. -/
def State.inForce (s : State) (n jobs : Nat) : State :=
  ((s.setKeeper fun k => { k with fenceAll := true }).log 0x0403 5 devDomain 0xFFFF n jobs 0).capture 7 devDomain

theorem State.inForce_frame (s : State) (n jobs : Nat) : let t := s.inForce n jobs
    t.keeper.fenceAll = true ∧ t.keeper.management = s.keeper.management ∧ t.keeper.switrak = s.keeper.switrak ∧ t.cores = s.cores ∧ t.dies = s.dies ∧
      t.fabric = s.fabric ∧ t.host = s.host := by
  obtain ⟨hc, hd, hf, hh, -⟩ := State.capture_frame ((s.setKeeper fun k => { k with fenceAll := true }).log 0x0403 5 devDomain 0xFFFF n jobs 0) devDomain 7
  refine ⟨?_, ?_, ?_, hc, hd, hf, hh⟩ <;> simp [State.inForce]

/-- The last part of POWER_OFF: every domain without power, no reset under way, no request to the adapter outstanding. -/
def State.cutPower (s : State) : State :=
  (((s.setDomain devDomain 4).setKeeper fun k => { k with off := true, tripped := false, resets := [] }).setFw fun f =>
    { f with awaiting := false }).setHost fun h => { h with far := [] }

theorem State.powerOff_eq (s : State) : ∃ u : State, s.powerOff = u.cutPower := ⟨_, rfl⟩

/-! ## DEVICE_RESET -/

theorem State.resetRefused_none {kind : Nat} (hoff : s.keeper.off = false) (hdev : s.keeper.device = 0) (htrip : s.keeper.tripped = false)
    (hres : s.keeper.resets = []) (hlow : s.power.resetLow = false) : s.resetRefused kind devDomain = none := by
  have hstate : s.domainState devDomain = 0 := hdev
  simp [State.resetRefused, State.deviceInReset, hoff, htrip, hres, hlow, hstate]

/-! ## The beginning of a reset -/

theorem State.setDomain_event (v : Nat) : (s.setDomain d v).keeper.event = s.keeper.event := by
  unfold State.setDomain
  split <;> rfl

theorem State.setDomain_resets (v : Nat) : (s.setDomain d v).keeper.resets = s.keeper.resets := by
  unfold State.setDomain
  split <;> rfl

theorem State.setDomain_power (v : Nat) : (s.setDomain d v).power = s.power := by
  unfold State.setDomain
  split <;> rfl

theorem State.base_wakeDomain (d : Domain) : (s.wakeDomain d).base = s.base := by
  have hfold := State.base_foldl s (fun s n => if d.kind = 0 ∨ (d.kind = 2 ∧ n = d.index) ∨ (d.kind = 1 ∧ n = dieOf d.index) then s.wakeDie n else s)
    (fun s n => by split; exacts [State.base_wakeDie s n, rfl]) (List.range 4)
  refine Eq.trans ?_ hfold
  unfold State.wakeDomain State.base
  simp only
  rw [map_mapIdx_same Core.fixed]
  intro i x
  split <;> rfl

theorem State.base_lengths {u : State} (h : u.base = s.base) : u.dies.length = s.dies.length ∧ u.cores.length = s.cores.length ∧
    u.power.resetLow = s.power.resetLow := by
  have hd := congrArg (fun x : State => x.dies.length) h
  have hc := congrArg (fun x : State => x.cores.length) h
  have hp := congrArg (fun x : State => x.power.resetLow) h
  simp only [State.base, List.length_map] at hd hc hp
  exact ⟨hd, hc, hp⟩

/-- A reset that begins keeps the events that are set, the thermal registers and RESET_N, and stands among the resets at step 1. -/
theorem State.beginReset_keeper (src : Nat) (nd : Bool) :
    (∀ i, s.keeper.event.testBit i = true → (s.beginReset d src nd).keeper.event.testBit i = true) ∧
    (s.beginReset d src nd).power.resetLow = s.power.resetLow ∧
    ∃ y ∈ (s.beginReset d src nd).keeper.resets, y.domain = d ∧ y.source = src ∧ y.stage = 1 := by
  have hbase := State.base_wakeDomain (s := s.log 0x0401 (resetClass d src) d 0xFFFF src 0 0) d
  have hlow := (State.base_lengths hbase).2.2
  have hkeeper := (State.base_congr hbase).1
  have hevent := State.log_event s 0x0401 (resetClass d src) d 0xFFFF src 0 0
  unfold State.beginReset
  dsimp only
  generalize (s.log 0x0401 (resetClass d src) d 0xFFFF src 0 0).wakeDomain d = u at hbase hlow hkeeper
  rw [← hkeeper] at hevent
  refine ⟨fun i hi => ?_, ?_, ?_⟩
  · split_ifs <;> exact (congrArg (Nat.testBit · i) (State.setDomain_event 1)).trans (hevent i hi)
  · split_ifs <;> exact (congrArg Power.resetLow (State.setDomain_power 1)).trans hlow
  · refine ⟨{ domain := d, source := src, cls := resetClass d src, noDump := nd, stage := 1, jobs := u.resetJobs d }, ?_, rfl, rfl, rfl⟩
    split_ifs <;> exact (State.setDomain_resets 1).symm ▸ List.mem_append_right _ (List.mem_singleton_self _)

/-! ## Failed resets (R348 to R350) -/

/-- A reset of a die fences the die and its cores. -/
theorem State.beginReset_die {n : Nat} (src : Nat) (nd : Bool) :
    (n < s.dies.length → ((s.beginReset (dieDomain n) src nd).die n).domain = 1) ∧
    ∀ c, c < s.cores.length → dieOf c = n → ((s.beginReset (dieDomain n) src nd).core c).domain = 1 := by
  obtain ⟨hdies, hcores, -⟩ := State.base_lengths (State.base_wakeDomain (s := s.log 0x0401 (resetClass (dieDomain n) src) (dieDomain n) 0xFFFF src 0 0) (dieDomain n))
  unfold State.beginReset
  dsimp only
  generalize (s.log 0x0401 (resetClass (dieDomain n) src) (dieDomain n) 0xFFFF src 0 0).wakeDomain (dieDomain n) = u at hdies hcores
  rw [if_neg (by simp [dieDomain]), if_neg (by simp [dieDomain])]
  refine ⟨fun hn => ?_, fun c hc hdie => ?_⟩
  · show ((List.modify u.dies n _).getD n {}).domain = 1
    rw [List.getD_eq_getElem?_getD, List.getElem?_modify_eq, List.getElem?_eq_getElem (by rw [hdies]; exact hn)]
    rfl
  · show ((setCores u.cores _ 1).getD c {}).domain = 1
    have hlt : c < u.cores.length := by rw [hcores]; exact hc
    have hmem : dieOf c = (dieDomain n).index := hdie
    simp [setCores, hlt, hmem]

/-- A domain whose reset has failed, its reset given up (R348). -/
def State.escalated (s : State) (d : Domain) (step : Nat) : State :=
  ((s.log 0x0501 6 d 0xFFFF d.kind d.index step).setDomain d 3).setKeeper fun k =>
    { k.raise 2 with resets := k.resets.filter fun x => !(x.domain == d) }

theorem Keeper.raise_event (k : Keeper) (i : Nat) : (k.raise i).event.testBit i = true := by
  simp [Keeper.raise, Nat.testBit_or]

theorem State.escalated_event (step : Nat) : (s.escalated d step).keeper.event.testBit 2 = true := Keeper.raise_event _ 2

theorem State.escalated_units {step : Nat} (h : d.kind = 1) :
    (s.escalated d step).dies.length = s.dies.length ∧ (s.escalated d step).cores.length = s.cores.length := by
  obtain ⟨kind, index⟩ := d
  subst h
  exact ⟨rfl, List.length_modify ..⟩

section Escalate

variable {x : Reset} {step : Nat} (hx : s.resetOf d = some x)

include hx

theorem doEscalate_core (h : d.kind = 1) : doEscalate d step s = (s.escalated d step).beginReset (dieDomain (dieOf d.index)) 4 false := by
  have h0 : d.kind ≠ 0 := by omega
  have hnext : onFailure d = dieDomain (dieOf d.index) := if_pos h
  unfold doEscalate
  simp only [hx, h0, hnext, if_false]
  rw [if_neg (show (dieDomain (dieOf d.index)).kind ≠ 0 from by simp [dieDomain])]
  rfl

theorem doEscalate_device (h : 2 ≤ d.kind) : doEscalate d step s = ((s.escalated d step).sayGoodbye (List.range 16)).beginReset devDomain 4 false := by
  have h0 : d.kind ≠ 0 := by omega
  have h1 : d.kind ≠ 1 := by omega
  have hnext : onFailure d = devDomain := if_neg h1
  unfold doEscalate
  simp only [hx, h0, hnext, if_false]
  rw [if_pos (show devDomain.kind = 0 from rfl)]
  rfl

end Escalate

/-! ## The held state and the thermal trip -/

theorem doDeviceHeld_none {step : Nat} (h : s.resetOf devDomain = none) : doDeviceHeld step s = s := by
  unfold doDeviceHeld
  rw [h]

/-- A part without power in its domains, held (R349). -/
def State.heldState (s : State) : State :=
  ((s.setDomain devDomain 4).setKeeper fun k => { k.raise 2 with device := 3, held := true, resets := [] }).setFw fun f => { f with awaiting := false }

theorem doDeviceHeld_holds {x : Reset} {step : Nat} (h : s.resetOf devDomain = some x) (hstage : x.stage ≠ 3) (hlow : s.power.resetLow = false) :
    doDeviceHeld step s = ((s.log 0x0501 6 devDomain 0xFFFF 0 0 step).darken (List.range 16) true).heldState := by
  unfold doDeviceHeld
  rw [h]
  exact if_neg (by simp [hstage, hlow])

/-- A die over its trip point: every die without power, the trip logged and its dump captured. -/
def State.tripped (s : State) (die deci : Nat) : State :=
  let s := { s with dies := s.dies.mapIdx fun i (x : Die) => { x with domain := 4, deci := if i = die then deci else x.deci } }
  let s := s.setKeeper fun k => { k with therm := true }
  (((s.log 0x0502 6 (dieDomain die) 0xFFFF deci 0 0).setKeeper fun k => k.raise 1).capture 5 (dieDomain die)).setKeeper fun k => { k with tripped := true }

theorem State.tripped_fields (die deci : Nat) : let t := s.tripped die deci
    t.keeper.tripped = true ∧ t.keeper.therm = true ∧ t.keeper.resets = s.keeper.resets ∧ t.keeper.event.testBit 1 = true ∧ ∀ y ∈ t.dies, y.domain = 4 := by
  refine ⟨rfl, ?_, ?_, ?_, ?_⟩
  · show (State.capture _ 5 (dieDomain die)).keeper.therm = true
    rw [State.capture_keeper_therm]
    exact State.log_keeper_therm ..
  · show (State.capture _ 5 (dieDomain die)).keeper.resets = _
    rw [State.capture_keeper_resets]
    exact State.log_keeper_resets ..
  · exact State.capture_event _ _ 5 1 (Keeper.raise_event _ 1)
  · intro y hy
    have hdies : (s.tripped die deci).dies = s.dies.mapIdx fun i (x : Die) => { x with domain := 4, deci := if i = die then deci else x.deci } :=
      (State.capture_frame ..).2.1
    rw [hdies, List.mem_mapIdx] at hy
    obtain ⟨i, hi, rfl⟩ := hy
    rfl

theorem doThermalTrip_trips {die deci : Nat} (halive : s.alive = true) (hdie : die < 4) (hdeci : 1050 ≤ deci) :
    doThermalTrip die deci s = if (s.tripped die deci).deviceInReset = true then s.tripped die deci else (s.tripped die deci).beginReset devDomain 5 true :=
  if_neg (by simp [halive]; omega)

/-- A device reset that begins after a thermal trip leaves the dies without power and the thermal registers as they are. -/
theorem State.beginReset_tripped (h : s.keeper.tripped = true) (src : Nat) (nd : Bool) : (s.beginReset devDomain src nd).keeper.tripped = true ∧
    (s.beginReset devDomain src nd).keeper.therm = s.keeper.therm ∧ ∀ y ∈ (s.beginReset devDomain src nd).dies, y.domain = 4 := by
  have hkeeper := (State.wakeDomain_frame (s.log 0x0401 (resetClass devDomain src) devDomain 0xFFFF src 0 0) devDomain).1
  have htrip := State.log_keeper_tripped s 0x0401 (resetClass devDomain src) devDomain 0xFFFF src 0 0
  have htherm := State.log_keeper_therm s 0x0401 (resetClass devDomain src) devDomain 0xFFFF src 0 0
  unfold State.beginReset
  dsimp only
  generalize (s.log 0x0401 (resetClass devDomain src) devDomain 0xFFFF src 0 0).wakeDomain devDomain = u at hkeeper
  rw [← hkeeper] at htrip htherm
  rw [if_pos (show devDomain.kind = 0 ∨ devDomain.kind = 5 from Or.inl rfl), if_pos (show devDomain.kind = 0 ∨ devDomain.kind = 4 ∨ devDomain.kind = 5 from Or.inl rfl)]
  refine ⟨htrip.trans h, htherm, fun y hy => ?_⟩
  obtain ⟨z, -, rfl⟩ := List.mem_map.1 hy
  exact if_pos (htrip.trans h)

end Sys2Proof.Machine

open Sys2Proof Sys2Proof.Machine

/-- Settles O31: a row whose checks pass does what R356 says, and its reply is the last thing written. -/
theorem deadboltActionsFenceResetAndDarken : Obligations.DeadboltActionsFenceResetAndDarken := by
  intro s c answered
  refine ⟨fun h hz hp => ?lasersOff, fun h hz hreset => ?goodbye, fun h hz hoff => ?fenceAll,
    fun h hz hkind hdump hoff hdev htrip hres hlow => ?deviceReset, fun h hz => ?powerOff⟩
  case lasersOff =>
    intro mask
    have hdo : doLasersOff s = ((s.darken (portsOf mask) (bitOf mask 16)).setKeeper fun k => { k with lasersOff := k.lasersOff ||| mask }).mbReply stOk 0 0
        s.keeper.mailbox.data := (mbRow_begins _ _ h).trans (State.mbChecked_pass _ _ (by simpa using ⟨hp, Cmd.beyond_passes hz⟩))
    refine ⟨⟨_, congrArg s.become hdo, rfl, rfl⟩, fun htx hlink => ⟨_, congrArg s.become hdo, ?_⟩⟩
    obtain ⟨hports, hkeeper⟩ := State.darken_quiet htx hlink (portsOf mask) (bitOf mask 16)
    have hswitrak : decide (c.p 0 4 < 65536) = !bitOf mask 16 := by
      show _ = !bitOf (if c.p 0 4 = 0 then 0xFFFF else c.p 0 4) 16
      split
      · next h0 => simp [h0, bitOf]
      · rw [bitOf, Bool.eq_iff_iff]
        simp
        omega
    refine ⟨⟨rfl, rfl, ?_⟩, ?_, ?_, fun p hp => ?_⟩
    · show replyBytes (s.darken (portsOf mask) (bitOf mask 16)).keeper.mailbox.header 0xFFFF (s.darken (portsOf mask) (bitOf mask 16)).keeper.mailbox.seq 0 0 0 = _
      rw [hkeeper]
    · show (s.darken (portsOf mask) (bitOf mask 16)).keeper.lasersOff ||| mask = _
      rw [hkeeper]
    · show (s.darken (portsOf mask) (bitOf mask 16)).keeper.switrakLaser = _
      rw [hkeeper, hswitrak]
    · have hport := hports p
      simp only [mem_portsOf, hp, true_and] at hport
      exact hport
  case goodbye =>
    have hdo : doPortGoodbye s = (s.sayGoodbye (if c.p 0 2 = 0 then s.upPorts else (portsOf (c.p 0 2)).filter fun p => s.upPorts.contains p)).mbReply stOk
        (maskOf (if c.p 0 2 = 0 then s.upPorts else (portsOf (c.p 0 2)).filter fun p => s.upPorts.contains p)) 0 s.keeper.mailbox.data :=
      (mbRow_begins _ _ h).trans (State.mbChecked_pass _ _ (by simpa using ⟨hreset, Cmd.beyond_passes hz⟩))
    rw [State.named_upPorts] at hdo
    refine ⟨_, congrArg s.become hdo, rfl, rfl, rfl, ?_⟩
    show replyBytes (s.sayGoodbye _).keeper.mailbox.header 0xFFFF (s.sayGoodbye _).keeper.mailbox.seq 0 _ 0 = _
    rw [(s.sayGoodbye_frame _).2]
  case fenceAll =>
    obtain ⟨data, hdo⟩ : ∃ data, doFenceAll s = (s.fenceEvery.inForce s.outstanding s.fenceJobs.length).mbReply stOk 0 0 data :=
      ⟨_, ((mbRow_begins _ _ h).trans (State.mbChecked_pass _ _ (beyond_only_passes fun i _ => hz i))).trans (if_neg (by simp [hoff]))⟩
    obtain ⟨hmanagement, hswitrak, hcores, hdies, hports, hrings⟩ := s.fenceEvery_fenced
    obtain ⟨hforce, hm, hw, hc, hd, hf, hh⟩ := s.fenceEvery.inForce_frame s.outstanding s.fenceJobs.length
    rw [← hm] at hmanagement
    rw [← hw] at hswitrak
    rw [← hc] at hcores
    rw [← hd] at hdies
    rw [← hf] at hports
    rw [← hh] at hrings
    generalize s.fenceEvery.inForce s.outstanding s.fenceJobs.length = u at *
    exact ⟨_, congrArg s.become hdo, hforce, hmanagement, hswitrak, hcores, hdies, hports, hrings, rfl, rfl⟩
  case deviceReset =>
    have hdomain : resetDomain (c.p 0 1) (c.p 2 2) = devDomain := by simp [resetDomain, hkind, devDomain]
    have hdo : doDeviceReset s = (s.startReset devDomain (bitOf (c.p 1 1) 0)).mbReply stOk 0 0 s.keeper.mailbox.data := by
      refine ((mbRow_begins _ _ h).trans (State.mbChecked_pass _ _ ?_)).trans (by rw [hdomain])
      rw [hdomain]
      have hkind : s.keeper.mailbox.cmd.p 0 1 = 0 := hkind
      have hbeyond : (s.keeper.mailbox.cmd.beyond 4).1 = false := Cmd.beyond_passes hz
      simpa [State.indexBad, hkind, hbeyond, State.resetRefused_none hoff hdev htrip hres hlow] using hdump
    have hstart : s.startReset devDomain (bitOf (c.p 1 1) 0) = (s.setKeeper fun k => { k with tripped := false, therm := false }).beginReset devDomain 2 (bitOf (c.p 1 1) 0) := by
      unfold State.startReset
      rw [if_neg (by simp [hoff])]
      rfl
    obtain ⟨hdevice, ⟨x, hresets, hdom, hsource, hstage, hnoDump⟩, hrings, hmem⟩ :=
      State.beginReset_device (s.setKeeper fun k => { k with tripped := false, therm := false }) 2 (bitOf (c.p 1 1) 0)
    have hresets' : (s.startReset devDomain (bitOf (c.p 1 1) 0)).keeper.resets = [x] := by
      rw [hstart, hresets]
      simp [hres]
    have hflag : bitOf (c.p 1 1) 0 = (c.p 1 1 == 1) := by
      rw [Bool.eq_iff_iff]
      simp [bitOf]
      omega
    rw [← hstart] at hdevice hrings hmem
    exact ⟨_, congrArg s.become hdo, hdevice, ⟨x, hresets', hdom, hsource, hstage, hnoDump.trans hflag⟩, hrings, hmem, rfl, rfl⟩
  case powerOff =>
    have hdo : doPowerOff s = s.powerOff.mbReply stOk 0 0 s.keeper.mailbox.data :=
      (mbRow_begins _ _ h).trans (State.mbChecked_pass _ _ (beyond_only_passes fun i _ => hz i))
    obtain ⟨u, hu⟩ := s.powerOff_eq
    rw [hu] at hdo
    obtain ⟨hcores, hdies, hdevice, hmanagement, hswitrak⟩ := State.setDomain_off u
    exact ⟨_, congrArg s.become hdo, rfl, hdevice, hmanagement, hswitrak, hdies, hcores, rfl, rfl, rfl⟩

/-- Settles O35: ESCALATE begins the next domain's reset, the held state takes the power away, a thermal trip gates the dies and resets the device. -/
theorem failuresEscalateAndTheThermalTripGates : Obligations.FailuresEscalateAndTheThermalTripGates := by
  intro s d step die deci
  refine ⟨fun h => s.become_of_eq ?stays, fun x hx h1 hdie => ⟨_, congrArg s.become (doEscalate_core hx h1), ?core⟩,
    fun x hx h2 => ⟨_, congrArg s.become (doEscalate_device hx h2), ?device⟩, fun h => s.become_of_eq (doDeviceHeld_none h),
    fun x hx hstage hlow => ⟨_, congrArg s.become (doDeviceHeld_holds hx hstage hlow), ?held⟩, fun h => s.become_of_eq (if_pos ?cool),
    fun halive hdie hdeci => ?trip⟩
  case stays =>
    unfold doEscalate
    rcases h with h | h
    · cases s.resetOf d <;> simp [h]
    · simp [h]
  case core =>
    obtain ⟨hdies, hcores⟩ := State.escalated_units (s := s) (step := step) h1
    obtain ⟨hdie', hcores'⟩ := State.beginReset_die (s := s.escalated d step) (n := dieOf d.index) 4 false
    obtain ⟨hevent, -, hreset⟩ := State.beginReset_keeper (s := s.escalated d step) (d := dieDomain (dieOf d.index)) 4 false
    exact ⟨hdie' (by rw [hdies]; exact hdie), fun c hc => hcores' c (by rw [hcores]; exact hc), hevent 2 (State.escalated_event step), hreset⟩
  case device =>
    have hkeeper := (State.sayGoodbye_frame (s.escalated d step) (List.range 16)).2
    have hbit : ((s.escalated d step).sayGoodbye (List.range 16)).keeper.event.testBit 2 = true := by
      rw [hkeeper]
      exact State.escalated_event step
    generalize (s.escalated d step).sayGoodbye (List.range 16) = u at hbit
    obtain ⟨hdev, -, hrings, -⟩ := State.beginReset_device u 4 false
    obtain ⟨hevent, -, hreset⟩ := State.beginReset_keeper (s := u) (d := devDomain) 4 false
    exact ⟨hdev, hevent 2 hbit, hreset, hrings⟩
  case held =>
    generalize (s.log 0x0501 6 devDomain 0xFFFF 0 0 step).darken (List.range 16) true = u
    exact ⟨rfl, rfl, rfl, Keeper.raise_event _ 2, (State.setDomain_off u).2.1⟩
  case cool => rcases h with h | h | h <;> simp [h]
  case trip =>
    obtain ⟨htrip, htherm, hresets, hevent, hdies⟩ := State.tripped_fields (s := s) die deci
    have hreset : (s.tripped die deci).deviceInReset = s.deviceInReset := by rw [State.deviceInReset, State.deviceInReset, hresets]
    refine ⟨_, congrArg s.become (doThermalTrip_trips halive hdie hdeci), ?_⟩
    rw [hreset]
    generalize s.tripped die deci = u at *
    cases hin : s.deviceInReset
    · obtain ⟨hdev, -⟩ := State.beginReset_device u 5 true
      obtain ⟨htrip', htherm', hdies'⟩ := State.beginReset_tripped htrip 5 true
      obtain ⟨hevent', -⟩ := State.beginReset_keeper (s := u) (d := devDomain) 5 true
      exact ⟨htrip', htherm'.trans htherm, hdies', hevent' 1 hevent, fun _ => hdev⟩
    · exact ⟨htrip, htherm, hdies, hevent, fun h => absurd h (by simp)⟩

end

section
/-! SUPPORT. The pins, the power and the keeper's own entries (R338 to R344, R352, R356, R419, R423), and resets as they drain and end
(R346, R347, R421, R433). -/

namespace Sys2Proof.Machine

variable {s : State} {d : Domain}

/-! ## The pins -/

theorem State.sayGoodbye_power (s : State) (ports : List Nat) : (s.sayGoodbye ports).power = s.power := by
  unfold State.sayGoodbye
  show (List.foldl (fun (s : State) p => s.controlPort p 2 0 []) s _).power = s.power
  exact List.foldlRecOn (motive := fun (u : State) => u.power = s.power) _ _ rfl fun u hu p _ => hu

/-- Each port named that is UP has two repeats of GOODBYE to send. -/
theorem State.mem_goodbyes {ports : List Nat} {p : Nat} (hp : p ∈ ports) (hup : (s.port p).state = 2) : (p, 2) ∈ (s.sayGoodbye ports).fabric.goodbyes :=
  List.mem_append_right _ (List.mem_map.2 ⟨p, List.mem_filter.2 ⟨hp, by simp [hup]⟩, rfl⟩)

theorem doEvtIn0Fall_says (hpin : s.power.evt0Low = false) (hp : s.power.input = true) (hr : s.deviceInReset = false) (hup : s.upPorts ≠ []) :
    doEvtIn0Fall s = (s.setPower fun p => { p with evt0Low := true }).sayGoodbye s.upPorts := by
  have hempty : s.upPorts.isEmpty = false := by simpa using hup
  unfold doEvtIn0Fall
  rw [if_neg (by simp [hpin])]
  exact if_neg (by simp [State.setPower, State.deviceInReset, State.upPorts, State.port] at *; simp_all)

/-- The interlock's entries change the keeper's log alone. -/
theorem State.interlockLog_frame (s : State) : s.interlockLog.fabric = s.fabric ∧ s.interlockLog.keeper.lasersOff = s.keeper.lasersOff := by
  have hfold : ∀ l : List Nat, let u := l.foldl (fun (s : State) p => s.log 0x0107 2 (portDomain p) 0xFFFF 0 0 0) s
      u.fabric = s.fabric ∧ u.keeper.lasersOff = s.keeper.lasersOff := fun l =>
    List.foldlRecOn (motive := fun (u : State) => u.fabric = s.fabric ∧ u.keeper.lasersOff = s.keeper.lasersOff) l _ ⟨rfl, rfl⟩
      fun u hu p _ => ⟨hu.1, (State.log_keeper_lasersOff ..).trans hu.2⟩
  unfold State.interlockLog
  dsimp only
  split
  · exact ⟨(hfold _).1, (State.log_keeper_lasersOff ..).trans (hfold _).2⟩
  · exact hfold _

theorem doEvtIn1Fall_darkens (hp : s.power.input = true) : doEvtIn1Fall s =
    ((s.setPower fun p => { p with evt1Low := true }).interlockLog.darken (List.range 16) true).setKeeper fun k => { k with lasersOff := k.lasersOff ||| 0x1FFFF } := by
  unfold doEvtIn1Fall
  exact if_neg (by simp [State.setPower, hp])

/-! ## Power -/

theorem State.job_replicate {n : Nat} (h : s.jobs = List.replicate n {}) (j : Nat) : s.job j = {} := by
  unfold State.job
  rw [h, List.getD_eq_getElem?_getD, List.getElem?_replicate]
  split <;> rfl

/-! ## The keeper's own entries -/

theorem doLogMirrorComplete_stores {es : List LogEntry} (hp : s.power.input = true) (hes : s.keeper.mirroring = some es) :
    doLogMirrorComplete s = (s.setKeeper fun k => k.mirrored es).flashCopy := by
  unfold doLogMirrorComplete
  simp only [hes, hp, if_true]

theorem doNerurStall_logs {age : Nat} (hp : s.power.input = true) (hage : 1000000 < age) (hs : s.keeper.stallLogged = false) :
    doNerurStall age s = (s.log 0x0105 2 { kind := 5, index := 0 } 0xFFFF (sat32 age) 0 0).setKeeper fun k =>
      { k.raise 4 with shadowAge := max k.shadowAge (sat32 age), stallLogged := true } :=
  if_neg (by simp [hp, hs, hage])

/-- A domain with its counts reported (R342). -/
def Corrected.reported (d : Domain) (time : Nat) (x : Corrected) : Corrected :=
  if x.domain = d then { x with words := 0, retries := 0, retrains := 0, last := some time } else x

theorem Corrected.reported_zero {time : Nat} {x : Corrected} (h : (x.reported d time).domain = d) :
    (x.reported d time).words = 0 ∧ (x.reported d time).retries = 0 ∧ (x.reported d time).retrains = 0 ∧ (x.reported d time).last = some time := by
  unfold Corrected.reported at *
  split at h
  · next hd => simp [hd]
  · next hd => exact absurd h hd

theorem doCorrectedSummary_logs {c : Corrected} (h : (s.keeper.corrected.find? fun c => c.domain == d && c.due s.keeper.time) = some c) :
    doCorrectedSummary d s = (s.log 0x0001 1 d 0xFFFF c.words c.retries c.retrains).setKeeper fun k => { k with
      corrected := k.corrected.map (Corrected.reported d k.time) } := by
  unfold doCorrectedSummary
  rw [h]
  rfl

end Sys2Proof.Machine
open Sys2Proof Sys2Proof.Machine

/-- Settles O33: each pin, the power's loss and each of the keeper's own entries by the one case of its command that acts. -/
theorem pinsPowerAndKeeperEntries : Obligations.PinsPowerAndKeeperEntries := by
  intro s
  refine ⟨rfl, rfl, fun hpin hp hr hup => ⟨_, congrArg s.become (doEvtIn0Fall_says hpin hp hr hup), ?evt0⟩, ⟨_, rfl, rfl⟩,
    fun hp htx hlink => ⟨_, congrArg s.become (doEvtIn1Fall_darkens hp), ?evt1⟩, fun hp => ⟨_, congrArg s.become (if_pos hp), ?dark⟩,
    fun v h1 h2 => ?beyond, fun v h => ?within, fun hp => congrArg s.become (if_pos hp),
    fun es hp hes hnext hlen => ⟨_, congrArg s.become (doLogMirrorComplete_stores hp hes), ?mirror⟩,
    fun age hp hage hs => ⟨_, congrArg s.become (doNerurStall_logs hp hage hs), ?stall⟩,
    fun d c hc => ⟨_, congrArg s.become (doCorrectedSummary_logs hc), ?summary⟩⟩
  case evt0 =>
    obtain ⟨hleaving, hkeeper⟩ := State.sayGoodbye_frame (s.setPower fun p => { p with evt0Low := true }) s.upPorts
    exact ⟨hleaving, congrArg Power.evt0Low (State.sayGoodbye_power ..), fun p hp => State.mem_goodbyes hp (mem_upPorts.1 hp).2, hkeeper⟩
  case evt1 =>
    obtain ⟨hfabric, hmask⟩ := (s.setPower fun p => { p with evt1Low := true }).interlockLog_frame
    generalize (s.setPower fun p => { p with evt1Low := true }).interlockLog = u at hfabric hmask
    obtain ⟨hports, hkeeper⟩ := State.darken_quiet (s := u) (by rw [hfabric]; exact htx) (by rw [hfabric]; exact hlink) (List.range 16) true
    generalize u.darken (List.range 16) true = w at hports hkeeper
    refine ⟨fun p hp => ?_, ?_, ?_⟩
    · have hport := hports p
      rw [if_pos (List.mem_range.2 hp)] at hport
      exact hport
    · show w.keeper.switrakLaser = false
      rw [hkeeper]
      exact Bool.and_false _
    · show w.keeper.lasersOff ||| 0x1FFFF = _
      rw [hkeeper]
      exact congrArg (· ||| 0x1FFFF) hmask
  case dark => exact ⟨rfl, rfl, rfl, rfl, rfl, rfl, rfl, rfl, rfl, rfl, rfl, fun j => congrArg Job.state (State.job_replicate rfl j)⟩
  case beyond => exact (if_neg (by omega)).trans (congrArg s.become (if_pos h1))
  case within => exact (if_neg (by omega)).trans (s.become_of_eq (if_neg (by omega)))
  case mirror =>
    have hmod : s.keeper.mirrorNext % 8 = s.keeper.mirrorNext := Nat.mod_eq_of_lt hnext
    refine ⟨?_, fun i hi => ?_, rfl, rfl, rfl⟩
    · show (s.keeper.mirrors.set (s.keeper.mirrorNext % 8) es).getD s.keeper.mirrorNext [] = es
      rw [hmod, List.getD_eq_getElem?_getD, List.getElem?_set_self (by omega)]
      rfl
    · show (s.keeper.mirrors.set (s.keeper.mirrorNext % 8) es).getD i [] = _
      rw [hmod, List.getD_eq_getElem?_getD, List.getElem?_set_ne (Ne.symm hi)]
      rfl
  case stall => exact ⟨State.log_logSeq .., Keeper.raise_event _ 4, rfl, rfl, State.become_of_eq _ (if_pos (by simp [State.setKeeper]))⟩
  case summary =>
    refine ⟨State.log_logSeq .., fun x hx hd => ?_, rfl, rfl⟩
    obtain ⟨y, -, rfl⟩ := List.mem_map.1 hx
    rw [← State.log_keeper_time s 0x0001 1 d 0xFFFF c.words c.retries c.retrains]
    exact Corrected.reported_zero hd

end

section
/-! SUPPORT. Steps 3 to 6 of a reset (R346, R347, R352) and the RESET_N pin (R350, R421, R433). -/

namespace Sys2Proof.Machine

variable {s : State} {d : Domain}

theorem State.resetOf_domain {x : Reset} (h : s.resetOf d = some x) : x.domain = d := by simpa using List.find?_some h

/-! ## Nerur loaded again -/

/-- Loading Nerur changes firmware and, on the way into the recovery state, the keeper, whose device and management stay in reset. -/
theorem State.reload_frame (u : State) (source : Nat) : (u.reload source).jobs = u.jobs ∧ (u.reload source).fabric = u.fabric ∧
    (u.reload source).host = u.host ∧ (u.reload source).mem = u.mem ∧ (u.keeper.device = 2 → (u.reload source).keeper.device = 2) ∧
    (u.keeper.management = 2 → (u.reload source).keeper.management = 2) := by
  unfold State.reload State.chooseAndLoad
  split
  · split
    · exact ⟨rfl, rfl, rfl, rfl, id, id⟩
    · exact ⟨rfl, rfl, rfl, rfl, fun _ => rfl, fun _ => rfl⟩
  · exact ⟨rfl, rfl, rfl, rfl, id, id⟩

/-! ## Step 5 -/

/-- What a device reset leaves of jobs, ports, rings and memory at step 5 (R352). -/
def State.cleared (t : State) : Prop := (∀ j, (t.job j).state = 0) ∧ (∀ y ∈ t.fabric.ports, y.state = 0) ∧
  (∀ q ∈ t.host.rings, q.state = 0 ∧ q.enable = false) ∧ ∀ c ∈ t.mem.cells, dumpBase ≤ c.1 ∧ c.1 < dumpBase + dumpRegion

theorem State.resetStep_device (u : State) {x : Reset} (hx : x.domain = devDomain) : (u.resetStep x).keeper.device = 2 ∧ (u.resetStep x).cleared := by
  have hstep : u.resetStep x = ((u.freshDevice.setDomain devDomain 2).setStage devDomain 5).reload x.source := by
    unfold State.resetStep
    rw [hx]
    rfl
  rw [hstep]
  obtain ⟨hjobs, hfabric, hhost, hmem, hdevice, -⟩ := State.reload_frame ((u.freshDevice.setDomain devDomain 2).setStage devDomain 5) x.source
  refine ⟨hdevice rfl, fun j => ?_, fun y hy => ?_, fun q hq => ?_, fun c hc => ?_⟩
  · rw [State.job_replicate (hjobs.trans rfl) j]
  · rw [hfabric] at hy
    obtain ⟨z, hz, rfl⟩ := List.mem_map.1 hy
    obtain ⟨z, -, rfl⟩ := List.mem_map.1 hz
    rfl
  · rw [hhost] at hq
    obtain ⟨z, -, rfl⟩ := List.mem_map.1 hq
    exact ⟨rfl, rfl⟩
  · rw [hmem] at hc
    have hkept := (List.mem_filter.1 hc).2
    simpa using hkept

/-- Step 5 of a reset of Switrak or of management leaves the domain in reset. -/
theorem State.resetStep_state (u : State) {x : Reset} (h : x.domain.kind = 4 ∨ x.domain.kind = 5) : (u.resetStep x).domainState x.domain = 2 := by
  obtain ⟨⟨kind, index⟩, source, cls, noDump, stage, jobs⟩ := x
  rcases h with h | h
  · simp only at h
    subst h
    rfl
  · simp only at h
    subst h
    exact (State.reload_frame _ source).2.2.2.2.2 rfl

/-! ## The drain -/

/-- A reset at step 1 that drains ends with step 5, or waits in reset for RESET_N. -/
theorem doResetDrainEnd_drains {x : Reset} (hx : s.resetOf d = some x) (hstage : x.stage = 1) :
    ∃ p lost, let u := (if x.dumps then (s.abortStep x).capture x.source d else s.abortStep x).freshCores p lost
      doResetDrainEnd d s = if d.kind = 0 ∧ u.power.resetLow = true then (u.setDomain d 2).setStage d 3 else u.resetStep x := by
  unfold doResetDrainEnd
  rw [hx]
  exact ⟨_, _, if_neg (by simp [hstage])⟩

theorem State.freshCores_power (u : State) (p : Nat → Bool) (lost : List TaskRef) : (u.freshCores p lost).power = u.power := by
  unfold State.freshCores
  show (List.foldl _ u lost).power = u.power
  refine List.foldlRecOn (motive := fun (v : State) => v.power = u.power) lost _ rfl fun v hv t _ => ?_
  split
  · exact hv
  · exact hv

theorem State.capture_power (u : State) (n : Nat) (d : Domain) : (u.capture n d).power = u.power := (State.capture_frame u d n).2.2.2.2.2.1

/-- Step 3 of a device reset with no command in progress and no request to the adapter keeps the pins. -/
theorem State.abortStep_power {x : Reset} (hx : x.domain = devDomain) (hfar : s.host.far = []) (hcmds : ∀ q, (s.ring q).cmds = []) :
    (s.abortStep x).power = s.power := by
  have hstep : s.abortStep x = s.endCommands.endFar := by
    unfold State.abortStep
    rw [hx]
    rfl
  have hnone : ∀ l : List Nat, l.foldl (fun s q => ((s.ring q).cmds.filter fun c => !c.ended).foldl (fun s c => s.lateCmd c) s) s = s := fun l =>
    List.foldl_fixed' (fun q => by rw [hcmds q]; rfl) l
  rw [hstep]
  unfold State.endCommands
  rw [hnone]
  unfold State.endFar State.dropWaiting
  simp only [hfar]
  rfl

/-! ## Step 6 -/

theorem doResetDrainEnd_none (h : s.resetOf d = none) : doResetDrainEnd d s = s := by
  unfold doResetDrainEnd
  rw [h]

theorem doResetDrainEnd_later {x : Reset} (h : s.resetOf d = some x) (hstage : x.stage ≠ 1) : doResetDrainEnd d s = s := by
  unfold doResetDrainEnd
  rw [h]
  exact if_pos hstage

theorem doResetDone_none {us : Nat} (h : s.resetOf d = none) : doResetDone d us s = s := by
  unfold doResetDone
  rw [h]

theorem doResetDone_waits {x : Reset} {us : Nat} (h : s.resetOf d = some x)
    (hw : x.stage ≠ 5 ∨ ((d.kind = 0 ∨ d.kind = 5) ∧ s.fw.awaiting = true) ∨ (d.kind = 0 ∧ s.power.resetLow = true)) : doResetDone d us s = s := by
  unfold doResetDone
  rw [h]
  exact if_pos hw

/-- The domain released, its reset off the list. -/
def State.released (s : State) (d : Domain) : State :=
  (s.release6 d (d.kind = 5 ∧ s.keeper.device = 2)).setKeeper fun k => { k with resets := k.resets.filter fun y => !(y.domain == d) }

theorem doResetDone_releases {x : Reset} {us : Nat} (h : s.resetOf d = some x) (hstage : x.stage = 5) (hwait : s.fw.awaiting = false)
    (hlow : s.power.resetLow = false) : doResetDone d us s = ((s.released d).log 0x0402 x.cls d 0xFFFF us 0 0).fillAll := by
  unfold doResetDone
  rw [h]
  exact if_neg (by simp [hstage, hwait, hlow])

/-- The release of a domain keeps the log's number, memory and the other resets. -/
theorem State.released_frame (s : State) (d : Domain) : (s.released d).keeper.logSeq = s.keeper.logSeq ∧ (s.released d).mem = s.mem ∧
    (s.released d).keeper.resets = s.keeper.resets.filter fun y => !(y.domain == d) := by
  have hrelease : ∀ boots, (s.release6 d boots).keeper.logSeq = s.keeper.logSeq ∧ (s.release6 d boots).mem = s.mem ∧
      (s.release6 d boots).keeper.resets = s.keeper.resets := by
    intro boots
    have hset : (s.setDomain d 0).keeper.logSeq = s.keeper.logSeq ∧ (s.setDomain d 0).mem = s.mem ∧ (s.setDomain d 0).keeper.resets = s.keeper.resets := by
      unfold State.setDomain
      split <;> exact ⟨rfl, rfl, rfl⟩
    unfold State.release6
    dsimp only
    split
    · split <;> exact ⟨rfl, rfl, rfl⟩
    · split <;> exact hset
  obtain ⟨hlog, hmem, hresets⟩ := hrelease (d.kind = 5 ∧ s.keeper.device = 2)
  exact ⟨hlog, hmem, congrArg (List.filter fun (y : Reset) => !(y.domain == d)) hresets⟩

/-- The domain released runs. -/
theorem State.released_runs (htrip : s.keeper.tripped = false) (hd : d.kind = 0 ∨ (d.kind = 1 ∧ d.index < s.cores.length) ∨ d.kind = 4 ∨ d.kind = 5) :
    (s.released d).domainState d = 0 := by
  obtain ⟨kind, index⟩ := d
  unfold State.released State.release6
  dsimp only at hd ⊢
  rcases hd with rfl | ⟨rfl, hindex⟩ | rfl | rfl
  · rw [if_pos (Or.inl rfl), if_neg (by simpa [State.setDomain, devDomain, State.setKeeper, State.setFabric, Keeper.thaw] using htrip)]
    rfl
  · rw [if_neg (by simp)]
    exact congrArg Core.domain (State.core_setCore _ _ _ hindex)
  · rw [if_neg (by simp)]
    rfl
  · split
    · rw [if_neg (by simpa [State.setDomain, devDomain, State.setKeeper, State.setFabric, Keeper.thaw] using htrip)]
      rfl
    · rfl

/-- Scheduling leaves the state of every domain but a die's. -/
theorem State.base_domainState {u : State} (h : u.base = s.base) (hd : d.kind ≠ 2) : u.domainState d = s.domainState d := by
  obtain ⟨hkeeper, -, hfabric, -⟩ := State.base_congr h
  have hcore := (Core.fixed_fields (State.base_core h d.index)).1
  unfold State.domainState State.port
  rw [hkeeper, hfabric, hcore]
  split
  case h_3 => exact absurd ‹_› hd
  all_goals rfl

theorem State.log_domainState (s : State) (code cls : Nat) (d : Domain) (job a0 a1 a2 : Nat) :
    (s.log code cls d job a0 a1 a2).domainState d = s.domainState d := by
  unfold State.domainState
  rw [State.log_keeper_device, State.log_keeper_switrak, State.log_keeper_management]
  split <;> rfl

/-! ## RESET_N -/

theorem doResetNFall_fences (hlow : s.power.resetLow = false) (halive : s.alive = true) (hr : s.deviceInReset = false) :
    doResetNFall s = (s.setPower fun p => { p with resetLow := true }).beginReset devDomain 3 false := by
  have halive' : (s.setPower fun p => { p with resetLow := true }).alive = true := halive
  have hr' : (s.setPower fun p => { p with resetLow := true }).deviceInReset = false := hr
  unfold doResetNFall
  rw [if_neg (by simp [hlow])]
  exact if_neg (by simp [halive', hr'])

theorem doResetNFall_records (hlow : s.power.resetLow = false) (h : s.alive = false ∨ s.deviceInReset = true) :
    doResetNFall s = s.setPower fun p => { p with resetLow := true } := by
  have h' : (s.setPower fun p => { p with resetLow := true }).alive = false ∨ (s.setPower fun p => { p with resetLow := true }).deviceInReset = true := h
  unfold doResetNFall
  rw [if_neg (by simp [hlow])]
  exact if_pos (by simpa using h')

theorem doResetNRise_records (h : ∀ x, s.resetOf devDomain = some x → x.stage ≠ 3) : doResetNRise s = s.setPower fun p => { p with resetLow := false } := by
  have hsame : (s.setPower fun p => { p with resetLow := false }).resetOf devDomain = s.resetOf devDomain := rfl
  unfold doResetNRise
  simp only [hsame]
  cases hx : s.resetOf devDomain with
  | none => rfl
  | some x => exact if_pos (h x hx)

end Sys2Proof.Machine
open Sys2Proof Sys2Proof.Machine

/-- Settles O34: a drained device reset ends with step 5 or waits in reset for RESET_N; RESET_DONE releases the domain and takes its reset off the list. -/
theorem deviceResetsClearAndComeBack : Obligations.DeviceResetsClearAndComeBack := by
  intro s d us
  refine ⟨fun x hx hstage => ?device, fun x hx hstage hd => ?other, fun h => ⟨s.become_of_eq (doResetDrainEnd_none h), s.become_of_eq (doResetDone_none h)⟩,
    fun x hx hstage => s.become_of_eq (doResetDrainEnd_later hx hstage), fun x hx hw => s.become_of_eq (doResetDone_waits hx hw),
    fun x hx hstage hwait hlow htrip hd => ⟨_, congrArg s.become (doResetDone_releases hx hstage hwait hlow), ?done⟩,
    fun hlow => ⟨fun halive hr => ⟨_, congrArg s.become (doResetNFall_fences hlow halive hr), ?fall⟩,
      fun h => congrArg s.become (doResetNFall_records hlow h)⟩,
    fun hlow => s.become_of_eq (if_pos hlow), fun h => congrArg s.become (doResetNRise_records h)⟩
  case device =>
    obtain ⟨p, lost, hdo⟩ := doResetDrainEnd_drains hx hstage
    have hdom := State.resetOf_domain hx
    refine ⟨_, congrArg s.become hdo, ?_⟩
    have hpins : s.host.far = [] → (∀ q, (s.ring q).cmds = []) →
        ((if x.dumps then (s.abortStep x).capture x.source devDomain else s.abortStep x).freshCores p lost).power = s.power := by
      intro hfar hcmds
      rw [State.freshCores_power]
      split
      · exact (State.capture_power _ _ _).trans (State.abortStep_power hdom hfar hcmds)
      · exact State.abortStep_power hdom hfar hcmds
    generalize (if x.dumps then (s.abortStep x).capture x.source devDomain else s.abortStep x).freshCores p lost = u at hpins
    obtain ⟨hdevice, hcleared⟩ := State.resetStep_device u hdom
    by_cases hlow : u.power.resetLow = true
    · rw [if_pos ⟨rfl, hlow⟩]
      refine ⟨rfl, fun hhigh hfar hcmds => absurd hlow ?_⟩
      rw [hpins hfar hcmds, hhigh]
      exact Bool.false_ne_true
    · rw [if_neg fun h => hlow h.2]
      exact ⟨hdevice, fun _ _ _ => hcleared⟩
  case other =>
    obtain ⟨p, lost, hdo⟩ := doResetDrainEnd_drains hx hstage
    have hdom := State.resetOf_domain hx
    refine ⟨_, congrArg s.become hdo, ?_⟩
    generalize (if x.dumps then (s.abortStep x).capture x.source d else s.abortStep x).freshCores p lost = u
    rw [if_neg (by omega)]
    have hstate := State.resetStep_state u (x := x) (by rw [hdom]; exact hd)
    rw [hdom] at hstate
    exact hstate
  case done =>
    obtain ⟨hlog, hmem, hresets⟩ := s.released_frame d
    have hruns := State.released_runs htrip hd
    generalize s.released d = u at hlog hmem hresets hruns
    have hbase := State.base_fillAll (u.log 0x0402 x.cls d 0xFFFF us 0 0)
    obtain ⟨hkeeper, -, -, hmem', -⟩ := State.base_congr hbase
    have hnum := State.log_logSeq u 0x0402 x.cls d 0xFFFF us 0 0
    have hlist := State.log_keeper_resets u 0x0402 x.cls d 0xFFFF us 0 0
    have hstate := (State.base_domainState hbase (by omega)).trans ((State.log_domainState u 0x0402 x.cls d 0xFFFF us 0 0).trans hruns)
    generalize (u.log 0x0402 x.cls d 0xFFFF us 0 0).fillAll = w at hkeeper hmem' hstate
    refine ⟨hstate, ?_, ?_, hmem'.trans hmem⟩
    · show w.keeper.resets.find? _ = none
      rw [hkeeper, hlist, hresets]
      simp
    · show w.keeper.logSeq = _
      rw [hkeeper, hnum, hlog]
  case fall =>
    obtain ⟨hdevice, -, hrings, -⟩ := State.beginReset_device (s.setPower fun p => { p with resetLow := true }) 3 false
    obtain ⟨-, hlow', hreset⟩ := State.beginReset_keeper (s := s.setPower fun p => { p with resetLow := true }) (d := devDomain) 3 false
    exact ⟨hdevice, hlow', hreset, hrings⟩

end

section
/-! SUPPORT. The power ward, the regulators and the idle states (R392, R399, R402, R404 to R408). -/

namespace Sys2Proof.Machine

variable {s : State}

theorem Power.exceeds_iff {p : Power} {w a : Nat} : p.exceeds w a = true ↔ p.cap < w ∨ 520 < a := by simp [Power.exceeds]

theorem Power.window1ms_over {p : Power} {w a : Nat} (h : p.cap < w ∨ 520 < a) : p.window1ms w a =
    { p with window := sat16 w, clamps := sat16 (p.clamps + 1), acted := true, overRun := min 2 (p.overRun + 1), quiesced := decide (1 ≤ p.overRun) } :=
  if_pos (Power.exceeds_iff.2 h)

theorem Power.window1ms_within {p : Power} {w a : Nat} (h : ¬ (p.cap < w ∨ 520 < a)) :
    p.window1ms w a = { p with window := sat16 w, acted := false, overRun := 0, quiesced := false } :=
  if_neg (Power.exceeds_iff.not.2 h)

section Window

variable {w a : Nat} (halive : s.alive = true)

include halive

theorem doPowerWindow_over (h : s.power.cap < w ∨ 520 < a) : doPowerWindow w a s = { s.setPower fun p => p.window1ms w a with dies := s.dies.map Die.lower } := by
  unfold doPowerWindow
  rw [if_neg (by simp [halive])]
  exact if_pos (Power.exceeds_iff.2 h)

theorem doPowerWindow_within (h : ¬ (s.power.cap < w ∨ 520 < a)) : doPowerWindow w a s = s.setPower fun p => p.window1ms w a := by
  unfold doPowerWindow
  rw [if_neg (by simp [halive])]
  exact if_neg (Power.exceeds_iff.not.2 h)

end Window

/-- A regulator's step writes the pace and the supply alone. -/
theorem Die.regulate_eq (d : Die) (p : Power) (n : Nat) : d.regulate p n = { d with paceMhz := n, milliVolts :=
    (if d.throttled then max 600 (d.milliVolts - 10)
    else if n < p.target then (if p.acted then d.milliVolts else min 850 (d.milliVolts + 10))
    else if p.target < n then max 600 (d.milliVolts - 10) else d.milliVolts) } := by
  unfold Die.regulate Die.lower Die.raise
  dsimp only
  split_ifs <;> rfl

theorem Die.sense_eq (d : Die) (n : Nat) : d.sense n = { d with deci := n, throttled := decide (950 ≤ n) || (decide (920 ≤ n) && d.throttled) } := by
  unfold Die.sense
  by_cases h950 : 950 ≤ n
  · simp [h950]
  · by_cases h920 : n < 920
    · simp [h950, h920, Nat.not_le.2 h920]
    · simp [h950, h920, Nat.not_lt.1 h920]

/-! ## Idle states -/

/-- A job with the tasks of a die's cores in their slots. -/
def Job.inSlots (die : Nat) (b : Job) : Job :=
  { b with tasks := b.tasks.map fun (k : Task) => if dieOf k.core = die then { k with inSlot := true } else k }

/-- A gated die is without power, and the tasks of its cores are in their slots. -/
theorem State.gateDie_fields {die : Nat} (h : die < s.dies.length) : (s.gateDie die).die die = { s.die die with gated := true, domain := 4 } ∧
    ∀ (r : TaskRef) k, s.task r = some k → dieOf k.core = die → (s.gateDie die).task r = some { k with inSlot := true } := by
  refine ⟨State.die_setDie _ _ _ h, fun r k hk hdie => ?_⟩
  have hjob : (s.gateDie die).job r.job = (s.job r.job).inSlots die := List.getD_map s.jobs ({} : Job) (Job.inSlots die)
  have htask : (s.job r.job).tasks[r.task]? = some k := hk
  unfold State.task
  rw [hjob, Job.inSlots, List.getElem?_map, htask]
  simp [hdie]

theorem State.wakeDie_gated {die : Nat} (hg : (s.die die).gated = true) (h : die < s.dies.length) :
    (s.wakeDie die).die die = { s.die die with gated := false, domain := 0 } ∧ (s.wakeDie die).power.standby = false ∧ (s.wakeDie die).mem = s.mem := by
  unfold State.wakeDie
  rw [if_neg (by simp [hg])]
  exact ⟨State.die_setDie _ _ _ h, rfl, rfl⟩

/-- A core whose die runs wakes alone. -/
theorem State.wakeCore_alone {core : Nat} (h : (s.die (dieOf core)).gated = false) : s.wakeCore core = s.setCore core fun c => { c with idle := 0 } :=
  if_pos (by rw [show State.die (s.setCore core _) (dieOf core) = s.die (dieOf core) from rfl, h]; rfl)

end Sys2Proof.Machine

open Sys2Proof Sys2Proof.Machine

/-- Settles O36: each command by the case of its unit that acts. -/
theorem powerWardRegulatorsAndIdleStates : Obligations.PowerWardRegulatorsAndIdleStates := by
  intro s w a die n core
  refine ⟨fun halive => ⟨fun h => ?exceeds, fun h => ?within, fun hrun => ?regulator⟩, fun hp => ?throttle, fun h => congrArg s.become (if_pos h),
    fun h2 h1 => congrArg s.become ((if_neg (by simp [h2])).trans (if_pos h1)),
    fun h hdie => ⟨_, congrArg s.become (if_pos h), (State.gateDie_fields hdie).1, rfl, rfl, (State.gateDie_fields hdie).2⟩,
    fun h => congrArg s.become (if_pos h), fun hawake => ?wake⟩
  case exceeds =>
    have hset := doPowerWindow_over halive h
    simp only [State.setPower, Power.window1ms_over h] at hset
    exact congrArg s.become hset
  case within =>
    have hset := doPowerWindow_within halive h
    simp only [State.setPower, Power.window1ms_within h] at hset
    exact congrArg s.become hset
  case regulator =>
    have hset : doRegulatorStep die n s = s.setDie die fun d => d.regulate s.power n := if_neg (by simp [halive, hrun])
    simp only [Die.regulate_eq] at hset
    exact congrArg s.become hset
  case throttle =>
    have hset : doThermalThrottle die n s = s.setDie die fun d => d.sense n := if_neg (by simp [hp])
    simp only [Die.sense_eq] at hset
    exact congrArg s.become hset
  case wake =>
    have hwake : ¬ s.asleep = true := by simp [hawake]
    refine ⟨congrArg s.become (if_neg hwake), fun hg hdie => ⟨_, congrArg s.become (if_neg hwake), ?_⟩, fun hin hcore hdie => ⟨?_, fun hp => ?_⟩⟩
    · obtain ⟨hd, hstandby, hmem⟩ := State.wakeDie_gated hg hdie
      exact ⟨hd, hstandby, State.wakeDie_cores s die, hmem⟩
    · exact congrArg s.become ((if_neg hwake).trans ((if_pos hin).trans (State.wakeCore_alone hdie)))
    · exact congrArg s.become ((if_pos ⟨by simp [hawake], hin, hp⟩).trans (State.wakeCore_alone hdie))

end

section
/-! SUPPORT. Firmware written, activated and reported ready (R383 to R387, R389), and the records of ATTEST and HEALTH_READ (R377, R394, R396). -/

namespace Sys2Proof.Machine

variable {s : State} {r : CmdRef} {c : Cmd}

/-! ## Banks -/

theorem Firmware.bank_setBank (f : Firmware) (n : Nat) (g : Bank → Bank) : (f.setBank n g).bank n = g (f.bank n) := by
  unfold Firmware.setBank Firmware.bank
  split <;> rfl

/-- A bank's change leaves everything else of firmware. -/
theorem Firmware.setBank_frame (f : Firmware) (n : Nat) (g : Bank → Bank) : (f.setBank n g).booted = f.booted ∧ (f.setBank n g).floor = f.floor ∧
    (f.setBank n g).owner = f.owner ∧ (f.setBank n g).deviceSet = f.deviceSet ∧ (f.setBank n g).security = f.security ∧
    (f.setBank n g).raiseFloor = f.raiseFloor := by
  unfold Firmware.setBank
  split <;> exact ⟨rfl, rfl, rfl, rfl, rfl, rfl⟩

theorem Firmware.take_frame (f : Firmware) (kind total : Nat) (data : Bytes) : (f.take kind total data).floor = f.floor ∧
    (f.take kind total data).owner = f.owner ∧ (f.take kind total data).deviceSet = f.deviceSet := by
  unfold Firmware.take
  dsimp only
  split
  · obtain ⟨-, hfloor, howner, hset, -⟩ := Firmware.setBank_frame { f with staging := some (kind, total, data) } (1 - f.booted) fun b => b.laid data
    exact ⟨hfloor, howner, hset⟩
  · exact ⟨rfl, rfl, rfl⟩

/-- Firmware without the wards' record of what they refused. -/
def Firmware.sansTrips (f : Firmware) : Firmware := { f with trips := 0, tripTimes := [] }

theorem State.wardTrip_fw (n : Nat) : (s.wardTrip n).fw.sansTrips = s.fw.sansTrips := by
  unfold State.wardTrip
  dsimp only
  split_ifs <;> rfl

/-- A reply that is lost may trip a ward; it changes nothing else of firmware. -/
theorem State.reply_fw (s : State) (r : CmdRef) (st d v : Nat) : (s.reply r st d v).fw.sansTrips = s.fw.sansTrips := by
  unfold State.reply State.replyLost
  split
  · rfl
  · dsimp only
    split_ifs
    · rfl
    · rfl
    · exact State.wardTrip_fw 3
    · rfl
    · rfl

/-! ## FIRMWARE_WRITE -/

/-- A piece taken, and with LAST the object checked. -/
def State.takePiece (s : State) (r : CmdRef) (last : Bool) (kind total : Nat) (all : Bytes) : State :=
  let f := s.fw.take kind total all
  if !last then (s.setFw fun _ => f).reply r stOk 0 0
  else match f.finish kind total all with
    | some g => (s.setFw fun _ => g).reply r stOk 0 0
    | none => (s.setFw fun _ => { f with staging := none }).reply r stAuthFail 0 0

theorem State.takePiece_keeps (kind total : Nat) (all : Bytes) :
    s.takePiece r false kind total all = (s.setFw fun f => f.take kind total all).reply r 0 0 0 := rfl

theorem State.takePiece_installs {kind total : Nat} {all : Bytes} {g : Firmware} (h : (s.fw.take kind total all).finish kind total all = some g) :
    s.takePiece r true kind total all = (s.setFw fun _ => g).reply r 0 0 0 := by
  unfold State.takePiece
  simp only [h]
  rfl

theorem State.takePiece_fails {kind total : Nat} {all : Bytes} (h : (s.fw.take kind total all).finish kind total all = none) :
    s.takePiece r true kind total all = (s.setFw fun f => { f.take kind total all with staging := none }).reply r stAuthFail 0 0 := by
  unfold State.takePiece
  simp only [h]
  rfl

section Write

variable {kind total : Nat} {got all : Bytes} (hkind : c.p 0 1 = kind) (htotal : c.p 0x10 8 = total) (hgot : s.fw.received kind (c.p 8 8) = got)
  (hall : got ++ c.params.drop 24 = all) (h1 : 1 ≤ kind) (h4 : kind ≤ 4) (hres : c.p 2 6 = 0) (hzero : total ≠ 0) (hlimit : total ≤ objectLimit kind)
  (hoff : c.p 8 8 = got.length) (hlen : all.length ≤ total)
  (hstaging : ∀ k t b, s.fw.staging = some (k, t, b) → k = kind ∧ c.p 8 8 ≠ 0 → t = total) (hlast : c.p 1 1 ≤ 1)

include hkind htotal hgot hall h1 h4 hres hzero hlimit hoff hlen hstaging hlast

/-- FIRMWARE_WRITE of a piece that passes its checks. -/
theorem doFirmwareWrite_takes : doFirmwareWrite r c s = s.takePiece r (bitOf (c.p 1 1) 0) kind total all := by
  subst hkind htotal hgot hall
  have hfits : ¬ c.p 8 8 + (c.params.drop 24).length > c.p 0x10 8 := by
    rw [List.length_append, ← hoff] at hlen
    omega
  have hsame : (match s.fw.staging with
      | some (k, t, _) => !(k == c.p 0 1 && c.p 8 8 != 0) || t == c.p 0x10 8
      | none => true) = true := by
    cases hs : s.fw.staging with
    | none => rfl
    | some x =>
      have := hstaging _ _ _ hs
      by_cases hk : x.1 = c.p 0 1 ∧ c.p 8 8 ≠ 0
      · simp [this hk]
      · simp only [Bool.or_eq_true, Bool.not_eq_true', Bool.and_eq_false_iff, beq_eq_false_iff_ne, bne_eq_false_iff_eq]
        omega
  unfold doFirmwareWrite
  rw [State.checked_pass _ _ _ _ (firstBad_none ?checks)]
  case checks =>
    simp only [List.forall_mem_cons]
    refine ⟨by simpa using hzero, by simp; omega, by simpa using hlast, Cmd.reserved_pass hres, by simpa using hoff, ?_, by simpa using hfits,
      List.forall_mem_nil _⟩
    simp only [Bool.or_eq_false_iff, decide_eq_false_iff_not, Bool.not_eq_false']
    exact ⟨Nat.not_lt.2 hlimit, hsame⟩
  rfl

end Write

/-! ## FIRMWARE_ACTIVATE -/

/-- A reset of management fences it, halts the rings and waits for no report of Nerur. -/
theorem State.beginReset_management (src : Nat) (nd : Bool) : let t := s.beginReset ⟨5, 0⟩ src nd
    t.keeper.management = 1 ∧ t.fw = { s.fw with awaiting := false } ∧ ∀ q ∈ t.host.rings, q.state ≠ 1 := by
  have hfw := (State.wakeDomain_frame (s.log 0x0401 (resetClass ⟨5, 0⟩ src) ⟨5, 0⟩ 0xFFFF src 0 0) ⟨5, 0⟩).2.2.2.1
  unfold State.beginReset
  dsimp only
  generalize (s.log 0x0401 (resetClass ⟨5, 0⟩ src) ⟨5, 0⟩ 0xFFFF src 0 0).wakeDomain ⟨5, 0⟩ = u at hfw
  rw [if_pos (Or.inr rfl), if_pos (Or.inr (Or.inr rfl))]
  refine ⟨rfl, ?_, fun q hq => ?_⟩
  · show ({ u.fw with awaiting := false } : Firmware) = _
    rw [hfw]
    rfl
  obtain ⟨y, -, rfl⟩ := List.mem_map.1 hq
  split
  · exact (by decide : (2 : Nat) ≠ 1)
  · assumption

/-- FIRMWARE_ACTIVATE with good parameters, no job under way and a bank that would be chosen: what RETIRE erases stands in `f`. -/
theorem doFirmwareActivate_resets (hz : ∀ n, 1 ≤ n → c.params.getD n 0 = 0) (hp : c.p 0 1 ≤ 3) (hbusy : s.busyJob = none)
    (hvalid : s.fw.valid (s.fw.bank (1 - s.fw.booted)) = true) (hchoose : c.p 0 1 % 2 = 1 ∨ s.fw.choose = some (1 - s.fw.booted)) :
    ∃ (f : Firmware) (v : Nat), doFirmwareActivate r c s = ((s.setFw fun _ => { f with raiseFloor := bitOf (c.p 0 1) 1 }).reply r stOk 0 v).beginReset ⟨5, 0⟩ 6 false := by
  have hchosen : (!bitOf (c.p 0 1) 0 &&
      (if bitOf (c.p 0 1) 0 then s.fw.setBank s.fw.booted Bank.erase else s.fw).choose != some (1 - s.fw.booted)) = false := by
    cases hflag : bitOf (c.p 0 1) 0
    · have heven := bitOf_zero_eq_false.1 hflag
      simpa using hchoose.resolve_left (by omega)
    · rfl
  unfold doFirmwareActivate
  dsimp only
  rw [State.checked_pass _ _ _ _ (firstBad_none ?checks)]
  case checks =>
    simp only [List.forall_mem_cons]
    exact ⟨by simpa using hp, Cmd.beyond_passes hz, by simp [hbusy], by simp [hvalid], hchosen, List.forall_mem_nil _⟩
  exact ⟨_, _, rfl⟩

/-! ## Nerur's report (R383, R387) -/

theorem Firmware.ready_fields (f : Firmware) : (f.ready.bank f.booted).strikes = 0 ∧ f.ready.awaiting = false ∧
    f.ready.floor = if f.raiseFloor then max f.floor (min f.security 128) else f.floor := by
  obtain ⟨-, hfloor, -, -, hsecurity, hraise⟩ := f.setBank_frame f.booted fun b => { b with strikes := 0 }
  refine ⟨congrArg Bank.strikes (f.bank_setBank f.booted fun b => { b with strikes := 0 }), rfl, ?_⟩
  unfold Firmware.ready
  dsimp only
  rw [hfloor, hsecurity, hraise]

/-- The choice of a bank and its loading leave both banks and every job. -/
theorem State.chooseAndLoad_frame (s : State) : (∀ n, s.chooseAndLoad.fw.bank n = s.fw.bank n) ∧ s.chooseAndLoad.jobs = s.jobs := by
  unfold State.chooseAndLoad
  split
  · exact ⟨fun _ => rfl, rfl⟩
  · exact ⟨fun _ => rfl, rfl⟩

theorem doNerurReadyTimeout_strikes (h : s.bootWaits = true) : (doNerurReadyTimeout s).fw.bank s.fw.booted = s.fw.strike.bank s.fw.booted ∧
    (doNerurReadyTimeout s).jobs = s.jobs := by
  obtain ⟨hbank, hjobs⟩ := (s.setFw Firmware.strike).chooseAndLoad_frame
  unfold doNerurReadyTimeout
  rw [if_neg (by simp [h])]
  exact ⟨hbank s.fw.booted, hjobs⟩

/-! ## The records of ATTEST and HEALTH_READ -/

theorem State.giveRecord_puts {a : Nat} {b : Bytes} {d v : Nat} (hb : 0 < b.length) :
    s.giveRecord r a b d v = (s.farPut (a - farBase) b 0 .hostBuffer).reply r 0 d v := by
  have hsome : b.isEmpty = false := by rw [List.isEmpty_eq_false_iff, ← List.length_pos_iff]; exact hb
  simp only [State.giveRecord, hsome, Bool.false_eq_true, if_false]
  rfl

theorem State.attestReport_length (nonce : Bytes) (withCert : Bool) : 0 < (s.attestReport nonce withCert).length := by
  simp only [State.attestReport, State.attestBody, List.length_append, toLe_length]
  omega

theorem State.healthRecord_length : 0 < s.healthRecord.length := by
  simp only [State.healthRecord, List.length_append, toLe_length]
  omega

theorem doAttest_gives (hz : ∀ n, 0x29 ≤ n → c.params.getD n 0 = 0) (hflags : c.p 0x28 1 ≤ 1)
    (hfar : s.farOk (c.p 0x20 8) (if c.p 0x28 1 = 1 then 13696 else 5504) = true) :
    doAttest r c s = (s.farPut (c.p 0x20 8 - farBase) (s.attestReport (sliceZ c.params 0 32) (c.p 0x28 1 == 1)) 0 .hostBuffer).reply r 0
      (if c.p 0x28 1 = 1 then 13696 else 5504) 0 := by
  have hcert : bitOf (c.p 0x28 1) 0 = (c.p 0x28 1 == 1) := by
    rw [Bool.eq_iff_iff]
    simp [bitOf]
    omega
  unfold doAttest
  simp only [hcert, beq_iff_eq]
  rw [State.checked_pass _ _ _ _ (firstBad_none ?checks)]
  case checks =>
    simp only [List.forall_mem_cons]
    exact ⟨by simp [hfar], by simpa using hflags, Cmd.beyond_passes hz, List.forall_mem_nil _⟩
  exact State.giveRecord_puts (State.attestReport_length ..)

theorem doHealthRead_gives (hz : ∀ n, 8 ≤ n → c.params.getD n 0 = 0) (hfar : s.farOk (c.p 0 8) 1600 = true) :
    doHealthRead r c s = (s.farPut (c.p 0 8 - farBase) s.healthRecord 0 .hostBuffer).reply r 0 0 0 := by
  unfold doHealthRead
  dsimp only
  rw [State.checked_pass _ _ _ _ (firstBad_none ?checks)]
  case checks =>
    simp only [List.forall_mem_cons]
    exact ⟨by simp [hfar], Cmd.beyond_passes hz, List.forall_mem_nil _⟩
  exact State.giveRecord_puts State.healthRecord_length

end Sys2Proof.Machine

open Sys2Proof Sys2Proof.Machine

/-- Settles O37: each row with its checks passed, and Nerur's report and its absence. -/
theorem firmwareIsWrittenActivatedAndAttested : Obligations.FirmwareIsWrittenActivatedAndAttested := by
  intro s r c u
  refine ⟨fun h => ?write, fun h hz hp hbusy hvalid hchoose => ?activate, fun h => ⟨_, congrArg s.become (if_pos h), ?ready⟩,
    fun h => ⟨_, rfl, ?strike⟩, fun h => ⟨s.become_of_eq (if_neg (by simp [h])), s.become_of_eq (if_pos (by simp [h]))⟩,
    fun h hz hflags hfar => State.become_acts h (doAttest_gives hz hflags hfar), fun h hz hfar => State.become_acts h (doHealthRead_gives hz hfar)⟩
  case write =>
    intro kind got all h1 h4 hres hzero hlimit hoff hlen hstaging
    have htakes : c.p 1 1 ≤ 1 → doFirmwareWrite r c u = u.takePiece r (bitOf (c.p 1 1) 0) kind (c.p 0x10 8) all := fun hlast =>
      doFirmwareWrite_takes (s := u) rfl rfl rfl rfl h1 h4 hres hzero hlimit hoff hlen hstaging hlast
    refine ⟨fun hlast => ⟨State.become_acts h ?_, fun hkind => if_neg hkind⟩, fun hlast => ⟨fun g hg => State.become_acts h ?_, fun hg => ?_⟩⟩
    · rw [htakes (by omega), hlast]
      exact State.takePiece_keeps ..
    · rw [htakes (by omega), hlast]
      exact State.takePiece_installs hg
    · have hfails := htakes (by omega)
      rw [hlast] at hfails
      refine ⟨_, State.become_acts h (hfails.trans (State.takePiece_fails hg)), ?_⟩
      obtain ⟨hfloor, howner, hset⟩ := s.fw.take_frame kind (c.p 0x10 8) all
      have hfw := (u.setFw fun f => { f.take kind (c.p 0x10 8) all with staging := none }).reply_fw r stAuthFail 0 0
      obtain ⟨-, -, hjobs, hmem, -⟩ := (u.setFw fun f => { f.take kind (c.p 0x10 8) all with staging := none }).reply_frame r stAuthFail 0 0
      exact ⟨(congrArg Firmware.owner hfw).trans howner, (congrArg Firmware.deviceSet hfw).trans hset, (congrArg Firmware.floor hfw).trans hfloor,
        congrArg Firmware.staging hfw, hjobs, hmem⟩
  case activate =>
    obtain ⟨f, v, hdo⟩ := doFirmwareActivate_resets (s := u) (r := r) hz hp hbusy hvalid hchoose
    refine ⟨_, State.become_acts h hdo, ?_⟩
    have hraise := congrArg Firmware.raiseFloor ((u.setFw fun _ => { f with raiseFloor := bitOf (c.p 0 1) 1 }).reply_fw r stOk 0 v)
    generalize (u.setFw fun _ => { f with raiseFloor := bitOf (c.p 0 1) 1 }).reply r stOk 0 v = w at hraise
    obtain ⟨hmanagement, hfw, hrings⟩ := w.beginReset_management 6 false
    obtain ⟨-, -, hreset⟩ := State.beginReset_keeper (s := w) (d := ⟨5, 0⟩) 6 false
    exact ⟨hmanagement, (congrArg Firmware.raiseFloor hfw).trans hraise, congrArg Firmware.awaiting hfw, hreset, hrings⟩
  case ready =>
    obtain ⟨hstrikes, hwait, hfloor⟩ := s.fw.ready_fields
    exact ⟨hstrikes, hwait, hfloor, rfl, rfl⟩
  case strike =>
    obtain ⟨hbank, hjobs⟩ := doNerurReadyTimeout_strikes h
    have hstruck := s.fw.bank_setBank s.fw.booted fun b => { b with strikes := min 3 (b.strikes + 1), failed := b.failed || decide (b.strikes + 1 ≥ 3) }
    have hb := hbank.trans hstruck
    refine ⟨congrArg Bank.strikes hb, (congrArg Bank.failed hb).trans ?_, hjobs⟩
    simp

end

section
/-! SUPPORT. Sampled recomputation decided by another engine's vote, and the fencing of a core (R366 to R368). -/

namespace Sys2Proof.Machine

variable {s : State} {core : Nat}

/-! ## The vote (R366) -/

/-- Marking a core's contributions changes the straggler books of its job alone. -/
theorem State.markCore_frame (s : State) (j : Nat) : (s.markCore j).cores = s.cores ∧ (s.markCore j).mem = s.mem ∧ ∀ t, (s.markCore j).task t = s.task t :=
  List.foldlRecOn (motive := fun (u : State) => u.cores = s.cores ∧ u.mem = s.mem ∧ ∀ t, u.task t = s.task t) _ _ ⟨rfl, rfl, fun _ => rfl⟩
    fun _ hu _ _ => ⟨hu.1, hu.2.1, fun t => (State.task_setJob _ _ _ (by intro; rfl) t).trans (hu.2.2 t)⟩

/-- A core classed permanent is marked to be fenced. -/
theorem State.permanent_fields (hcore : core < s.cores.length) (j : Nat) : (s.permanent core j).core core = { s.core core with fenceDue := true } ∧
    (s.permanent core j).mem = s.mem ∧ ∀ t, (s.permanent core j).task t = s.task t := by
  obtain ⟨hcores, hmem, htask⟩ := (s.setCore core fun x => { x with fenceDue := true }).markCore_frame j
  exact ⟨(State.core_of_cores hcores core).trans (State.core_setCore _ _ _ hcore), hmem, htask⟩

theorem doRecomputeVote_none {fault : Option Glitch} (h : (s.core core).dispute = none) : doRecomputeVote core fault s = s := by
  unfold doRecomputeVote
  rw [h]

/-- The vote on an instruction that leaves its tile open, its operands in plain workspace: the disagreement ends, the core is classed permanent
and the tile takes the voter's totals. -/
theorem doRecomputeVote_votes {fault : Option Glitch} {d : Dispute} {k : Task} {tile : Tile} {fa fb : Fmt} {w : ArrayWord}
    (hd : (s.core core).dispute = some d) (hk : s.task d.task = some k) (hp : s.plainWs d.task k = true) (hw : ArrayWord.ofBytes d.word = w)
    (hpair : w.pair = some (fa, fb)) (htile : k.tile d.array d.slot = some tile) (hopen : w.closes = false)
    (ha : ∀ i < shapeM w.shape, w.aAddr + i * w.rowA fa + w.kCount * fa.size ≤ wsBytes)
    (hb : ∀ i < w.kCount, w.bAddr + i * w.rowB fb + shapeN w.shape * fb.size ≤ wsBytes) :
    doRecomputeVote core fault s = ((s.setCore core fun c => { c with dispute := none }).permanent core d.task.job).setTask d.task fun x => { x with
      tiles := x.tiles.filter (fun y => !(y.array == tile.array && y.slot == tile.slot)) ++ [{ tile with
        totals := glitched (totalFmt tile.wide) (s.mmaTotals d.task k w fa fb { tile with totals := d.before }) fault
        chunk := tile.chunk + ceilDiv w.kCount (s.job d.task.job).chunk }] } := by
  have hread := (s.setCore core fun c => { c with dispute := none }).readOperands_plain (t := d.task) (k := k) hp ha hb
  have hk' : (s.setCore core fun c => { c with dispute := none }).task d.task = some k := hk
  unfold doRecomputeVote
  simp only [hd, hk', hw, hpair, htile, hread, State.tileDone_open _ hopen]
  rfl

/-! ## CORE_FENCE (R328, R368) -/

/-- A fold whose steps leave the first state as it is. -/
theorem foldl_stays {α : Type} {f : State → α → State} {l : List α} (h : ∀ x ∈ l, f s x = s) : l.foldl f s = s := by
  induction l with
  | nil => rfl
  | cons x l ih => rw [List.foldl_cons, h x (List.mem_cons_self ..), ih fun y hy => h y (List.mem_cons_of_mem _ hy)]

/-- A core fenced off, with no test of it due, counted and copied to flash. -/
def State.fencedOff (s : State) (core : Nat) : State :=
  ((s.setCore core fun c => { c with fenceDue := false, fenced := true, test := 0 }).setHealth fun h => { h with fences := sat16 (h.fences + 1) }).flashCopy

/-- What a core takes next is in its ready lists alone. -/
theorem State.next_setCore (f : Core → Core) (hf : ∀ c, (f c).next = c.next) (h : ∀ c, (s.core c).next = none) (c : Nat) : ((s.setCore core f).core c).next = none :=
  (State.core_setCore_kept s Core.next f hf c).trans (h c)

/-- CORE_FENCE of a marked core on which no job has a task, no task waiting on any core. -/
theorem doCoreFence_fences (hdue : (s.core core).fenceDue = true) (hf : (s.core core).fenced = false) (hnext : ∀ c, (s.core c).next = none)
    (hjobs : ∀ j < 64, ((s.job j).tasks.any fun k => k.core == core) = false) : doCoreFence core s = s.fencedOff core := by
  have hcalm : ∀ c, ((s.fencedOff core).core c).next = none := State.next_setCore _ (by intro; rfl) hnext
  unfold doCoreFence
  rw [if_neg (by simp [hdue, hf])]
  dsimp only
  rw [foldl_stays fun j hj => if_neg fun h => Bool.false_ne_true ((hjobs j (List.mem_range.1 hj)).symm.trans h)]
  exact (s.fencedOff core).fillAll_none hcalm

end Sys2Proof.Machine

open Sys2Proof Sys2Proof.Machine

/-- Settles O20: the vote is the end of the disagreement, the mark on the core and the tile's new totals; the fence is CORE_FENCE with nothing to move. -/
theorem faultyCoresAreVotedOutAndFenced : Obligations.FaultyCoresAreVotedOutAndFenced := by
  intro s core hcore
  refine ⟨fun fault h => s.become_of_eq (doRecomputeVote_none h), fun fault d k tile fa fb hd hk hp => ?vote, fun h => s.become_of_eq (if_pos ?stays),
    fun hdue hf hnext hjobs => congrArg s.become (doCoreFence_fences hdue hf hnext hjobs)⟩
  case vote =>
    intro w hpair htile hopen ha hb row a b len vote
    refine ⟨_, congrArg s.become (doRecomputeVote_votes (fault := fault) hd hk hp rfl hpair htile hopen ha hb), ?_⟩
    obtain ⟨hmark, hmem, htask⟩ := State.permanent_fields (s := s.setCore core fun c => { c with dispute := none }) (by simpa using hcore) d.task.job
    have hended := congrArg Core.dispute (State.core_setCore s core (fun c => { c with dispute := none }) hcore)
    generalize (s.setCore core fun c => { c with dispute := none }).permanent core d.task.job = v at hmark hmem htask
    have htaken := State.task_setTask (s := v) ((htask d.task).trans hk) fun x => { x with
      tiles := x.tiles.filter (fun y => !(y.array == tile.array && y.slot == tile.slot)) ++ [{ tile with totals := vote, chunk := tile.chunk + ceilDiv w.kCount len }] }
    exact ⟨(congrArg Core.dispute hmark).trans hended, congrArg Core.fenceDue hmark, hmem, congrArg (Option.map Task.tiles) htaken⟩
  case stays => rcases h with h | h <;> simp [h]

end

section
/-! SUPPORT. The in-field test (R367 to R373): cores asked for, taken, and given back or fenced. -/

namespace Sys2Proof.Machine

variable {s : State} {core : Nat}

/-! ## What a test looks at in a core -/

/-- The fence, the test, the margins and the active time of a core. -/
def Core.tested (c : Core) : Bool × Nat × Nat × Nat × Nat := (c.fenced, c.test, c.delay, c.volt, c.activeUs)

theorem Core.tested_fields {a b : Core} (h : a.tested = b.tested) :
    a.fenced = b.fenced ∧ a.test = b.test ∧ a.delay = b.delay ∧ a.volt = b.volt ∧ a.activeUs = b.activeUs := by
  simpa [Core.tested] using h

theorem State.base_tested {u : State} (h : u.base = s.base) (c : Nat) : (u.core c).tested = (s.core c).tested := by
  obtain ⟨-, hfenced, -, hdelay, hvolt, hactive, htest, -⟩ := Core.fixed_fields (State.base_core h c)
  simp only [Core.tested, hfenced, hdelay, hvolt, hactive, htest]

/-- A change of one core and of health, as far as a test looks. -/
theorem State.base_oneCore {u : State} {f : Core → Core} {H : Health} (hcore : core < s.cores.length)
    (h : u.base = ({ s.setCore core f with health := H } : State).base) : u.mem = s.mem ∧ u.health = H ∧ u.cores.length = s.cores.length ∧
    (u.core core).fixed = (f (s.core core)).fixed ∧ ∀ c, c ≠ core → (u.core c).tested = (s.core c).tested := by
  obtain ⟨-, -, -, hmem, -, hhealth, -, -, hlen⟩ := State.base_congr h
  refine ⟨hmem, hhealth, hlen.trans (List.length_modify ..), (State.base_core h core).trans (congrArg Core.fixed (State.core_setCore s core f hcore)), fun c hc => ?_⟩
  exact (State.base_tested h c).trans (congrArg Core.tested (State.core_setCore_other s core c f (Ne.symm hc)))

theorem Core.tested_of_fixed {a b : Core} (h : a.fixed = b.fixed) : a.tested = b.tested := by
  obtain ⟨-, hfenced, -, hdelay, hvolt, hactive, htest, -⟩ := Core.fixed_fields h
  simp only [Core.tested, hfenced, hdelay, hvolt, hactive, htest]

/-! ## The end of a test -/

theorem State.wardTrip_health (n : Nat) : (s.wardTrip n).health = s.health := by
  unfold State.wardTrip
  dsimp only
  split_ifs <;> rfl

theorem State.reply_health (s : State) (r : CmdRef) (st d v : Nat) : (s.reply r st d v).health = s.health := by
  unfold State.reply State.replyLost
  split
  · rfl
  · dsimp only
    split_ifs
    · rfl
    · rfl
    · exact State.wardTrip_health 3
    · rfl
    · rfl

/-- The reply to a TEST_RUN leaves cores, memory and health. -/
theorem State.testReply_frame (s : State) (r : CmdRef) : (s.testReply r).cores = s.cores ∧ (s.testReply r).mem = s.mem ∧ (s.testReply r).health = s.health := by
  unfold State.testReply
  split
  · exact ⟨rfl, rfl, rfl⟩
  · split
    · exact ⟨rfl, rfl, rfl⟩
    · obtain ⟨-, -, -, hmem, hcores⟩ := s.reply_frame r stOk (s.testCounts _).1 (s.testCounts _).2
      exact ⟨hcores, hmem, s.reply_health ..⟩

/-- A core without its RETEST mark once no command names it. -/
def Core.unmarked (c : Core) : Core := if c.testCmds.isEmpty ∧ c.test = 0 then { c with retest := false } else c

theorem State.clearRetest_core (s : State) (c : Nat) : ∃ b, s.clearRetest.core c = { s.core c with retest := b } := by
  have hcore : s.clearRetest.core c = (s.core c).unmarked := List.getD_map s.cores ({} : Core) Core.unmarked
  rw [hcore]
  unfold Core.unmarked
  split
  · exact ⟨false, rfl⟩
  · exact ⟨(s.core c).retest, rfl⟩

/-- What follows the judgement of a test: the core names no command any more, replies, and RETEST marks. -/
def State.endTest (s : State) (core : Nat) (cmds : List CmdRef) : State :=
  (cmds.foldl (fun s r => s.testReply r) (s.setCore core fun c => { c with testCmds := [] })).clearRetest

theorem State.endTest_frame (core : Nat) (cmds : List CmdRef) : (s.endTest core cmds).mem = s.mem ∧ (s.endTest core cmds).health = s.health ∧
    (∀ c, ((s.endTest core cmds).core c).tested = (s.core c).tested) ∧ (core < s.cores.length → ((s.endTest core cmds).core core).testCmds = []) := by
  have hfold : let u := cmds.foldl (fun s r => s.testReply r) (s.setCore core fun c => { c with testCmds := [] })
      u.cores = (s.setCore core fun c => { c with testCmds := [] }).cores ∧ u.mem = s.mem ∧ u.health = s.health :=
    List.foldlRecOn (motive := fun (u : State) => u.cores = (s.setCore core fun c => { c with testCmds := [] }).cores ∧ u.mem = s.mem ∧ u.health = s.health)
      cmds _ ⟨rfl, rfl, rfl⟩ fun u hu r _ => by
        obtain ⟨hc, hm, hh⟩ := u.testReply_frame r
        exact ⟨hc.trans hu.1, hm.trans hu.2.1, hh.trans hu.2.2⟩
  unfold State.endTest
  generalize cmds.foldl (fun s r => s.testReply r) (s.setCore core fun c => { c with testCmds := [] }) = u at hfold
  obtain ⟨hcores, hmem, hhealth⟩ := hfold
  refine ⟨hmem, hhealth, fun c => ?_, fun hc => ?_⟩
  · obtain ⟨b, hb⟩ := u.clearRetest_core c
    rw [hb]
    show (u.core c).tested = _
    rw [State.core_of_cores hcores]
    exact State.core_setCore_kept s Core.tested _ (by intro; rfl) c
  · obtain ⟨b, hb⟩ := u.clearRetest_core core
    rw [hb]
    show (u.core core).testCmds = []
    rw [State.core_of_cores hcores, State.core_setCore _ _ _ hc]

/-- TEST_DONE when the test's judgement changes one core and health alone, but for scheduling. -/
theorem doTestDone_ends {first second : TestOutcome} {f : Core → Core} {H : Health} (hcore : core < s.cores.length) (h3 : (s.core core).test = 3)
    (hafter : (s.afterTest core first second).base = ({ s.setCore core f with health := H } : State).base) :
    let t := doTestDone core first second s
    t.mem = s.mem ∧ t.health = H ∧ (∀ c, c ≠ core → (t.core c).tested = (s.core c).tested) ∧ (t.core core).tested = (f (s.core core)).tested ∧
      (t.core core).testCmds = [] := by
  have hdo : doTestDone core first second s = (s.afterTest core first second).endTest core (s.core core).testCmds := if_neg (by simp [h3])
  obtain ⟨hmem, hhealth, hlen, hself, hothers⟩ := State.base_oneCore hcore hafter
  obtain ⟨hmem', hhealth', hkept, hcmds⟩ := (s.afterTest core first second).endTest_frame core (s.core core).testCmds
  rw [hdo]
  exact ⟨hmem'.trans hmem, hhealth'.trans hhealth, fun c hc => (hkept c).trans (hothers c hc), (hkept core).trans (Core.tested_of_fixed hself),
    hcmds (by rw [hlen]; exact hcore)⟩

theorem State.setCore_setCore (s : State) (core : Nat) (f g : Core → Core) : (s.setCore core f).setCore core g = s.setCore core fun c => g (f c) := by
  unfold State.setCore
  simp only [List.modify_modify_eq]
  rfl

/-! ## The judgement of a test (R367, R371) -/

section Judged

variable {first second : TestOutcome}

/-- A core that passes its test takes work again, its active time counted anew. -/
theorem State.afterTest_passes (hf : (s.core core).fenced = false) :
    (s.afterTest core none second).base = ({ s.setCore core (fun c => { c with activeUs := 0, test := 0 }) with health := s.health } : State).base := by
  have hafter : s.afterTest core none second = (s.setCore core fun c => { c with activeUs := 0 }).giveBack core := if_neg (by simp [hf])
  rw [hafter, State.base_giveBack, State.setCore_setCore]
  rfl

/-- A core classed permanent by its test is fenced off. -/
theorem State.testFence_fences (hcore : core < s.cores.length) (hf : (s.core core).fenced = false) (hnext : ∀ c, (s.core c).next = none)
    (hjobs : ∀ j < 64, ((s.job j).tasks.any fun k => k.core == core) = false) :
    ∃ flash, s.testFence core = { s.setCore core (fun c => { c with fenceDue := false, fenced := true, test := 0 }) with
      health := { s.health with fences := sat16 (s.health.fences + 1), flash := flash } } := by
  have hmark := State.core_setCore s core (fun c => { c with test := 0, fenceDue := true }) hcore
  have hfence := doCoreFence_fences (s := s.setCore core fun c => { c with test := 0, fenceDue := true }) (congrArg Core.fenceDue hmark)
    ((congrArg Core.fenced hmark).trans hf) (State.next_setCore _ (by intro; rfl) hnext) hjobs
  have hset : s.testFence core = _ := hfence
  rw [hset, State.fencedOff, State.setCore_setCore]
  exact ⟨_, rfl⟩

/-- A second failure with the same signature, or margins that are spent, is permanent. -/
theorem State.afterTest_permanent {f : Nat × Nat} (hf : (s.core core).fenced = false) (h : second = some f ∨ (s.core core).marginsSpent = true) :
    s.afterTest core (some f) second = s.testFence core := by
  refine (if_neg (by simp [hf])).trans ?_
  dsimp only
  by_cases hsame : second = some f
  · exact if_pos hsame
  · exact (if_neg hsame).trans (if_pos (h.resolve_left hsame))

/-- Patina below the score of a worn module only counts. -/
theorem State.patina_counts {n : Nat} (h : s.health.acc + n < 600 * 1024) : s.patina n = s.setHealth fun h => { h with acc := h.acc + n } := by
  have hmin : min (s.health.acc + n) 1048575 = s.health.acc + n := Nat.min_eq_left (by omega)
  have hworn : decide ((s.health.acc + n) / 1024 ≥ 600) = false := by simp; omega
  have hretire : decide ((s.health.acc + n) / 1024 ≥ 900) = false := by simp; omega
  unfold State.patina
  simp only [hmin, hworn, hretire, Bool.and_false, Bool.or_false, Bool.false_eq_true, if_false]
  rfl

/-- A core with one of its margins a step higher (R367). -/
def Core.raised (c : Core) : Core := if c.delay < 7 then { c with delay := c.delay + 1 } else { c with volt := c.volt + 1 }

theorem Core.raised_fields (c : Core) : c.raised.fenced = c.fenced ∧ c.raised.activeUs = c.activeUs ∧
    (c.raised.delay, c.raised.volt) = if c.delay < 7 then (c.delay + 1, c.volt) else (c.delay, c.volt + 1) := by
  unfold Core.raised
  split <;> exact ⟨rfl, rfl, rfl⟩

theorem State.marginRaise_counts {acc : Nat} (hacc : s.health.acc + 48 * 1024 = acc) (h : acc < 600 * 1024) : ∃ flash, s.marginRaise core =
    { s.setCore core Core.raised with health := { s.health with acc := acc, raises := sat32 (s.health.raises + 1), flash := flash } } := by
  subst hacc
  have hcount := State.patina_counts (s := (s.setCore core Core.raised).setHealth fun h => { h with raises := sat32 (h.raises + 1) }) h
  exact ⟨_, congrArg State.flashCopy hcount⟩

theorem State.testTransient_counts {acc : Nat} (hacc : s.health.acc = acc) (h : acc + 64 * 1024 < 600 * 1024) : s.testTransient =
    (s.setHealth fun h => { h with testTransients := sat32 (h.testTransients + 1) }).setHealth fun h => { h with acc := h.acc + 64 * 1024 } := by
  subst hacc
  unfold State.testTransient
  exact State.patina_counts h

/-- Any other failure raises a margin, and counts as a transient. -/
theorem State.afterTest_transient {f : Nat × Nat} (hf : (s.core core).fenced = false) (hsame : second ≠ some f) (hspent : (s.core core).marginsSpent = false)
    (hacc : s.health.acc + 112 * 1024 < 600 * 1024) : ∃ tests flash, (s.afterTest core (some f) second).base =
      ({ s.setCore core (fun c => { Core.raised { c with activeUs := 0 } with test := 0 }) with
        health := { s.health with acc := s.health.acc + 112 * 1024, transient := sat16 (s.health.transient + 1), raises := sat32 (s.health.raises + 1)
                                  testTransients := tests, flash := flash } } : State).base := by
  have honce : s.afterTest core (some f) second = s.testOnce core := (if_neg (by simp [hf])).trans (if_neg hsame)
  have hgive : s.testOnce core = (((((s.setHealth fun h => { h with transient := sat16 (h.transient + 1) }).setCore core fun c =>
    { c with activeUs := 0 }).marginRaise core).testTransient).giveBack core) := if_neg (by simp [hspent])
  obtain ⟨acc, hraised⟩ : ∃ acc, s.health.acc + 48 * 1024 = acc := ⟨_, rfl⟩
  obtain ⟨flash, hraise⟩ := State.marginRaise_counts (core := core) (s := (s.setHealth fun h => { h with transient := sat16 (h.transient + 1) }).setCore core fun c =>
    { c with activeUs := 0 }) hraised (by omega)
  rw [honce, hgive, State.base_giveBack, hraise, State.testTransient_counts (acc := acc) rfl (by omega)]
  refine ⟨sat32 (s.health.testTransients + 1), flash, ?_⟩
  rw [show s.health.acc + 112 * 1024 = acc + 64 * 1024 by omega,
    ← State.setCore_setCore s core (fun c => Core.raised { c with activeUs := 0 }) fun c => { c with test := 0 },
    ← State.setCore_setCore s core (fun c => { c with activeUs := 0 }) Core.raised]
  rfl

/-- A fenced core is in service again after two passes, and else stays fenced. -/
theorem State.afterTest_unfenced (hf : (s.core core).fenced = true) : ∃ H, (s.afterTest core none none).base =
    ({ s.setCore core (fun c => { c with fenced := false, activeUs := 0, test := 0 }) with health := H } : State).base := by
  have hafter : s.afterTest core none none = ((s.setCore core fun c => { c with fenced := false, activeUs := 0 }).flashCopy).giveBack core := if_pos hf
  refine ⟨(s.setCore core fun c => { c with fenced := false, activeUs := 0 }).flashCopy.health, ?_⟩
  rw [hafter, State.base_giveBack, ← State.setCore_setCore s core (fun c => { c with fenced := false, activeUs := 0 }) fun c => { c with test := 0 }]
  rfl

theorem State.afterTest_stays (hf : (s.core core).fenced = true) (h : first.isSome = true ∨ second.isSome = true) :
    s.afterTest core first second = s.setCore core fun c => { c with test := 0 } := by
  refine (if_pos hf).trans (if_neg ?_)
  rcases h with h | h <;> simp [Option.isSome_iff_ne_none.1 h]

end Judged

/-! ## A core taken for its test (R369) -/

theorem State.takeCore_fields (hcore : core < s.cores.length) : (s.takeCore core).mem = s.mem ∧ ((s.takeCore core).core core).test = 3 ∧
    ((s.takeCore core).core core).fenced = (s.core core).fenced ∧
    ((s.takeCore core).core core).liveMargins = ((s.core core).delay, (s.core core).volt) ∧
    ∀ c, c ≠ core → ((s.takeCore core).core c).tested = (s.core c).tested := by
  obtain ⟨hmem, -, -, hself, hothers⟩ := State.base_oneCore (H := s.health) hcore (s.base_takeCore core)
  generalize (s.takeCore core).core core = x at hself
  have htest := congrArg Core.test hself
  have hfenced := congrArg Core.fenced hself
  have hmargins := congrArg Core.liveMargins hself
  exact ⟨hmem, htest, hfenced, hmargins, hothers⟩

/-- A core whose test falls due. -/
def Core.fallsDue (c : Core) : Core := if c.test = 0 then { c with test := 1 } else c

/-- The gap of a core depends on the task it runs alone. -/
theorem State.atGap_setCore (f : Core → Core) (hf : ∀ c, (f c).running = c.running) : (s.setCore core f).atGap core = s.atGap core := by
  unfold State.atGap
  rw [State.core_setCore_kept s Core.running f hf core]
  rfl

section Due

variable (htest : s.testable core = true) (h3 : (s.core core).test ≠ 3) (hdue : (s.core core).wantsTest = true ∨ 28800000000 ≤ (s.core core).activeUs)

include htest h3 hdue

/-- TEST_DUE of a core whose test is due. -/
theorem doTestDue_due : doTestDue core s =
    let u := s.setCore core Core.fallsDue
    if s.atGap core && u.testTurn core then u.takeCore core else u := by
  have hwants : ((s.core core).wantsTest || decide ((s.core core).activeUs ≥ testPeriod)) = true := by simpa [testPeriod] using hdue
  have hgap := State.atGap_setCore (s := s) (core := core) Core.fallsDue fun c => by unfold Core.fallsDue; split <;> rfl
  rw [← hgap]
  exact if_neg (by simp [htest, h3, hwants])

end Due

theorem doTestDue_early (hw : (s.core core).wantsTest = false) (ha : (s.core core).activeUs < 28800000000) : doTestDue core s = s :=
  if_pos (Or.inr (Or.inr (by simpa [hw, testPeriod] using ha)))

theorem doTestForced_takes (htest : s.testable core = true) (hw : (s.core core).wantsTest = true) (hturn : s.testTurn core = true) :
    doTestForced core s = s.takeCore core :=
  if_neg (by simp [htest, hw, hturn])

/-! ## TEST_RUN (R372) -/

theorem doTestRun_asks {r : CmdRef} {c : Cmd} (hflags : c.p 0x18 1 ≤ 3) (hres : c.p 0x19 7 = 0) (hz : ∀ n, 32 ≤ n → c.params.getD n 0 = 0)
    (hcores : ∀ x ∈ coresOf (c.p 0 24), s.coreInReset x = false ∧ s.enabled x = true ∧ ((s.core x).fenced = true → bitOf (c.p 0x18 1) 1 = true)) :
    doTestRun r c s = if (coresOf (c.p 0 24)).isEmpty then s.reply r stOk 0 0 else
      { s with cores := s.cores.mapIdx fun i x => if (coresOf (c.p 0 24)).contains i then x.named r (bitOf (c.p 0x18 1) 0) else x } := by
  have hreset : (coresOf (c.p 0 24)).any s.coreInReset = false := List.any_eq_false.2 fun x hx => by simp [(hcores x hx).1]
  have hnamed : ((coresOf (c.p 0 24)).any fun x => !s.enabled x || ((s.core x).fenced && !bitOf (c.p 0x18 1) 1)) = false :=
    List.any_eq_false.2 fun x hx => by
      obtain ⟨-, henabled, hfenced⟩ := hcores x hx
      cases hf : (s.core x).fenced <;> simp_all
  unfold doTestRun
  dsimp only
  rw [State.checked_pass _ _ _ _ (firstBad_none ?checks)]
  case checks =>
    simp only [List.forall_mem_cons]
    exact ⟨hreset, hnamed, by simpa using hflags, Cmd.reserved_pass hres, Cmd.beyond_passes hz, List.forall_mem_nil _⟩

end Sys2Proof.Machine
open Sys2Proof Sys2Proof.Machine

/-- Settles O38: TEST_RUN marks the cores it names, a core taken is one core changed but for scheduling, and so is each judgement of a test. -/
theorem testsTakeCoresAndGiveThemBack : Obligations.TestsTakeCoresAndGiveThemBack := by
  intro s core hcore others ended
  have hothers : ∀ {t : State}, t.mem = s.mem → (∀ c, c ≠ core → (t.core c).tested = (s.core c).tested) → others t := fun hm hc =>
    ⟨hm, fun c hne => Core.tested_fields (hc c hne)⟩
  refine ⟨fun r c hbegin hflags hres hz hcores => ?run, fun htest h3 hdue => ?due, fun hw ha => s.become_of_eq (doTestDue_early hw ha),
    fun htest hw hturn => ⟨_, congrArg s.become (doTestForced_takes htest hw hturn), ?forced⟩, fun hw => s.become_of_eq (if_pos (by simp [hw])),
    fun first second => ⟨fun h3 => s.become_of_eq (if_pos h3), fun h3 hf => ⟨?passes, ?permanent, ?transient⟩, fun h3 hf => ⟨?unfenced, ?stays⟩⟩⟩
  case run =>
    intro asked
    have hasks := doTestRun_asks (s := s.begin r) (r := r) hflags hres hz hcores
    refine ⟨fun hnone => State.become_acts hbegin (hasks.trans (if_pos (by simp [hnone]))), fun hsome => State.become_acts hbegin (hasks.trans (if_neg ?_))⟩
    simpa using hsome
  case due =>
    have hdo := doTestDue_due htest h3 hdue
    refine ⟨fun hgap hturn => ⟨_, congrArg s.become (hdo.trans (if_pos (Bool.and_eq_true_iff.2 ⟨hgap, hturn⟩))), ?_⟩,
      fun hgap => congrArg s.become (hdo.trans (if_neg (by simp [hgap])))⟩
    have hmark := State.core_setCore s core Core.fallsDue hcore
    have hsame : ∀ c, c ≠ core → ((s.setCore core Core.fallsDue).core c) = s.core c := fun c hc =>
      State.core_setCore_other s core c _ (Ne.symm hc)
    obtain ⟨hmem, htaken, hfenced, hmargins, hrest⟩ := State.takeCore_fields (s := s.setCore core Core.fallsDue)
      (by simpa using hcore)
    generalize (s.setCore core Core.fallsDue).takeCore core = t at hmem htaken hfenced hmargins hrest
    refine ⟨htaken, hfenced.trans ?_, hmargins.trans ?_, hothers hmem fun c hc => (hrest c hc).trans (congrArg Core.tested (hsame c hc))⟩
    · rw [hmark, Core.fallsDue]
      split <;> rfl
    · rw [hmark, Core.fallsDue]
      split <;> rfl
  case forced =>
    obtain ⟨hmem, htaken, hfenced, -, hrest⟩ := State.takeCore_fields hcore
    generalize s.takeCore core = t at hmem htaken hfenced hrest
    exact ⟨htaken, hfenced, hothers hmem hrest⟩
  case passes =>
    rintro rfl
    obtain ⟨hmem, hhealth, hrest, hself, hcmds⟩ := doTestDone_ends hcore h3 (State.afterTest_passes (second := second) hf)
    obtain ⟨hfenced, htest, hdelay, hvolt, hactive⟩ := Core.tested_fields hself
    exact ⟨_, rfl, ⟨htest, hcmds, hothers hmem hrest⟩, hfenced.trans hf, hactive, hdelay, hvolt, hhealth⟩
  case permanent =>
    rintro f rfl hagain hnext hjobs
    obtain ⟨flash, hfences⟩ := State.testFence_fences hcore hf hnext hjobs
    obtain ⟨hmem, hhealth, hrest, hself, hcmds⟩ := doTestDone_ends hcore h3 (congrArg State.base ((State.afterTest_permanent hf hagain).trans hfences))
    obtain ⟨hfenced, htest, -⟩ := Core.tested_fields hself
    exact ⟨_, rfl, ⟨htest, hcmds, hothers hmem hrest⟩, hfenced, congrArg Health.fences hhealth, (congrArg Health.acc hhealth).trans rfl⟩
  case transient =>
    rintro f rfl hsame hspent hacc
    obtain ⟨tests, flash, hafter⟩ := State.afterTest_transient hf hsame hspent hacc
    obtain ⟨hmem, hhealth, hrest, hself, hcmds⟩ := doTestDone_ends hcore h3 hafter
    obtain ⟨hfenced, htest, hdelay, hvolt, hactive⟩ := Core.tested_fields hself
    obtain ⟨hkept, hcount, hmargins⟩ := Core.raised_fields { s.core core with activeUs := 0 }
    refine ⟨_, rfl, ⟨htest, hcmds, hothers hmem hrest⟩, ?_, ?_, ?_, congrArg Health.acc hhealth, congrArg Health.transient hhealth, congrArg Health.raises hhealth⟩
    · exact (hfenced.trans hkept).trans hf
    · exact hactive.trans hcount
    · exact (congrArg₂ Prod.mk hdelay hvolt).trans hmargins
  case unfenced =>
    rintro rfl rfl
    obtain ⟨H, hafter⟩ := State.afterTest_unfenced hf
    obtain ⟨hmem, -, hrest, hself, hcmds⟩ := doTestDone_ends hcore h3 hafter
    obtain ⟨hfenced, htest, hdelay, hvolt, hactive⟩ := Core.tested_fields hself
    exact ⟨_, rfl, ⟨htest, hcmds, hothers hmem hrest⟩, hfenced, hactive, hdelay, hvolt⟩
  case stays =>
    intro hfail
    obtain ⟨hmem, -, hrest, hself, hcmds⟩ := doTestDone_ends (H := s.health) hcore h3 (congrArg State.base (State.afterTest_stays hf hfail))
    obtain ⟨hfenced, htest, -⟩ := Core.tested_fields hself
    exact ⟨_, rfl, ⟨htest, hcmds, hothers hmem hrest⟩, hfenced.trans hf⟩

end
